-- ==== Sys2Proof/Word.lean ====
section
/-! DEFINITION. The word types, register names and small operand types that the syntax of the instruction set uses. -/

namespace Sys2Proof

/-- A 64-bit scalar value, an address, or a code address in ENTRY layout (R40, R59). -/
abbrev Word := BitVec 64

/-- One byte of memory. -/
abbrev Byte := BitVec 8

/-- A scalar register x0 to x63 (R59). -/
abbrev XReg := Fin 64

/-- A vector register v0 to v63 (R60). -/
abbrev VReg := Fin 64

/-- A mask register m0 to m7 (R60). -/
abbrev MReg := Fin 8

/-- A tile register w0 to w3 (R60). -/
abbrev TReg := Fin 4

/-- A format-table entry f0 to f15 (R87). -/
abbrev FEnt := Fin 16

/-- A slot of a fetch line (R144). -/
abbrev Slot := Fin 5

/-- The last source of a scalar operation: a register (IM = 0) or an immediate (IM = 1), R169. -/
inductive SrcB where
  | reg (r : XReg)
  | imm (v : BitVec 32)
  deriving DecidableEq, Repr

/-- The second source of a vector operation: a vector group (XS = 0) or a scalar register (XS = 1), R227. -/
inductive VSrc where
  | vec (v : VReg)
  | scal (x : XReg)
  deriving DecidableEq, Repr

/-- The offset of a slide: an immediate (XS = 0) or a scalar register (XS = 1), R245. -/
inductive SlideOff where
  | imm (v : BitVec 32)
  | reg (x : XReg)
  deriving DecidableEq, Repr

/-- The memory scopes (R35). -/
inductive Scope where
  | hart | core | cluster | die | device | system
  deriving DecidableEq, Repr

/-- The rounding field of an instruction: a fixed mode, or the dynamic mode of FXM.RM (R152). -/
inductive RMode where
  | rne | rtz | rdn | rup | rmm | sr | dyn
  deriving DecidableEq, Repr

/-- The width of a scalar read-modify-write atomic (R182). -/
inductive AmoWidth where
  | w | d
  deriving DecidableEq, Repr

/-- The loop registers that `sset` writes (R79). -/
inductive LoopReg where
  | lc0 | lb0 | le0 | lc1 | lb1 | le1
  deriving DecidableEq, Repr

/-- The spaces of R113, coded as VMT.SP. -/
inductive Space where
  | global | tile | peer | host
  deriving DecidableEq, Repr

/-- The scale operands of `mrow` and `mrow.acc` in the scaled form (R259): the stream scale register and
the stationary scale register. -/
structure RowScale where
  stream : VReg
  stat   : VReg
  deriving DecidableEq, Repr

/-- The scalar subtrahend of a special function (R243): its register and its format entry. -/
structure SfSub where
  xs : XReg
  fb : FEnt
  deriving DecidableEq, Repr

/-- What a patrol read finds in a granule (R442). -/
inductive EccResult where
  | clean | corrected | uncorrectable
  deriving DecidableEq, Repr

/-- Where the granule of a patrol read lies (R442, R443): in a stack, in a line of the local store, in a tile, or in the
register of a hart that the spill banks hold. -/
inductive EccStore where
  | hbm (stack : Nat)
  | line (stack : Nat) (dirty : Bool)
  | tile (ctx handle : Nat)
  | spill (hart : Nat) (reg : Fin 76)
  deriving DecidableEq, Repr

/-- A walker of a die (R118). A `cold` one finds nothing in the die's walk cache and begins at the root. -/
structure Walker where
  die  : Nat
  cold : Bool
  deriving DecidableEq, Repr

/-- An entry of a timetable in one of its passes (R334, R335). -/
structure PassEntry where
  pass  : Nat
  entry : Nat
  deriving DecidableEq, Repr

/-- The outcome of a structural test run (R466): it passed, or the lanes (LANEF) and units (UNITF) that failed. -/
inductive TestResult where
  | pass
  | fail (lanes units : BitVec 32)
  deriving DecidableEq, Repr

/-- Why a never-entered line is fetched again (R488). -/
inductive FetchPathFault where
  | translation | parity | cacheError
  deriving DecidableEq, Repr

/-- A Mbostiha packet as it arrives at a port (R363): the path it came on, its header fields and its payload. -/
structure Packet where
  port    : Nat
  ver     : BitVec 8 := 1
  op      : BitVec 8
  flags   : BitVec 16 := 0
  path    : BitVec 32
  seq     : BitVec 32
  ack     : BitVec 32 := 0
  ctx     : BitVec 16
  rsv     : BitVec 32 := 0
  addr    : Word
  payload : List Byte := []
  /-- The remote IPv6 address. -/
  addr6   : BitVec 128 := 0
  /-- The CE mark of the IPv6 traffic class (R366). -/
  ce      : Bool := false
  /-- The packet arrived under the MACsec association of R362. -/
  trusted : Bool := true
  /-- The payload carries data that the sender has marked as poisoned (R386). -/
  pois    : Bool := false
  /-- The release of SYSTEM scope that publishes the sender's WRITEs up to this packet is performed (R288). -/
  rel     : Bool := false
  deriving DecidableEq, Repr

end Sys2Proof
end

