-- ==== Sys2Proof/Syntax.lean ====
section
/-! DEFINITION. The instruction syntax: one constructor per row of the opcode table, the engine steps included. -/

namespace Sys2Proof

/-- The instructions (family S, B, V, M, A, C and Y words) and the engine steps of the part.
A row of the table that is an engine step has no encoding: it is performed by an agenda entry of the state. -/
inductive Instr where
  /-- ADD (R171). Writes a + b to xd; b is a register or a sign-extended immediate. -/
  | add (xd : XReg) (xs1 : XReg) (b : SrcB)
  /-- SUB (R171). Writes a − b to xd. -/
  | sub (xd : XReg) (xs1 : XReg) (b : SrcB)
  /-- AND (R171). Writes a AND b to xd. -/
  | and_ (xd : XReg) (xs1 : XReg) (b : SrcB)
  /-- OR (R171). Writes a OR b to xd. -/
  | or_ (xd : XReg) (xs1 : XReg) (b : SrcB)
  /-- XOR (R171). Writes a XOR b to xd. -/
  | xor_ (xd : XReg) (xs1 : XReg) (b : SrcB)
  /-- ANDN (R171). Writes a AND NOT b to xd. -/
  | andn (xd : XReg) (xs1 : XReg) (b : SrcB)
  /-- ADDW (R171). Adds the low 32 bits of a and b and writes the sign-extended result. -/
  | addw (xd : XReg) (xs1 : XReg) (b : SrcB)
  /-- SUBW (R171). Subtracts at 32 bits and writes the sign-extended result. -/
  | subw (xd : XReg) (xs1 : XReg) (b : SrcB)
  /-- MIN (R171). Writes the signed lesser of a and b. -/
  | min_ (xd : XReg) (xs1 : XReg) (b : SrcB)
  /-- MAX (R171). Writes the signed greater of a and b. -/
  | max_ (xd : XReg) (xs1 : XReg) (b : SrcB)
  /-- MINU (R171). Writes the unsigned lesser of a and b. -/
  | minu (xd : XReg) (xs1 : XReg) (b : SrcB)
  /-- MAXU (R171). Writes the unsigned greater of a and b. -/
  | maxu (xd : XReg) (xs1 : XReg) (b : SrcB)
  /-- SLL (R172). Shifts a left by a 6-bit count. -/
  | sll (xd : XReg) (xs1 : XReg) (b : SrcB)
  /-- SRL (R172). Shifts a right logically by a 6-bit count. -/
  | srl (xd : XReg) (xs1 : XReg) (b : SrcB)
  /-- SRA (R172). Shifts a right arithmetically by a 6-bit count. -/
  | sra (xd : XReg) (xs1 : XReg) (b : SrcB)
  /-- ROL (R172). Rotates a left by a 6-bit count. -/
  | rol (xd : XReg) (xs1 : XReg) (b : SrcB)
  /-- ROR (R172). Rotates a right by a 6-bit count. -/
  | ror (xd : XReg) (xs1 : XReg) (b : SrcB)
  /-- SLLW (R172). Shifts left at 32 bits and sign-extends the result. -/
  | sllw (xd : XReg) (xs1 : XReg) (b : SrcB)
  /-- SRLW (R172). Shifts right logically at 32 bits and sign-extends the result. -/
  | srlw (xd : XReg) (xs1 : XReg) (b : SrcB)
  /-- SRAW (R172). Shifts right arithmetically at 32 bits and sign-extends the result. -/
  | sraw (xd : XReg) (xs1 : XReg) (b : SrcB)
  /-- SEQ (R173). Writes 1 when a equals b, and 0 otherwise. -/
  | seq (xd : XReg) (xs1 : XReg) (b : SrcB)
  /-- SNE (R173). Writes 1 when a differs from b. -/
  | sne (xd : XReg) (xs1 : XReg) (b : SrcB)
  /-- SLT (R173). Writes 1 when a is less than b, compared signed. -/
  | slt (xd : XReg) (xs1 : XReg) (b : SrcB)
  /-- SLTU (R173). Writes 1 when a is less than b, compared unsigned. -/
  | sltu (xd : XReg) (xs1 : XReg) (b : SrcB)
  /-- SGE (R173). Writes 1 when a is at least b, compared signed. -/
  | sge (xd : XReg) (xs1 : XReg) (b : SrcB)
  /-- SGEU (R173). Writes 1 when a is at least b, compared unsigned. -/
  | sgeu (xd : XReg) (xs1 : XReg) (b : SrcB)
  /-- SEL (R173). Writes a when xs3 is non-zero, else b. -/
  | sel (xd : XReg) (xs3 : XReg) (xs1 : XReg) (b : SrcB)
  /-- MUL (R174). Writes the low 64 bits of a · b. -/
  | mul (xd : XReg) (xs1 : XReg) (b : SrcB)
  /-- MULH (R174). Writes the high 64 bits of the signed product. -/
  | mulh (xd : XReg) (xs1 : XReg) (b : SrcB)
  /-- MULHU (R174). Writes the high 64 bits of the unsigned product. -/
  | mulhu (xd : XReg) (xs1 : XReg) (b : SrcB)
  /-- MULHSU (R174). Writes the high 64 bits of the signed-by-unsigned product. -/
  | mulhsu (xd : XReg) (xs1 : XReg) (b : SrcB)
  /-- MULW (R174). Multiplies at 32 bits and sign-extends the result. -/
  | mulw (xd : XReg) (xs1 : XReg) (b : SrcB)
  /-- MADD (R174). Writes the low 64 bits of a · b + xs3. -/
  | madd (xd : XReg) (xs1 : XReg) (b : SrcB) (xs3 : XReg)
  /-- DIV (R174). Signed division truncated toward zero, with fixed results for b = 0 and overflow. -/
  | div (xd : XReg) (xs1 : XReg) (b : SrcB)
  /-- DIVU (R174). Unsigned division, with all ones for b = 0. -/
  | divu (xd : XReg) (xs1 : XReg) (b : SrcB)
  /-- REM (R174). Signed remainder with the sign of a. -/
  | rem (xd : XReg) (xs1 : XReg) (b : SrcB)
  /-- REMU (R174). Unsigned remainder. -/
  | remu (xd : XReg) (xs1 : XReg) (b : SrcB)
  /-- CLZ (R175). Counts the leading zero bits of a. -/
  | clz (xd : XReg) (xs1 : XReg)
  /-- CTZ (R175). Counts the trailing zero bits of a. -/
  | ctz (xd : XReg) (xs1 : XReg)
  /-- CPOP (R175). Counts the one bits of a. -/
  | cpop (xd : XReg) (xs1 : XReg)
  /-- REV8 (R175). Reverses the eight bytes of a. -/
  | rev8 (xd : XReg) (xs1 : XReg)
  /-- BEXT (R175). Extracts a bit field, zero-extended. -/
  | bext (xd : XReg) (xs1 : XReg) (pos : Fin 64) (lenM1 : Fin 64)
  /-- BEXTS (R175). Extracts a bit field, sign-extended. -/
  | bexts (xd : XReg) (xs1 : XReg) (pos : Fin 64) (lenM1 : Fin 64)
  /-- BINS (R175). Inserts the low bits of a into a field of xd. -/
  | bins (xd : XReg) (xs1 : XReg) (pos : Fin 64) (lenM1 : Fin 64)
  /-- LI (R176). Loads the sign-extended 32-bit immediate. -/
  | li (xd : XReg) (imm : BitVec 32)
  /-- LIH (R176). Places the immediate above the low 32 bits of a. -/
  | lih (xd : XReg) (xs1 : XReg) (imm : BitVec 32)
  /-- LEA (R176). Writes a plus a shifted index. -/
  | lea (xd : XReg) (xs1 : XReg) (xs2 : XReg) (sh : Fin 8)
  /-- LCA (R176). Writes a PC-relative code address in ENTRY layout. -/
  | lca (xd : XReg) (slot : Slot) (imm : BitVec 32)
  /-- FSET (R109). Writes a format descriptor to the hart's table, ordered by the per-entry scoreboard. -/
  | fset (k : FEnt) (xs1 : XReg)
  /-- TALLOC (R125). Allocates a zero-filled tile and returns its handle or a FAIL code. -/
  | talloc (xd : XReg) (xs1 : XReg)
  /-- TFREE (R127). Moves a tile handle to FREEING and returns a result code. -/
  | tfree (xd : XReg) (xs1 : XReg)
  /-- LDB (R178). Loads a byte, sign-extended. -/
  | ldb (xd : XReg) (xs1 : XReg) (xs2 : XReg) (imm : BitVec 32)
  /-- LDBU (R178). Loads a byte, zero-extended. -/
  | ldbu (xd : XReg) (xs1 : XReg) (xs2 : XReg) (imm : BitVec 32)
  /-- LDH (R178). Loads 2 bytes, sign-extended. -/
  | ldh (xd : XReg) (xs1 : XReg) (xs2 : XReg) (imm : BitVec 32)
  /-- LDHU (R178). Loads 2 bytes, zero-extended. -/
  | ldhu (xd : XReg) (xs1 : XReg) (xs2 : XReg) (imm : BitVec 32)
  /-- LDW (R178). Loads 4 bytes, sign-extended. -/
  | ldw (xd : XReg) (xs1 : XReg) (xs2 : XReg) (imm : BitVec 32)
  /-- LDWU (R178). Loads 4 bytes, zero-extended. -/
  | ldwu (xd : XReg) (xs1 : XReg) (xs2 : XReg) (imm : BitVec 32)
  /-- LDD (R178). Loads 8 bytes. -/
  | ldd (xd : XReg) (xs1 : XReg) (xs2 : XReg) (imm : BitVec 32)
  /-- LDP (R178). Loads 16 bytes into a register pair. -/
  | ldp (xd : XReg) (xs1 : XReg) (xs2 : XReg) (imm : BitVec 32)
  /-- STB (R178). Stores a byte into the hart's unpublished writes. -/
  | stb (xs3 : XReg) (xs1 : XReg) (xs2 : XReg) (imm : BitVec 32)
  /-- STH (R178). Stores 2 bytes. -/
  | sth (xs3 : XReg) (xs1 : XReg) (xs2 : XReg) (imm : BitVec 32)
  /-- STW (R178). Stores 4 bytes. -/
  | stw (xs3 : XReg) (xs1 : XReg) (xs2 : XReg) (imm : BitVec 32)
  /-- STD (R178). Stores 8 bytes. -/
  | std (xs3 : XReg) (xs1 : XReg) (xs2 : XReg) (imm : BitVec 32)
  /-- STP (R178). Stores a register pair as 16 bytes. -/
  | stp (xs3 : XReg) (xs1 : XReg) (xs2 : XReg) (imm : BitVec 32)
  /-- AMOSWAP (R182). Atomically swaps a word or doubleword at its home and returns the old value. -/
  | amoswap (wd : AmoWidth) (xd : XReg) (xs2 : XReg) (xs1 : XReg) (imm : BitVec 32)
  /-- AMOADD (R182). Atomically adds at the home and returns the old value. -/
  | amoadd (wd : AmoWidth) (xd : XReg) (xs2 : XReg) (xs1 : XReg) (imm : BitVec 32)
  /-- AMOAND (R182). Atomically ANDs at the home and returns the old value. -/
  | amoand (wd : AmoWidth) (xd : XReg) (xs2 : XReg) (xs1 : XReg) (imm : BitVec 32)
  /-- AMOOR (R182). Atomically ORs at the home and returns the old value. -/
  | amoor (wd : AmoWidth) (xd : XReg) (xs2 : XReg) (xs1 : XReg) (imm : BitVec 32)
  /-- AMOXOR (R182). Atomically XORs at the home and returns the old value. -/
  | amoxor (wd : AmoWidth) (xd : XReg) (xs2 : XReg) (xs1 : XReg) (imm : BitVec 32)
  /-- AMOMIN (R182). Atomically keeps the signed minimum and returns the old value. -/
  | amomin (wd : AmoWidth) (xd : XReg) (xs2 : XReg) (xs1 : XReg) (imm : BitVec 32)
  /-- AMOMAX (R182). Atomically keeps the signed maximum and returns the old value. -/
  | amomax (wd : AmoWidth) (xd : XReg) (xs2 : XReg) (xs1 : XReg) (imm : BitVec 32)
  /-- AMOMINU (R182). Atomically keeps the unsigned minimum and returns the old value. -/
  | amominu (wd : AmoWidth) (xd : XReg) (xs2 : XReg) (xs1 : XReg) (imm : BitVec 32)
  /-- AMOMAXU (R182). Atomically keeps the unsigned maximum and returns the old value. -/
  | amomaxu (wd : AmoWidth) (xd : XReg) (xs2 : XReg) (xs1 : XReg) (imm : BitVec 32)
  /-- CAS_W (R183). Compare-and-swap of 4 bytes at the home. -/
  | casW (xd : XReg) (xs2 : XReg) (xs3 : XReg) (xs1 : XReg) (imm : BitVec 32)
  /-- CAS_D (R183). Compare-and-swap of 8 bytes at the home. -/
  | casD (xd : XReg) (xs2 : XReg) (xs3 : XReg) (xs1 : XReg) (imm : BitVec 32)
  /-- CAS_Q (R183). Compare-and-swap of 16 bytes using register pairs. -/
  | casQ (xd : XReg) (xs2 : XReg) (xs3 : XReg) (xs1 : XReg) (imm : BitVec 32)
  /-- J (R186). Transfers control to a line-relative target. -/
  | j (slot : Slot) (imm : BitVec 32)
  /-- CALL (R186). Writes the link and transfers control to a line-relative target. -/
  | call (xd : XReg) (slot : Slot) (imm : BitVec 32)
  /-- JR (R187). Transfers control to the code address held in a register. -/
  | jr (xs1 : XReg)
  /-- CALLR (R187). Writes the link and transfers control to a register code address. -/
  | callr (xd : XReg) (xs1 : XReg)
  /-- RET (R187). Returns through a register; behaves as jr and hints prediction. -/
  | ret (xs1 : XReg)
  /-- BEQ (R188). Branches when a equals b. -/
  | beq (xs1 : XReg) (xs2 : XReg) (slot : Slot) (imm : BitVec 32)
  /-- BNE (R188). Branches when a differs from b. -/
  | bne (xs1 : XReg) (xs2 : XReg) (slot : Slot) (imm : BitVec 32)
  /-- BLT (R188). Branches when a is less than b, signed. -/
  | blt (xs1 : XReg) (xs2 : XReg) (slot : Slot) (imm : BitVec 32)
  /-- BGE (R188). Branches when a is at least b, signed. -/
  | bge (xs1 : XReg) (xs2 : XReg) (slot : Slot) (imm : BitVec 32)
  /-- BLTU (R188). Branches when a is less than b, unsigned. -/
  | bltu (xs1 : XReg) (xs2 : XReg) (slot : Slot) (imm : BitVec 32)
  /-- BGEU (R188). Branches when a is at least b, unsigned. -/
  | bgeu (xs1 : XReg) (xs2 : XReg) (slot : Slot) (imm : BitVec 32)
  /-- LOOP0 (R189). Sets LB0, LE0 and LC0, and skips the body on a zero count. -/
  | loop0 (xs1 : XReg) (slot : Slot) (imm : BitVec 32)
  /-- LOOP1 (R189). Sets LB1, LE1 and LC1, and skips the body on a zero count. -/
  | loop1 (xs1 : XReg) (slot : Slot) (imm : BitVec 32)
  /-- LPEXIT0 (R191). Sets LC0 to zero and continues in sequence. -/
  | lpexit0
  /-- LPEXIT1 (R191). Sets LC1 to zero and continues in sequence. -/
  | lpexit1
  /-- SGET (R193). Reads a state register into xd under the access rules. -/
  | sget (xd : XReg) (num : BitVec 12)
  /-- SSET (R193). Writes xs1 to a state register that has no row of its own, field by field under the access rules. -/
  | sset (num : BitVec 12) (xs1 : XReg)
  /-- VLCAP_WRITE (R55). An sset of VLCAP governs later launches and makes instances refused at restore candidates again. -/
  | vlcapWrite (xs1 : XReg)
  /-- RSEED_WRITE (R74). An sset of RSEED reseeds every lane generator of the hart. -/
  | rseedWrite (xs1 : XReg)
  /-- DMODE_WRITE (R27). A write of DMODE starts a mode change, is refused and sets MERR, or clears MERR. -/
  | dmodeWrite (xs1 : XReg)
  /-- LOOP_REG_WRITE (R79). An sset of LCn, LBn or LEn pends until the next end check or iteration boundary. -/
  | loopRegWrite (r : LoopReg) (xs1 : XReg)
  /-- SYS (R194). Raises the system-call trap with TPC at the next slot. -/
  | sys (imm : BitVec 32)
  /-- BRK (R194). Raises the breakpoint trap with TPC at the brk. -/
  | brk (imm : BitVec 32)
  /-- TRET (R195). Returns from a trap to TPC and restores PRIV and ACT. -/
  | tret
  /-- UIRET (R196). Returns from a completion handler, or re-enters it for a pending delivery. -/
  | uiret
  /-- TLBINV (R197). Drops every TLB and walk-cache entry of a context on every die. -/
  | tlbinv (xs1 : XReg)
  /-- TLBINV_VA (R197). Drops the entries of the pages containing one address of a context. -/
  | tlbinvVa (xs1 : XReg) (xs2 : XReg)
  /-- FSYNC (R198). Waits for retirement, acquires at a scope, and discards fetched instruction lines. -/
  | fsync (scp : Scope)
  /-- KEYSET (R199). Installs XTS key material in a slot of every controller of the device. -/
  | keyset (xd : XReg) (xs1 : XReg) (xs2 : XReg)
  /-- KEYDEL (R446). Empties a key slot, drops the slot's cached lines and poisons the granules of its dirty lines. -/
  | keydel (xd : XReg) (xs1 : XReg)
  /-- CTXNEW (R367). Creates a context from a context descriptor, or returns a failure code. -/
  | ctxnew (xd : XReg) (xs1 : XReg)
  /-- CTXKILL (R448). Starts the kill and quiesce of a context. -/
  | ctxkill (xd : XReg) (xs1 : XReg)
  /-- QBIND (R344). qctl op 0 binds a queue to a header and its context. -/
  | qbind (xd : XReg) (xs1 : XReg) (xs2 : XReg)
  /-- QUNBIND (R344). qctl op 1 stops taking from a queue and discards unplaced taken launches. -/
  | qunbind (xd : XReg) (xs1 : XReg) (xs2 : XReg)
  /-- QPAUSE (R344). qctl op 2 stops taking and placing from a queue. -/
  | qpause (xd : XReg) (xs1 : XReg) (xs2 : XReg)
  /-- QRESUME (R344). qctl op 3 ends a pause. -/
  | qresume (xd : XReg) (xs1 : XReg) (xs2 : XReg)
  /-- QAPPEND (R342). qctl op 4 appends a launch record to a queue, or reports FULL or BUSY. -/
  | qappend (xd : XReg) (xs1 : XReg) (xs2 : XReg)
  /-- SCRUB (R199). Sets the zero-fill bit, and clears poison, of every granule in a physical range. -/
  | scrub (xd : XReg) (xs1 : XReg) (xs2 : XReg)
  /-- VCFG (R207). Sets VL and VTYPE from registers, setting VILL for a bad operand. -/
  | vcfg (xd : XReg) (xs1 : XReg) (xs2 : XReg)
  /-- VCFGI (R207). Sets VL from a register and VTYPE from the immediate. -/
  | vcfgi (xd : XReg) (xs1 : XReg) (vt : BitVec 9)
  /-- VCFGN (R207). Sets VL and VTYPE from the immediate. -/
  | vcfgn (xd : XReg) (avl : BitVec 17) (vt : BitVec 9)
  /-- VCFGMAX (R207). Sets VTYPE from the immediate and VL to VLMAX. -/
  | vcfgmax (xd : XReg) (vt : BitVec 9)
  /-- VSPACE (R205). Sets VMT.SP from the immediate. -/
  | vspace (sp : Space)
  /-- VSPACEX (R205). Sets VMT.SP from a register. -/
  | vspacex (xs1 : XReg)
  /-- VSETRE (R209). Sets VL so that a strip does not cross a KV block boundary. -/
  | vsetre (xd : XReg) (xs1 : XReg) (xs2 : XReg) (k : Fin 17)
  /-- VLD (R213). Unit-stride vector load. -/
  | vld (vr : VReg) (xb : XReg) (imm : BitVec 32) (fe : FEnt) (nf : Fin 8) (mk : MReg)
  /-- VLDS (R213). Strided vector load. -/
  | vlds (vr : VReg) (xb : XReg) (imm : BitVec 32) (xo : XReg) (fe : FEnt) (nf : Fin 8) (mk : MReg)
  /-- VLDX (R213). Ordered indexed vector load. -/
  | vldx (vr : VReg) (xb : XReg) (imm : BitVec 32) (vo : VReg) (fe : FEnt) (fi : FEnt) (nf : Fin 8) (mk : MReg)
  /-- VLDUX (R213). Unordered indexed vector load. -/
  | vldux (vr : VReg) (xb : XReg) (imm : BitVec 32) (vo : VReg) (fe : FEnt) (fi : FEnt) (nf : Fin 8) (mk : MReg)
  /-- VLDFF (R215). Fault-only-first load that reduces VL at a later faulting element. -/
  | vldff (vr : VReg) (xb : XReg) (imm : BitVec 32) (fe : FEnt) (nf : Fin 8) (mk : MReg)
  /-- VLM (R218). Loads a mask register from bytes. -/
  | vlm (md : MReg) (xb : XReg) (imm : BitVec 32)
  /-- VST (R213). Unit-stride vector store. -/
  | vst (vr : VReg) (xb : XReg) (imm : BitVec 32) (fe : FEnt) (nf : Fin 8) (mk : MReg)
  /-- VSTS (R213). Strided vector store. -/
  | vsts (vr : VReg) (xb : XReg) (imm : BitVec 32) (xo : XReg) (fe : FEnt) (nf : Fin 8) (mk : MReg)
  /-- VSTX (R216). Ordered indexed vector store. -/
  | vstx (vr : VReg) (xb : XReg) (imm : BitVec 32) (vo : VReg) (fe : FEnt) (fi : FEnt) (nf : Fin 8) (mk : MReg)
  /-- VSTUX (R216). Unordered indexed vector store. -/
  | vstux (vr : VReg) (xb : XReg) (imm : BitVec 32) (vo : VReg) (fe : FEnt) (fi : FEnt) (nf : Fin 8) (mk : MReg)
  /-- VSM (R218). Stores a mask register as bytes. -/
  | vsm (ms : MReg) (xb : XReg) (imm : BitVec 32)
  /-- VAMOSWAP (R220). Per-element atomic swap. -/
  | vamoswap (ord : Bool) (vr : VReg) (xb : XReg) (imm : BitVec 32) (vo : VReg) (fe : FEnt) (fi : FEnt) (mk : MReg)
  /-- VAMOADD (R220). Per-element atomic integer add. -/
  | vamoadd (ord : Bool) (vr : VReg) (xb : XReg) (imm : BitVec 32) (vo : VReg) (fe : FEnt) (fi : FEnt) (mk : MReg)
  /-- VAMOAND (R220). Per-element atomic AND. -/
  | vamoand (ord : Bool) (vr : VReg) (xb : XReg) (imm : BitVec 32) (vo : VReg) (fe : FEnt) (fi : FEnt) (mk : MReg)
  /-- VAMOOR (R220). Per-element atomic OR. -/
  | vamoor (ord : Bool) (vr : VReg) (xb : XReg) (imm : BitVec 32) (vo : VReg) (fe : FEnt) (fi : FEnt) (mk : MReg)
  /-- VAMOXOR (R220). Per-element atomic XOR. -/
  | vamoxor (ord : Bool) (vr : VReg) (xb : XReg) (imm : BitVec 32) (vo : VReg) (fe : FEnt) (fi : FEnt) (mk : MReg)
  /-- VAMOMIN (R220). Per-element atomic signed minimum. -/
  | vamomin (ord : Bool) (vr : VReg) (xb : XReg) (imm : BitVec 32) (vo : VReg) (fe : FEnt) (fi : FEnt) (mk : MReg)
  /-- VAMOMAX (R220). Per-element atomic signed maximum. -/
  | vamomax (ord : Bool) (vr : VReg) (xb : XReg) (imm : BitVec 32) (vo : VReg) (fe : FEnt) (fi : FEnt) (mk : MReg)
  /-- VAMOMINU (R220). Per-element atomic unsigned minimum. -/
  | vamominu (ord : Bool) (vr : VReg) (xb : XReg) (imm : BitVec 32) (vo : VReg) (fe : FEnt) (fi : FEnt) (mk : MReg)
  /-- VAMOMAXU (R220). Per-element atomic unsigned maximum. -/
  | vamomaxu (ord : Bool) (vr : VReg) (xb : XReg) (imm : BitVec 32) (vo : VReg) (fe : FEnt) (fi : FEnt) (mk : MReg)
  /-- VAMOFADD (R220). Per-element atomic floating add rounded by RNE. -/
  | vamofadd (ord : Bool) (vr : VReg) (xb : XReg) (imm : BitVec 32) (vo : VReg) (fe : FEnt) (fi : FEnt) (mk : MReg)
  /-- VCAS (R220). Per-element compare-and-swap of codes. -/
  | vcas (ord : Bool) (vr : VReg) (xb : XReg) (imm : BitVec 32) (vo : VReg) (fe : FEnt) (fi : FEnt) (mk : MReg)
  /-- MAND (R222). Mask AND. -/
  | mand (md : MReg) (ma : MReg) (mb : MReg)
  /-- MNAND (R222). Mask NAND. -/
  | mnand (md : MReg) (ma : MReg) (mb : MReg)
  /-- MANDN (R222). Mask AND-NOT. -/
  | mandn (md : MReg) (ma : MReg) (mb : MReg)
  /-- MOR (R222). Mask OR. -/
  | mor (md : MReg) (ma : MReg) (mb : MReg)
  /-- MNOR (R222). Mask NOR. -/
  | mnor (md : MReg) (ma : MReg) (mb : MReg)
  /-- MORN (R222). Mask OR-NOT. -/
  | morn (md : MReg) (ma : MReg) (mb : MReg)
  /-- MXOR (R222). Mask XOR. -/
  | mxor (md : MReg) (ma : MReg) (mb : MReg)
  /-- MXNOR (R222). Mask XNOR. -/
  | mxnor (md : MReg) (ma : MReg) (mb : MReg)
  /-- MCOUNT (R223). Counts the counted mask bits into xd. -/
  | mcount (xd : XReg) (ms : MReg) (mk : MReg)
  /-- MFIND (R223). Writes the index of the first counted bit, or all ones. -/
  | mfind (xd : XReg) (ms : MReg) (mk : MReg)
  /-- MCUT_LT (R223). Mask of the elements before the first counted bit. -/
  | mcutLt (md : MReg) (ms : MReg) (mk : MReg)
  /-- MCUT_LE (R223). Mask of the elements up to and including the first counted bit. -/
  | mcutLe (md : MReg) (ms : MReg) (mk : MReg)
  /-- MCUT_EQ (R223). Mask of the first counted bit alone. -/
  | mcutEq (md : MReg) (ms : MReg) (mk : MReg)
  /-- VRANK (R223). Writes to each element the number of counted bits below it. -/
  | vrank (vd : VReg) (ms : MReg) (mk : MReg)
  /-- VINDEX (R223). Writes each element's index. -/
  | vindex (vd : VReg) (mk : MReg)
  /-- VADD (R231). Integer vector add. -/
  | vadd (vd : VReg) (vs1 : VReg) (b : VSrc) (fd : FEnt) (fa : FEnt) (fb : FEnt) (mk : MReg)
  /-- VSUB (R231). Integer vector subtract. -/
  | vsub (vd : VReg) (vs1 : VReg) (b : VSrc) (fd : FEnt) (fa : FEnt) (fb : FEnt) (mk : MReg)
  /-- VRSUB (R231). Integer reverse subtract. -/
  | vrsub (vd : VReg) (vs1 : VReg) (b : VSrc) (fd : FEnt) (fa : FEnt) (fb : FEnt) (mk : MReg)
  /-- VMUL (R231). Integer vector multiply. -/
  | vmul (vd : VReg) (vs1 : VReg) (b : VSrc) (fd : FEnt) (fa : FEnt) (fb : FEnt) (mk : MReg)
  /-- VMULH (R231). Integer multiply, high part. -/
  | vmulh (vd : VReg) (vs1 : VReg) (b : VSrc) (fd : FEnt) (fa : FEnt) (fb : FEnt) (mk : MReg)
  /-- VDIV (R232). Integer division truncated toward zero. -/
  | vdiv (vd : VReg) (vs1 : VReg) (b : VSrc) (fd : FEnt) (fa : FEnt) (fb : FEnt) (mk : MReg)
  /-- VREM (R232). Integer remainder. -/
  | vrem (vd : VReg) (vs1 : VReg) (b : VSrc) (fd : FEnt) (fa : FEnt) (fb : FEnt) (mk : MReg)
  /-- VMACC (R231). Integer multiply-accumulate into the destination. -/
  | vmacc (vd : VReg) (vs1 : VReg) (b : VSrc) (fd : FEnt) (fa : FEnt) (fb : FEnt) (mk : MReg)
  /-- VABSD (R231). Integer absolute difference. -/
  | vabsd (vd : VReg) (vs1 : VReg) (b : VSrc) (fd : FEnt) (fa : FEnt) (fb : FEnt) (mk : MReg)
  /-- VAVG (R231). Integer average rounded by the rounding mode. -/
  | vavg (vd : VReg) (vs1 : VReg) (b : VSrc) (fd : FEnt) (fa : FEnt) (fb : FEnt) (mk : MReg) (rm : RMode)
  /-- VAND (R232). Bitwise AND of codes. -/
  | vand (vd : VReg) (vs1 : VReg) (b : VSrc) (fd : FEnt) (fa : FEnt) (fb : FEnt) (mk : MReg)
  /-- VOR (R232). Bitwise OR of codes. -/
  | vor (vd : VReg) (vs1 : VReg) (b : VSrc) (fd : FEnt) (fa : FEnt) (fb : FEnt) (mk : MReg)
  /-- VXOR (R232). Bitwise XOR of codes. -/
  | vxor (vd : VReg) (vs1 : VReg) (b : VSrc) (fd : FEnt) (fa : FEnt) (fb : FEnt) (mk : MReg)
  /-- VSLL (R232). Logical left shift of codes. -/
  | vsll (vd : VReg) (vs1 : VReg) (b : VSrc) (fd : FEnt) (fa : FEnt) (fb : FEnt) (mk : MReg)
  /-- VSRL (R232). Logical right shift of codes. -/
  | vsrl (vd : VReg) (vs1 : VReg) (b : VSrc) (fd : FEnt) (fa : FEnt) (fb : FEnt) (mk : MReg)
  /-- VSRA (R232). Arithmetic right shift of codes. -/
  | vsra (vd : VReg) (vs1 : VReg) (b : VSrc) (fd : FEnt) (fa : FEnt) (fb : FEnt) (mk : MReg)
  /-- VFADD (R233). Floating add with one rounding into FD. -/
  | vfadd (vd : VReg) (vs1 : VReg) (b : VSrc) (fd : FEnt) (fa : FEnt) (fb : FEnt) (mk : MReg) (rm : RMode)
  /-- VFSUB (R233). Floating subtract. -/
  | vfsub (vd : VReg) (vs1 : VReg) (b : VSrc) (fd : FEnt) (fa : FEnt) (fb : FEnt) (mk : MReg) (rm : RMode)
  /-- VFRSUB (R233). Floating reverse subtract. -/
  | vfrsub (vd : VReg) (vs1 : VReg) (b : VSrc) (fd : FEnt) (fa : FEnt) (fb : FEnt) (mk : MReg) (rm : RMode)
  /-- VFMUL (R233). Floating multiply. -/
  | vfmul (vd : VReg) (vs1 : VReg) (b : VSrc) (fd : FEnt) (fa : FEnt) (fb : FEnt) (mk : MReg) (rm : RMode)
  /-- VFDIV (R233). Floating divide. -/
  | vfdiv (vd : VReg) (vs1 : VReg) (b : VSrc) (fd : FEnt) (fa : FEnt) (fb : FEnt) (mk : MReg) (rm : RMode)
  /-- VFRDIV (R233). Floating reverse divide. -/
  | vfrdiv (vd : VReg) (vs1 : VReg) (b : VSrc) (fd : FEnt) (fa : FEnt) (fb : FEnt) (mk : MReg) (rm : RMode)
  /-- VFMACC (R233). Fused a · b + d into the destination. -/
  | vfmacc (vd : VReg) (vs1 : VReg) (b : VSrc) (fd : FEnt) (fa : FEnt) (fb : FEnt) (mk : MReg) (rm : RMode)
  /-- VFNMACC (R233). Fused −(a · b) − d. -/
  | vfnmacc (vd : VReg) (vs1 : VReg) (b : VSrc) (fd : FEnt) (fa : FEnt) (fb : FEnt) (mk : MReg) (rm : RMode)
  /-- VFMSAC (R233). Fused a · b − d. -/
  | vfmsac (vd : VReg) (vs1 : VReg) (b : VSrc) (fd : FEnt) (fa : FEnt) (fb : FEnt) (mk : MReg) (rm : RMode)
  /-- VFNMSAC (R233). Fused −(a · b) + d. -/
  | vfnmsac (vd : VReg) (vs1 : VReg) (b : VSrc) (fd : FEnt) (fa : FEnt) (fb : FEnt) (mk : MReg) (rm : RMode)
  /-- VFMA (R233). Fused a · b + c from a third source. -/
  | vfma (vd : VReg) (vs1 : VReg) (b : VSrc) (vs3 : VReg) (fd : FEnt) (fa : FEnt) (fb : FEnt) (mk : MReg) (rm : RMode)
  /-- VFSGNJ (R234). Magnitude of a with the sign of b. -/
  | vfsgnj (vd : VReg) (vs1 : VReg) (b : VSrc) (fd : FEnt) (fa : FEnt) (fb : FEnt) (mk : MReg) (rm : RMode)
  /-- VFSGNJN (R234). Magnitude of a with the inverted sign of b. -/
  | vfsgnjn (vd : VReg) (vs1 : VReg) (b : VSrc) (fd : FEnt) (fa : FEnt) (fb : FEnt) (mk : MReg) (rm : RMode)
  /-- VFSGNJX (R234). Magnitude of a with the XOR of the signs. -/
  | vfsgnjx (vd : VReg) (vs1 : VReg) (b : VSrc) (fd : FEnt) (fa : FEnt) (fb : FEnt) (mk : MReg) (rm : RMode)
  /-- VFCLASS (R234). Writes the class index of a into an integer entry. -/
  | vfclass (vd : VReg) (vs1 : VReg) (fd : FEnt) (fa : FEnt) (mk : MReg)
  /-- VMIN (R235). Element-wise minimum across entries. -/
  | vmin (vd : VReg) (vs1 : VReg) (b : VSrc) (fd : FEnt) (fa : FEnt) (fb : FEnt) (mk : MReg) (rm : RMode)
  /-- VMAX (R235). Element-wise maximum across entries. -/
  | vmax (vd : VReg) (vs1 : VReg) (b : VSrc) (fd : FEnt) (fa : FEnt) (fb : FEnt) (mk : MReg) (rm : RMode)
  /-- VMEQ (R235). Compares for equality into a mask. -/
  | vmeq (md : MReg) (vs1 : VReg) (b : VSrc) (fa : FEnt) (fb : FEnt) (mk : MReg)
  /-- VMNE (R235). Compares for inequality into a mask. -/
  | vmne (md : MReg) (vs1 : VReg) (b : VSrc) (fa : FEnt) (fb : FEnt) (mk : MReg)
  /-- VMLT (R235). Compares less-than into a mask. -/
  | vmlt (md : MReg) (vs1 : VReg) (b : VSrc) (fa : FEnt) (fb : FEnt) (mk : MReg)
  /-- VMLE (R235). Compares less-or-equal into a mask. -/
  | vmle (md : MReg) (vs1 : VReg) (b : VSrc) (fa : FEnt) (fb : FEnt) (mk : MReg)
  /-- VMGT (R235). Compares greater-than into a mask. -/
  | vmgt (md : MReg) (vs1 : VReg) (b : VSrc) (fa : FEnt) (fb : FEnt) (mk : MReg)
  /-- VMGE (R235). Compares greater-or-equal into a mask. -/
  | vmge (md : MReg) (vs1 : VReg) (b : VSrc) (fa : FEnt) (fb : FEnt) (mk : MReg)
  /-- VMERGE (R236). Selects a or b per element by a selector mask. -/
  | vmerge (vd : VReg) (vs1 : VReg) (b : VSrc) (fd : FEnt) (fa : FEnt) (fb : FEnt) (mk : MReg) (rm : RMode)
  /-- VSPLAT (R236). Writes a scalar value into every active element. -/
  | vsplat (vd : VReg) (xs : XReg) (fd : FEnt) (fb : FEnt) (mk : MReg) (rm : RMode)
  /-- VBFLY (R237). One Hadamard butterfly stage writing sum and difference groups. -/
  | vbfly (vd : VReg) (vs1 : VReg) (vs2 : VReg) (fd : FEnt) (fa : FEnt) (fb : FEnt) (mk : MReg) (rm : RMode) (sh : Fin 16)
  /-- VCVT (R239). Converts between entries with one rounding. -/
  | vcvt (vd : VReg) (vs1 : VReg) (fd : FEnt) (fa : FEnt) (mk : MReg) (rm : RMode)
  /-- VCVTBS (R240). Encodes blocks into a block-scaled entry with scale bytes. -/
  | vcvtbs (vd : VReg) (vs1 : VReg) (vs3 : VReg) (fd : FEnt) (fa : FEnt) (mk : MReg) (rm : RMode) (ty : Fin 4)
  /-- VCVTBD (R241). Decodes a block-scaled entry with its scales. -/
  | vcvtbd (vd : VReg) (vs1 : VReg) (vs3 : VReg) (fd : FEnt) (fa : FEnt) (mk : MReg) (rm : RMode)
  /-- VEXP (R242). Element-wise e^x. -/
  | vexp (vd : VReg) (vs1 : VReg) (sub : Option SfSub) (fd : FEnt) (fa : FEnt) (mk : MReg)
  /-- VEXP2 (R242). Element-wise 2^x. -/
  | vexp2 (vd : VReg) (vs1 : VReg) (sub : Option SfSub) (fd : FEnt) (fa : FEnt) (mk : MReg)
  /-- VLOG2 (R242). Element-wise log2 x. -/
  | vlog2 (vd : VReg) (vs1 : VReg) (sub : Option SfSub) (fd : FEnt) (fa : FEnt) (mk : MReg)
  /-- VRCP (R242). Element-wise reciprocal. -/
  | vrcp (vd : VReg) (vs1 : VReg) (sub : Option SfSub) (fd : FEnt) (fa : FEnt) (mk : MReg)
  /-- VRSQRT (R242). Element-wise reciprocal square root. -/
  | vrsqrt (vd : VReg) (vs1 : VReg) (sub : Option SfSub) (fd : FEnt) (fa : FEnt) (mk : MReg)
  /-- VSQRT (R242). Element-wise square root. -/
  | vsqrt (vd : VReg) (vs1 : VReg) (sub : Option SfSub) (fd : FEnt) (fa : FEnt) (mk : MReg)
  /-- VSIN (R242). Element-wise sine. -/
  | vsin (vd : VReg) (vs1 : VReg) (sub : Option SfSub) (fd : FEnt) (fa : FEnt) (mk : MReg)
  /-- VCOS (R242). Element-wise cosine. -/
  | vcos (vd : VReg) (vs1 : VReg) (sub : Option SfSub) (fd : FEnt) (fa : FEnt) (mk : MReg)
  /-- VTANH (R242). Element-wise hyperbolic tangent. -/
  | vtanh (vd : VReg) (vs1 : VReg) (sub : Option SfSub) (fd : FEnt) (fa : FEnt) (mk : MReg)
  /-- VSIGMOID (R242). Element-wise logistic sigmoid. -/
  | vsigmoid (vd : VReg) (vs1 : VReg) (sub : Option SfSub) (fd : FEnt) (fa : FEnt) (mk : MReg)
  /-- VERF (R242). Element-wise error function. -/
  | verf (vd : VReg) (vs1 : VReg) (sub : Option SfSub) (fd : FEnt) (fa : FEnt) (mk : MReg)
  /-- VLIFT (R245). Slides elements up by an offset. -/
  | vlift (vd : VReg) (vs1 : VReg) (off : SlideOff) (fd : FEnt) (mk : MReg)
  /-- VDROP (R245). Slides elements down by an offset. -/
  | vdrop (vd : VReg) (vs1 : VReg) (off : SlideOff) (fd : FEnt) (mk : MReg)
  /-- VLIFTX (R245). Slides up by one, inserting a scalar at element 0. -/
  | vliftx (vd : VReg) (vs1 : VReg) (xs : XReg) (fd : FEnt) (mk : MReg)
  /-- VDROPX (R245). Slides down by one, inserting a scalar at element VL − 1. -/
  | vdropx (vd : VReg) (vs1 : VReg) (xs : XReg) (fd : FEnt) (mk : MReg)
  /-- VPICK (R245). Gathers source elements by an index vector. -/
  | vpick (vd : VReg) (vs1 : VReg) (vs2 : VReg) (fd : FEnt) (fb : FEnt) (mk : MReg)
  /-- VPACK (R245). Compresses the counted elements to the front. -/
  | vpack (vd : VReg) (vs1 : VReg) (fd : FEnt) (mk : MReg)
  /-- VGET (R245). Moves element 0 into a scalar register. -/
  | vget (xd : XReg) (vs1 : VReg) (fd : FEnt)
  /-- VPLACE (R245). Moves a scalar into element 0. -/
  | vplace (vd : VReg) (xs : XReg) (fd : FEnt)
  /-- VFREDOSUM (R246). Ordered sum reduction into element 0. -/
  | vfredosum (vd : VReg) (vs1 : VReg) (vs2 : VReg) (fd : FEnt) (fa : FEnt) (mk : MReg) (rm : RMode)
  /-- VFREDUSUM (R246). Unordered sum reduction into element 0. -/
  | vfredusum (vd : VReg) (vs1 : VReg) (vs2 : VReg) (fd : FEnt) (fa : FEnt) (mk : MReg) (rm : RMode)
  /-- VFREDMAX (R246). Maximum reduction into element 0. -/
  | vfredmax (vd : VReg) (vs1 : VReg) (vs2 : VReg) (fd : FEnt) (fa : FEnt) (mk : MReg) (rm : RMode)
  /-- VFREDMIN (R246). Minimum reduction into element 0. -/
  | vfredmin (vd : VReg) (vs1 : VReg) (vs2 : VReg) (fd : FEnt) (fa : FEnt) (mk : MReg) (rm : RMode)
  /-- VREDSUM (R246). Exact integer sum reduction. -/
  | vredsum (vd : VReg) (vs1 : VReg) (vs2 : VReg) (fd : FEnt) (fa : FEnt) (mk : MReg) (rm : RMode)
  /-- VAPPEND (R248). Stores the counted elements consecutively from position xd and advances xd. -/
  | vappend (xd : XReg) (vs1 : VReg) (xb : XReg) (fd : FEnt) (mk : MReg)
  /-- AMODE_WS (R252). Enters weight-stationary array mode through ENTERING. -/
  | amodeWs (fa : FEnt)
  /-- AMODE_RS (R252). Enters result-stationary array mode through ENTERING. -/
  | amodeRs (fa : FEnt)
  /-- VMODE (R252). Drains the array and returns to VECTOR state. -/
  | vmode
  /-- WLD (R257). Loads a stationary tile from a vector register and latches its descriptor. -/
  | wld (wt : TReg) (vs1 : VReg) (fa : FEnt)
  /-- WST (R257). Copies a tile register into a vector register. -/
  | wst (vd : VReg) (wt : TReg)
  /-- MROW (R260). Weight-stationary row product starting from zero or the upstream partial. -/
  | mrow (vd : VReg) (vs1 : VReg) (wt : TReg) (sc : Option RowScale) (fa : FEnt) (fc : FEnt) (mk : MReg)
  /-- MROW_ACC (R260). Row product accumulating into VD. -/
  | mrowAcc (vd : VReg) (vs1 : VReg) (wt : TReg) (sc : Option RowScale) (fa : FEnt) (fc : FEnt) (mk : MReg)
  /-- MSLIDE (R260). Sliding correlation product from zero. -/
  | mslide (vd : VReg) (vs1 : VReg) (wt : TReg) (fa : FEnt) (fc : FEnt) (mk : MReg)
  /-- MSLIDE_ACC (R260). Sliding correlation product accumulating into VD. -/
  | mslideAcc (vd : VReg) (vs1 : VReg) (wt : TReg) (fa : FEnt) (fc : FEnt) (mk : MReg)
  /-- MACC (R263). Adds outer products to result-stationary accumulators. -/
  | macc (wt : TReg) (vs1 : VReg) (vs2 : VReg) (fa : FEnt) (fb : FEnt) (mk : MReg)
  /-- MACCZ (R263). Zeroes the accumulators, then adds outer products. -/
  | maccz (wt : TReg) (vs1 : VReg) (vs2 : VReg) (fa : FEnt) (fb : FEnt) (mk : MReg)
  /-- MDRAIN (R263). Drains the accumulators into VD row by row and zeroes them. -/
  | mdrain (vd : VReg) (wt : TReg) (fc : FEnt)
  /-- ACHAIN (R265). Collectively joins neighbouring cores' arrays into a chain. -/
  | achain (len : Fin 16) (pos : Fin 16)
  /-- AUNCHAIN (R265). Collectively leaves the chain. -/
  | aunchain
  /-- PHASE (R275). Release then acquire at the SCP scope. -/
  | phase (scp : Scope)
  /-- PHASE_REL (R274). Release at the SCP scope. -/
  | phaseRel (scp : Scope)
  /-- PHASE_ACQ (R275). Acquire at the SCP scope. -/
  | phaseAcq (scp : Scope)
  /-- PHASE_L (R273). Release then acquire at the scope of a launch level. -/
  | phaseL (n : Fin 8)
  /-- PHASE_REL_L (R273). Release at the scope of a launch level. -/
  | phaseRelL (n : Fin 8)
  /-- PHASE_ACQ_L (R273). Acquire at the scope of a launch level. -/
  | phaseAcqL (n : Fin 8)
  /-- HPLOAD (R306). Loads a sequence-head descriptor and projection into the Bolter. -/
  | hpload (xs : XReg)
  /-- HSIG (R307). Computes a query signature and probe order. -/
  | hsig (xd : XReg) (vs : VReg) (fe : FEnt)
  /-- KST (R308). Stores a key and links its position into its bucket. -/
  | kst (xd : XReg) (vs : VReg) (xp : XReg) (fe : FEnt)
  /-- BGATH (R310). Gathers sorted candidate positions, reporting dense required in status. -/
  | bgath (vd : VReg) (xq : XReg) (xn : XReg) (np : Fin 8)
  /-- BGATH_DFT (R310). Gathers candidate positions, trapping when dense is required. -/
  | bgathDft (vd : VReg) (xq : XReg) (xn : XReg) (np : Fin 8)
  /-- BXLAT_K (R312). Turns positions into key offsets and pins their pages. -/
  | bxlatK (vd : VReg) (vp : VReg)
  /-- BXLAT_V (R312). Turns positions into value offsets and pins their pages. -/
  | bxlatV (vd : VReg) (vp : VReg)
  /-- RESPIN (R313). Sets a residency table entry for a range. -/
  | respin (xd : XReg) (xs1 : XReg) (xs2 : XReg)
  /-- RESREL (R313). Clears a residency table entry. -/
  | resrel (xd : XReg) (xs1 : XReg)
  /-- PGREF (R298). Increments a page descriptor's reference count. -/
  | pgref (xd : XReg) (xs1 : XReg)
  /-- PGUNREF (R298). Decrements REF and frees the page or defers the free. -/
  | pgunref (xd : XReg) (xs1 : XReg) (xs2 : XReg)
  /-- STRM (R324). Issues a stream command on a fabric port. -/
  | strm (xs1 : XReg) (port : Fin 16)
  /-- STRM_V (R324). Issues a stream command on the vector port. -/
  | strmV (xs1 : XReg) (vr : VReg) (vi : Option VReg)
  /-- STRMW (R330). Waits until every earlier command on a port has appended its record. -/
  | strmw (port : Option (Fin 16))
  /-- CRWAIT (R330). Waits for a non-empty ring or a deadline and returns HEAD − TAIL. -/
  | crwait (xd : XReg) (xs1 : XReg) (xs2 : XReg)
  /-- CRPOP (R330). Consumes one record of a completion ring. -/
  | crpop (xd : XReg) (xs1 : XReg)
  /-- TMARK (R338). Checks deadline entries, advances the marker and makes entries due. -/
  | tmark (n : BitVec 32)
  /-- TMARK_NC (R338). Advances the marker without checking deadlines. -/
  | tmarkNc (n : BitVec 32)
  /-- TMWAIT (R340). Waits until a timetable entry is settled, rejected, faulted or closed. -/
  | tmwait (xd : XReg) (xs1 : XReg)
  /-- TMWAIVE (R340). Closes the hart's window of a due entry. -/
  | tmwaive (xs1 : XReg)
  /-- TMCNT (R340). Reads a Millrace counter of the context. -/
  | tmcnt (xd : XReg) (xs1 : XReg)
  /-- BAR_ARRIVE (R354). Releases at the level's scope and counts the hart into the barrier generation. -/
  | barArrive (xd : XReg) (n : Fin 8)
  /-- BAR_WAIT (R354). Waits for a generation to end, then acquires. -/
  | barWait (xs1 : XReg) (n : Fin 8)
  /-- BAR_SYNC (R354). Arrives and waits for its own generation. -/
  | barSync (n : Fin 8)
  /-- MCAST (R356). Releases at cluster scope and appends a value to target mailboxes. -/
  | mcast (xs1 : XReg) (xs2 : XReg)
  /-- MRECV (R356). Takes the oldest mailbox entry, then acquires at cluster scope. -/
  | mrecv (xd : XReg)
  /-- YIELD (R51). Yields to a pending pre-emption or offers the instance to the scheduler. -/
  | yield_
  /-- SLEEP (R357). Sleeps until a time, a deliverable completion or a yield request. -/
  | sleep (xd : XReg) (xs1 : XReg)
  /-- MODE_CHANGE_DONE (R26). Reprogramming and the HBM zero-fill of a mode change end and CHG returns to 0. -/
  | modeChangeDone
  /-- MODE_ENTER_DONE (R252). ENTERING ends 16 cycles after amode and MODE.ST becomes WS or RS. -/
  | modeEnterDone (h : Nat)
  /-- ARRAY_DRAIN_DONE (R252). A drain reaches DROW 64 and MODE.ST becomes DTGT. -/
  | arrayDrainDone (h : Nat)
  /-- CHAIN_COMPLETE (R265). Every hart of the chain has issued the collective form and all complete in one cycle. -/
  | chainComplete (h : Nat)
  /-- RELEASE_PERFORM (R274). A pending release is performed once its writes reach their homes, clearing PUBP. -/
  | releasePerform (h : Nat)
  /-- ACQUIRE_HOLD_END (R275). The 8 ns timebase hold of a multi-die acquire ends and the acquire retires. -/
  | acquireHoldEnd (h : Nat)
  /-- RESPIN_FILL (R313). The background fetch of a residency range pins its lines in the home caches. -/
  | respinFill (ctx : Nat) (e : Fin 64) (first : Nat)
  /-- STREAM_START (R315). The dispatcher starts the next accepted command once its port falls free. -/
  | streamStart (ctx : Nat) (flat : Nat) (port : Nat) (n : Nat)
  /-- RECORD_APPEND (R329). A finished command's completion record is appended once the ring has room. -/
  | recordAppend (ctx : Nat) (flat : Nat) (port : Nat)
  /-- UI_DELIVERY (R332). A completion interrupt is delivered to UIVEC or left pending. -/
  | uiDelivery (h : Nat)
  /-- WAIT_WAKE (R330). A waiting strmw, crwait, bar.wait, mrecv, tmwait or sleep finds its condition and retires. -/
  | waitWake (h : Nat)
  /-- TIMETABLE_READ (R335). At a new pass the Millrace reads the timetable entries. -/
  | timetableRead (launch : Nat) (die : Nat)
  /-- MILLRACE_ACTION_START (R336). The Millrace starts the highest-priority due action. -/
  | millraceActionStart (launch : Nat) (die : Nat)
  /-- ACTION_SETTLE (R334). A PROMOTE, EVICT or FETCH completes and its entry settles. -/
  | actionSettle (launch : Nat) (die : Nat) (entry : PassEntry)
  /-- BARRIER_GEN_END (R353). The last arrival's release is performed and GEN advances. -/
  | barrierGenEnd (launch : Nat) (level : Nat) (inst : Nat)
  /-- MCAST_APPEND (R356). A waiting mcast finds room in every target mailbox and appends. -/
  | mcastAppend (h : Nat)
  /-- PACKAGE_RESET (R142). Resets the package, generates device keys, zero-fills HBM and takes the reset settings. -/
  | packageReset
  /-- LAUNCH_TAKE (R343). The command unit takes the next record from a queue, checks it and advances HEAD. -/
  | launchTake (dev : Nat) (q : Nat)
  /-- DEPENDENCE_FAIL (R345). A launch with a failed DEP token is removed and its DONE token failed. -/
  | dependenceFail (launch : Nat)
  /-- PLACEMENT_ROUND (R347). Every 64 cycles the command unit places candidates or selects victims. -/
  | placementRound (dev : Nat)
  /-- YIELD_DEADLINE (R49). At T + 256 · YDL harts that have not yielded are stopped and the instance saved as forced. -/
  | yieldDeadline (launch : Nat) (ginst : Nat)
  /-- SHADOW_SWITCH (R52). A stopped hart's bank is exchanged with the staged incoming hart in 96 cycles. -/
  | shadowSwitch (h : Nat)
  /-- SPILL_REG_DONE (R53). A register's inward transfer completes and its valid bit is set. -/
  | spillRegDone (h : Nat) (reg : Fin 76)
  /-- IMAGE_WRITEBACK (R53). After outward transfer the outgoing image is written to the save area. -/
  | imageWriteback (h : Nat)
  /-- RESTORE (R85). A saved image is checked and loaded onto a core. -/
  | restore (h : Nat) (die : Nat) (core : Nat) (hnum : Nat)
  /-- HART_END (R58). A hart ends, performing a release at the outermost scope. -/
  | hartEnd (h : Nat)
  /-- LAUNCH_COMPLETE (R58). When every hart has ended the launch completes. -/
  | launchComplete (launch : Nat)
  /-- LINE_REFETCH (R147). A line with a parity mismatch is fetched again, corrected or trapped. -/
  | lineRefetch (h : Nat)
  /-- FETCH_PATH_REFETCH (R488). A faulting never-entered line is fetched again and 0x0902 recorded. -/
  | fetchPathRefetch (h : Nat) (line : Word) (why : FetchPathFault)
  /-- CONVOY_START (R159). A gathered convoy starts after the previous convoy has written every element. -/
  | convoyStart (h : Nat)
  /-- PAGE_WALK (R115). A walker reads the radix table and completes or faults every coalesced waiting access. -/
  | pageWalk (walker : Walker) (core : Nat) (ctx : Nat) (va : Word)
  /-- TILE_RELEASE (R127). When the last access to a FREEING tile retires its banks return and the handle is free. -/
  | tileRelease (ctx : Nat) (handle : Nat)
  /-- EVENT_RECORD_CLOSE (R393). An open CORRECTED record is closed after 1,000,000 ns and appended. -/
  | eventRecordClose (src : BitVec 16)
  /-- FATAL_RESET (R398). Within 1 ms of a FATAL event the package resets. -/
  | fatalReset
  /-- QUIESCE_DONE (R450). Every tagged operation has retired or been cancelled; 0x0406 recorded and the number freed. -/
  | quiesceDone (ctx : Nat)
  /-- QUIESCE_OVERRUN (R451). After 20 ms units still holding operations record 0x0407 and are fenced. -/
  | quiesceOverrun (ctx : Nat)
  /-- SIGNATURE_COMPARE (R460). Both redundant signatures have arrived and are compared to publish or kill. -/
  | signatureCompare (h : Nat)
  /-- DIVERGENCE_TIMEOUT (R462). One twin waits over 10 ms at a comparison point and the context is killed. -/
  | divergenceTimeout (h : Nat)
  /-- STRUCT_TEST_START (R463). The command unit starts a structural test on an idle core or bank. -/
  | structTestStart (die : Nat) (core : Nat) (kind : Nat) (bank : Nat)
  /-- STRUCT_TEST_DONE (R466). A structural test run completes and passes, or fences the core or retires the bank. -/
  | structTestDone (die : Nat) (core : Nat) (res : TestResult)
  /-- STRUCT_TEST_OVERDUE (R467). A test kind older than 24 hours records 0x0A10 and restricts placement. -/
  | structTestOverdue (die : Nat) (core : Nat) (kind : Nat)
  /-- WEIR_STEP (R360). At each 4-cycle boundary the Weir grants and releases rows. -/
  | weirStep (die : Nat) (clus : Nat)
  /-- CORE_ARRAY_IDLE (R360). 64 cycles after its last PE cycle a core becomes idle and releases rows. -/
  | coreArrayIdle (die : Nat) (core : Nat)
  /-- BUDGET_RECOMPUTE (R359). Every 1,200 cycles the arbiter recomputes cluster row budgets. -/
  | budgetRecompute
  /-- DRAW_OVER_BUDGET (R477). Averaged draw above 17 kW halves every budget for 10 ms. -/
  | drawOverBudget
  /-- BUDGET_HALVING_END (R477). The 10 ms halving of budgets ends. -/
  | budgetHalvingEnd
  /-- SLEW_VIOLATION (R478). A cluster current step over 16 rows records 0x0802, or a second fences the cluster. -/
  | slewViolation (die : Nat) (clus : Nat)
  /-- SLEW_LIMIT_END (R478). The one-second 8-row limit after a slew violation ends. -/
  | slewLimitEnd (die : Nat) (clus : Nat)
  /-- UNDERVOLTAGE (R479). A die or stack supply undervoltage records FATAL 0x0804. -/
  | undervoltage
  /-- WATCHDOG_STAGE1 (R480). A hart idle for WDP records 0x0830 and its instance is stopped as forced. -/
  | watchdogStage1 (h : Nat)
  /-- WATCHDOG_STAGE2 (R481). An instance not stopped within a further WDP kills the context with 0x0831. -/
  | watchdogStage2 (h : Nat)
  /-- SAVE_TIMEOUT (R483). A save unfinished after 2 · WDP resets its core and kills its contexts. -/
  | saveTimeout (h : Nat)
  /-- HBM_PER_BANK_REFRESH (R136). A channel issues a per-bank refresh at its interval. -/
  | hbmPerBankRefresh (stack : Nat) (ch : Nat) (bank : Nat) (postpone : Bool)
  /-- HBM_ALL_BANK_REFRESH (R136). Eight owed refreshes stop row opens and force all-bank refresh. -/
  | hbmAllBankRefresh (stack : Nat) (ch : Nat)
  /-- ACTIVATION_ALERT (R444). A channel's activation alert is serviced by refresh management and 0x0403 recorded. -/
  | activationAlert (stack : Nat) (ch : BitVec 16) (bank : BitVec 16)
  /-- PATROL_READ (R442). Patrol reads every granule within 24 hours and corrects or poisons. -/
  | patrolRead (store : EccStore) (granule : Nat) (res : EccResult)
  /-- HBM_CHANNEL_LOST (R445). Persistent interface parity failure records FATAL 0x0440. -/
  | hbmChannelLost (stack : Nat) (ch : BitVec 16)
  /-- LINK_CRC_FAIL (R470). A flit group with a CRC mismatch is discarded and a replay requested. -/
  | linkCrcFail (die : Nat) (edge : Fin 4)
  /-- LANE_BAD (R471). A lane failing parity in 16 groups within 100,000 ns is judged bad. -/
  | laneBad (die : Nat) (edge : Fin 4) (lane : Nat)
  /-- LANE_REPAIR (R472). A bad lane is mapped to a spare once any replay drains. -/
  | laneRepair (die : Nat) (edge : Fin 4)
  /-- CLOCK_LOWER (R475). A die over its temperature limit is lowered one clock step. -/
  | clockLower (die : Nat)
  /-- CLOCK_RAISE (R475). After 10 ms at 10 °C below the limit the clock rises one step. -/
  | clockRaise (die : Nat)
  /-- CLOCK_PAUSE_START (R476). The clock-change pause begins once every hop of the die is stable. -/
  | clockPauseStart (die : Nat)
  /-- CLOCK_PAUSE_END (R475). The 2,000 ns clock pause ends. -/
  | clockPauseEnd (die : Nat)
  /-- PORT_LINK_DOWN (R485). An Ethernet port loses its link and records 0x0720. -/
  | portLinkDown (port : Fin 33)
  /-- PORT_LINK_UP (R485). An Ethernet port's link returns and records 0x0721. -/
  | portLinkUp (port : Fin 33)
  /-- READ (R364). A READ packet is performed at the home and answered with READRSP. -/
  | pktRead (p : Packet)
  /-- READRSP (R364). A read response completes the issuing read. -/
  | pktReadRsp (p : Packet)
  /-- WRITE (R364). A WRITE packet writes its data at ADDR. -/
  | pktWrite (p : Packet)
  /-- QAPPEND_PACKET (R342). A QAPPEND packet performs qappend and responds with the result. -/
  | pktQappend (p : Packet)
  /-- ATOMIC (R364). An ATOMIC packet is performed once at the home and returns the old value. -/
  | pktAtomic (p : Packet)
  /-- ACK (R365). An ACK retires acknowledged packets and triggers retransmission of gaps. -/
  | pktAck (p : Packet)
  /-- CNP (R366). A congestion notice cuts the path's rate by 7/8. -/
  | pktCnp (p : Packet)
  /-- CMD (R364). A CMD packet is performed as a privileged form of R199. -/
  | pktCmd (p : Packet)
  /-- NAK (R364). A NAK faults the request it names with its fault code. -/
  | pktNak (p : Packet)
  /-- PACKET_DISCARD (R364). A packet with a bad OP, VER or reserved field is discarded and counted. -/
  | packetDiscard (p : Packet)
  /-- ACK_TIMER (R365). 2 µs after the last unacknowledged arrival an ACK is sent. -/
  | ackTimer (port : Nat) (path : BitVec 32)
  /-- RETX_TIMEOUT (R365). No ACK within the timeout retransmits every unacknowledged packet and doubles the timeout. -/
  | retxTimeout (port : Nat) (path : BitVec 32)
  /-- PATH_FAIL (R486). After eight timeouts the path fails, faulting its requests with code 11. -/
  | pathFail (port : Nat) (path : BitVec 32)
  /-- CNP_RATE_RECOVER (R366). Each 50 µs without a CNP adds 1% of line rate to the path. -/
  | cnpRateRecover (port : Nat) (path : BitVec 32)
  /-- CONVOY_COMPLETE (R159). A running convoy, including its array stage, finishes its last element or row and completes: VES returns to 0, RSEED advances for each drawing member, waiting fset changes and later instructions proceed, and held scalar instructions retire. -/
  | convoyComplete (h : Nat)
  deriving DecidableEq, Repr

end Sys2Proof
end

