-- ==== Sys2Proof/Decode.lean ====
section
/-! DEFINITION. The decoder of instruction words (R151 to R154) and the encoder, both from the encoding tables of
the chapters. -/

namespace Sys2Proof

/-- Why a word names no instruction (R153), in the order of the checks. -/
inductive DecErr where
  /-- The major opcode is unallocated, or the word is all zero. -/
  | opc
  /-- FN is unallocated for the major opcode. -/
  | fn
  /-- A reserved bit or code; the index of the lowest offending bit. -/
  | reserved (bit : Nat)
  deriving DecidableEq, Repr

/-- What the decoder answers. -/
inductive DecRes where
  | ok (i : Instr)
  | err (e : DecErr)
  deriving DecidableEq, Repr

/-- The fields of a family S word (R151). -/
structure SWord where
  opc : BitVec 8
  xd : BitVec 6
  xs1 : BitVec 6
  xs2 : BitVec 6
  xs3 : BitVec 6
  fn : BitVec 8
  im : BitVec 1
  fm : BitVec 4
  rsv : BitVec 19
  imm : BitVec 32
  deriving DecidableEq, Repr

/-- Reads the fields of a family S word. -/
def splitS (w : BitVec 96) : SWord :=
  { opc := w.extractLsb' 0 8, xd := w.extractLsb' 8 6, xs1 := w.extractLsb' 14 6, xs2 := w.extractLsb' 20 6, xs3 := w.extractLsb' 26 6, fn := w.extractLsb' 32 8, im := w.extractLsb' 40 1, fm := w.extractLsb' 41 4, rsv := w.extractLsb' 45 19, imm := w.extractLsb' 64 32 }

/-- Puts the fields of a family S word together. -/
def joinS (f : SWord) : BitVec 96 :=
  f.imm ++ f.rsv ++ f.fm ++ f.im ++ f.fn ++ f.xs3 ++ f.xs2 ++ f.xs1 ++ f.xd ++ f.opc

/-- The fields of a family B word (R151). -/
structure BWord where
  opc : BitVec 8
  xd : BitVec 6
  xs1 : BitVec 6
  xs2 : BitVec 6
  slot : BitVec 3
  cnd : BitVec 4
  fn : BitVec 8
  rsv : BitVec 23
  imm : BitVec 32
  deriving DecidableEq, Repr

/-- Reads the fields of a family B word. -/
def splitB (w : BitVec 96) : BWord :=
  { opc := w.extractLsb' 0 8, xd := w.extractLsb' 8 6, xs1 := w.extractLsb' 14 6, xs2 := w.extractLsb' 20 6, slot := w.extractLsb' 26 3, cnd := w.extractLsb' 29 4, fn := w.extractLsb' 33 8, rsv := w.extractLsb' 41 23, imm := w.extractLsb' 64 32 }

/-- Puts the fields of a family B word together. -/
def joinB (f : BWord) : BitVec 96 :=
  f.imm ++ f.rsv ++ f.fn ++ f.cnd ++ f.slot ++ f.xs2 ++ f.xs1 ++ f.xd ++ f.opc

/-- The fields of a family V word (R151). -/
structure VWord where
  opc : BitVec 8
  vd : BitVec 6
  vs1 : BitVec 6
  vs2 : BitVec 6
  vs3 : BitVec 6
  msk : BitVec 6
  fd : BitVec 4
  fa : BitVec 4
  fb : BitVec 4
  rmd : BitVec 3
  xs : BitVec 1
  fn : BitVec 8
  rsv : BitVec 2
  imm : BitVec 32
  deriving DecidableEq, Repr

/-- Reads the fields of a family V word. -/
def splitV (w : BitVec 96) : VWord :=
  { opc := w.extractLsb' 0 8, vd := w.extractLsb' 8 6, vs1 := w.extractLsb' 14 6, vs2 := w.extractLsb' 20 6, vs3 := w.extractLsb' 26 6, msk := w.extractLsb' 32 6, fd := w.extractLsb' 38 4, fa := w.extractLsb' 42 4, fb := w.extractLsb' 46 4, rmd := w.extractLsb' 50 3, xs := w.extractLsb' 53 1, fn := w.extractLsb' 54 8, rsv := w.extractLsb' 62 2, imm := w.extractLsb' 64 32 }

/-- Puts the fields of a family V word together. -/
def joinV (f : VWord) : BitVec 96 :=
  f.imm ++ f.rsv ++ f.fn ++ f.xs ++ f.rmd ++ f.fb ++ f.fa ++ f.fd ++ f.msk ++ f.vs3 ++ f.vs2 ++ f.vs1 ++ f.vd ++ f.opc

/-- The fields of a family M word (R151). -/
structure MWord where
  opc : BitVec 8
  vr : BitVec 6
  xb : BitVec 6
  xo : BitVec 6
  msk : BitVec 6
  fe : BitVec 4
  fi : BitVec 4
  nf : BitVec 3
  mop : BitVec 3
  fn : BitVec 8
  rsv : BitVec 10
  imm : BitVec 32
  deriving DecidableEq, Repr

/-- Reads the fields of a family M word. -/
def splitM (w : BitVec 96) : MWord :=
  { opc := w.extractLsb' 0 8, vr := w.extractLsb' 8 6, xb := w.extractLsb' 14 6, xo := w.extractLsb' 20 6, msk := w.extractLsb' 26 6, fe := w.extractLsb' 32 4, fi := w.extractLsb' 36 4, nf := w.extractLsb' 40 3, mop := w.extractLsb' 43 3, fn := w.extractLsb' 46 8, rsv := w.extractLsb' 54 10, imm := w.extractLsb' 64 32 }

/-- Puts the fields of a family M word together. -/
def joinM (f : MWord) : BitVec 96 :=
  f.imm ++ f.rsv ++ f.fn ++ f.mop ++ f.nf ++ f.fi ++ f.fe ++ f.msk ++ f.xo ++ f.xb ++ f.vr ++ f.opc

/-- The fields of a family A word (R151). -/
structure AWord where
  opc : BitVec 8
  vd : BitVec 6
  vs1 : BitVec 6
  vs2 : BitVec 6
  wt : BitVec 6
  msk : BitVec 6
  fa : BitVec 4
  fb : BitVec 4
  fc : BitVec 4
  fn : BitVec 8
  rsv : BitVec 6
  imm : BitVec 32
  deriving DecidableEq, Repr

/-- Reads the fields of a family A word. -/
def splitA (w : BitVec 96) : AWord :=
  { opc := w.extractLsb' 0 8, vd := w.extractLsb' 8 6, vs1 := w.extractLsb' 14 6, vs2 := w.extractLsb' 20 6, wt := w.extractLsb' 26 6, msk := w.extractLsb' 32 6, fa := w.extractLsb' 38 4, fb := w.extractLsb' 42 4, fc := w.extractLsb' 46 4, fn := w.extractLsb' 50 8, rsv := w.extractLsb' 58 6, imm := w.extractLsb' 64 32 }

/-- Puts the fields of a family A word together. -/
def joinA (f : AWord) : BitVec 96 :=
  f.imm ++ f.rsv ++ f.fn ++ f.fc ++ f.fb ++ f.fa ++ f.msk ++ f.wt ++ f.vs2 ++ f.vs1 ++ f.vd ++ f.opc

/-- The fields of a family C word (R151). -/
structure CWord where
  opc : BitVec 8
  xd : BitVec 6
  xs1 : BitVec 6
  xs2 : BitVec 6
  vr : BitVec 6
  port : BitVec 4
  vp : BitVec 1
  fn : BitVec 8
  rsv : BitVec 19
  imm : BitVec 32
  deriving DecidableEq, Repr

/-- Reads the fields of a family C word. -/
def splitC (w : BitVec 96) : CWord :=
  { opc := w.extractLsb' 0 8, xd := w.extractLsb' 8 6, xs1 := w.extractLsb' 14 6, xs2 := w.extractLsb' 20 6, vr := w.extractLsb' 26 6, port := w.extractLsb' 32 4, vp := w.extractLsb' 36 1, fn := w.extractLsb' 37 8, rsv := w.extractLsb' 45 19, imm := w.extractLsb' 64 32 }

/-- Puts the fields of a family C word together. -/
def joinC (f : CWord) : BitVec 96 :=
  f.imm ++ f.rsv ++ f.fn ++ f.vp ++ f.port ++ f.vr ++ f.xs2 ++ f.xs1 ++ f.xd ++ f.opc

/-- The fields of a family Y word (R151). -/
structure YWord where
  opc : BitVec 8
  xd : BitVec 6
  xs1 : BitVec 6
  xs2 : BitVec 6
  scp : BitVec 3
  fn : BitVec 8
  rsv : BitVec 27
  imm : BitVec 32
  deriving DecidableEq, Repr

/-- Reads the fields of a family Y word. -/
def splitY (w : BitVec 96) : YWord :=
  { opc := w.extractLsb' 0 8, xd := w.extractLsb' 8 6, xs1 := w.extractLsb' 14 6, xs2 := w.extractLsb' 20 6, scp := w.extractLsb' 26 3, fn := w.extractLsb' 29 8, rsv := w.extractLsb' 37 27, imm := w.extractLsb' 64 32 }

/-- Puts the fields of a family Y word together. -/
def joinY (f : YWord) : BitVec 96 :=
  f.imm ++ f.rsv ++ f.fn ++ f.scp ++ f.xs2 ++ f.xs1 ++ f.xd ++ f.opc

/-! ### Field helpers -/

/-- The index of the lowest set bit of a field that stands at `low`, which must be zero. -/
def rz {n : Nat} (low : Nat) (f : BitVec n) : Option Nat :=
  if f = 0 then none else some (low + (List.range n).findIdx (fun i => f.getLsbD i))

/-- A reserved code of a field whose lowest bit is `low`. -/
def badCode (low : Nat) (c : Bool) : Option Nat := if c then some low else none

/-- Bits 5:3 of a mask number act as reserved bits (R152). -/
def rzHi3 (low : Nat) (f : BitVec 6) : Option Nat := rz (low + 3) (f.extractLsb' 3 3)

/-- Bits 5:2 of a tile number act as reserved bits (R152). -/
def rzHi2 (low : Nat) (f : BitVec 6) : Option Nat := rz (low + 2) (f.extractLsb' 2 4)

/-- Bit 0 of a register pair field is reserved (R178, R183). -/
def rzBit (low : Nat) (f : BitVec 6) : Option Nat := badCode low (f.getLsbD 0)

/-- Bits 1:0 of the XD field of `crpop` are reserved (R330). -/
def rzLow2 (low : Nat) (f : BitVec 6) : Option Nat := rz low (f.extractLsb' 0 2)

/-- Immediate bits from `n` up are reserved; the immediate stands at bit 64. -/
def rzAbove (n : Nat) (imm : BitVec 32) : Option Nat := rz (64 + n) (imm >>> n)

def enc3 (m : Fin 8) : BitVec 6 := BitVec.ofNat 6 m.val
def dec3 (f : BitVec 6) : Fin 8 := (f.extractLsb' 0 3).toFin
def enc2 (t : Fin 4) : BitVec 6 := BitVec.ofNat 6 t.val
def dec2 (f : BitVec 6) : Fin 4 := (f.extractLsb' 0 2).toFin

/-- The slot field; codes 5 to 7 are refused elsewhere (R152). -/
def encSlot (k : Slot) : BitVec 3 := BitVec.ofNat 3 k.val
def decSlot (f : BitVec 3) : Slot := Fin.ofNat 5 f.toNat
def encSlot6 (k : Slot) : BitVec 6 := BitVec.ofNat 6 k.val

/-- RMD (R152). -/
def encRm : RMode → BitVec 3
  | .rne => 0 | .rtz => 1 | .rdn => 2 | .rup => 3 | .rmm => 4 | .sr => 5 | .dyn => 7

def decRm (f : BitVec 3) : RMode :=
  match f.toNat with
  | 0 => .rne | 1 => .rtz | 2 => .rdn | 3 => .rup | 4 => .rmm | 5 => .sr | _ => .dyn

/-- SCP (R35). -/
def encScope : Scope → BitVec 3
  | .hart => 0 | .core => 1 | .cluster => 2 | .die => 3 | .device => 4 | .system => 5

def decScope (f : BitVec 3) : Scope :=
  match f.toNat with
  | 0 => .hart | 1 => .core | 2 => .cluster | 3 => .die | 4 => .device | _ => .system

/-- The space of VMT.SP (R67). -/
def encSpace : Space → BitVec 2
  | .global => 0 | .tile => 1 | .peer => 2 | .host => 3

def decSpace (f : BitVec 2) : Space :=
  match f.toNat with
  | 0 => .global | 1 => .tile | 2 => .peer | _ => .host

/-- The last scalar source (R169): XS2 with IM = 0, IMM with IM = 1. -/
def bReg : SrcB → BitVec 6
  | .reg r => .ofFin r | .imm _ => 0
def bIm : SrcB → BitVec 1
  | .reg _ => 0 | .imm _ => 1
def bImm : SrcB → BitVec 32
  | .reg _ => 0 | .imm v => v
def bOf (im : BitVec 1) (xs2 : BitVec 6) (imm : BitVec 32) : SrcB :=
  if im = 1 then .imm imm else .reg xs2.toFin

/-- The field that IM leaves unused is reserved (R169). -/
def bRsv (im : BitVec 1) (xs2 : BitVec 6) (imm : BitVec 32) : Option Nat :=
  if im = 1 then rz 20 xs2 else rz 64 imm

/-- An immediate shift above the count field is reserved (R170). -/
def shRsv (n : Nat) (im : BitVec 1) (imm : BitVec 32) : Option Nat :=
  if im = 1 then rzAbove n imm else none

/-- A vector or scalar second source (R227). -/
def vsReg : VSrc → BitVec 6
  | .vec v => .ofFin v | .scal x => .ofFin x
def vsXs : VSrc → BitVec 1
  | .vec _ => 0 | .scal _ => 1
def vsOf (xs : BitVec 1) (vs2 : BitVec 6) : VSrc :=
  if xs = 1 then .scal vs2.toFin else .vec vs2.toFin

/-- POS and LEN − 1 of the bit-field forms (R175). -/
def immPosLen (pos lenM1 : Fin 64) : BitVec 32 := BitVec.ofNat 32 (pos.val + 64 * lenM1.val)

/-- AVL and VTYPE of `vcfgn` (R205). -/
def immAvlVt (avl : BitVec 17) (vt : BitVec 9) : BitVec 32 := (0 : BitVec 6) ++ vt ++ avl

/-- k of `vsetre` (R209). -/
def decK (imm : BitVec 32) : Fin 17 := Fin.ofNat 17 (imm.extractLsb' 0 5).toNat

/-- The scalar subtrahend of a special function (R242). -/
def subXs : Option SfSub → BitVec 6
  | some s => .ofFin s.xs | none => 0
def subIm : Option SfSub → BitVec 1
  | some _ => 1 | none => 0
def subFb : Option SfSub → BitVec 4
  | some s => .ofFin s.fb | none => 0
def subOf (xs : BitVec 1) (vs2 : BitVec 6) (fb : BitVec 4) : Option SfSub :=
  if xs = 1 then some { xs := vs2.toFin, fb := fb.toFin } else none

/-- The offset of a slide (R245). -/
def offReg : SlideOff → BitVec 6
  | .imm _ => 0 | .reg x => .ofFin x
def offXs : SlideOff → BitVec 1
  | .imm _ => 0 | .reg _ => 1
def offImm : SlideOff → BitVec 32
  | .imm v => v | .reg _ => 0
def offOf (xs : BitVec 1) (vs2 : BitVec 6) (imm : BitVec 32) : SlideOff :=
  if xs = 1 then .reg vs2.toFin else .imm imm

/-- The scale registers of `mrow` (R259): IMM[6] is SC. -/
def scVs2 : Option RowScale → BitVec 6
  | some s => .ofFin s.stream | none => 0
def scImm : Option RowScale → BitVec 32
  | some s => BitVec.ofNat 32 (64 + s.stat.val) | none => 0
def scOf (imm : BitVec 32) (vs2 : BitVec 6) : Option RowScale :=
  if imm.getLsbD 6 then some { stream := vs2.toFin, stat := (imm.extractLsb' 0 6).toFin } else none

/-- `achain` (R265). -/
def immLenPos (len pos : Fin 16) : BitVec 32 := BitVec.ofNat 32 (len.val + 16 * pos.val)

/-- The index group of `strm.v` (R324): IMM[6] is PE. -/
def viImm : Option VReg → BitVec 32
  | some v => BitVec.ofNat 32 (64 + v.val) | none => 0
def viOf (imm : BitVec 32) : Option VReg :=
  if imm.getLsbD 6 then some (imm.extractLsb' 0 6).toFin else none

/-- The port of `strmw` (R330). -/
def portBits : Option (Fin 16) → BitVec 4
  | some p => .ofFin p | none => 0
def portVp : Option (Fin 16) → BitVec 1
  | some _ => 0 | none => 1
def portOf (vp : BitVec 1) (port : BitVec 4) : Option (Fin 16) :=
  if vp = 1 then none else some port.toFin

/-- The number of a loop register (R61). -/
def encLoopReg : LoopReg → BitVec 32
  | .lc0 => 0x010 | .lb0 => 0x011 | .le0 => 0x012 | .lc1 => 0x013 | .lb1 => 0x014 | .le1 => 0x015

/-- Answers the instruction unless a reserved bit or code is set; then the lowest one (R153). -/
def chk (cs : List (Option Nat)) (i : Instr) : DecRes :=
  match cs.foldl (fun a c => match a, c with
      | some x, some y => some (min x y)
      | some x, none => some x
      | none, c => c) none with
  | none => .ok i
  | some b => .err (.reserved b)

/-! ### The decoder, one definition per major opcode

Lean's runtime gives no object to a constructor with a number above 244, and the opcode table has 357 rows; the
definitions that build such an instruction are marked noncomputable for that reason alone. The kernel evaluates
them. -/

/-- Major 0x01 (family S). -/
def dec01 (f : SWord) : DecRes :=
  match f.fn.toNat with
  | 0 => chk [rz 26 f.xs3, rz 41 f.fm, rz 45 f.rsv, bRsv f.im f.xs2 f.imm]
      (.add f.xd.toFin f.xs1.toFin (bOf f.im f.xs2 f.imm))
  | 1 => chk [rz 26 f.xs3, rz 41 f.fm, rz 45 f.rsv, bRsv f.im f.xs2 f.imm]
      (.sub f.xd.toFin f.xs1.toFin (bOf f.im f.xs2 f.imm))
  | 2 => chk [rz 26 f.xs3, rz 41 f.fm, rz 45 f.rsv, bRsv f.im f.xs2 f.imm]
      (.and_ f.xd.toFin f.xs1.toFin (bOf f.im f.xs2 f.imm))
  | 3 => chk [rz 26 f.xs3, rz 41 f.fm, rz 45 f.rsv, bRsv f.im f.xs2 f.imm]
      (.or_ f.xd.toFin f.xs1.toFin (bOf f.im f.xs2 f.imm))
  | 4 => chk [rz 26 f.xs3, rz 41 f.fm, rz 45 f.rsv, bRsv f.im f.xs2 f.imm]
      (.xor_ f.xd.toFin f.xs1.toFin (bOf f.im f.xs2 f.imm))
  | 5 => chk [rz 26 f.xs3, rz 41 f.fm, rz 45 f.rsv, bRsv f.im f.xs2 f.imm]
      (.andn f.xd.toFin f.xs1.toFin (bOf f.im f.xs2 f.imm))
  | 6 => chk [rz 26 f.xs3, rz 41 f.fm, rz 45 f.rsv, bRsv f.im f.xs2 f.imm]
      (.addw f.xd.toFin f.xs1.toFin (bOf f.im f.xs2 f.imm))
  | 7 => chk [rz 26 f.xs3, rz 41 f.fm, rz 45 f.rsv, bRsv f.im f.xs2 f.imm]
      (.subw f.xd.toFin f.xs1.toFin (bOf f.im f.xs2 f.imm))
  | 8 => chk [rz 26 f.xs3, rz 41 f.fm, rz 45 f.rsv, bRsv f.im f.xs2 f.imm]
      (.min_ f.xd.toFin f.xs1.toFin (bOf f.im f.xs2 f.imm))
  | 9 => chk [rz 26 f.xs3, rz 41 f.fm, rz 45 f.rsv, bRsv f.im f.xs2 f.imm]
      (.max_ f.xd.toFin f.xs1.toFin (bOf f.im f.xs2 f.imm))
  | 10 => chk [rz 26 f.xs3, rz 41 f.fm, rz 45 f.rsv, bRsv f.im f.xs2 f.imm]
      (.minu f.xd.toFin f.xs1.toFin (bOf f.im f.xs2 f.imm))
  | 11 => chk [rz 26 f.xs3, rz 41 f.fm, rz 45 f.rsv, bRsv f.im f.xs2 f.imm]
      (.maxu f.xd.toFin f.xs1.toFin (bOf f.im f.xs2 f.imm))
  | _ => .err .fn

/-- Major 0x02 (family S). -/
def dec02 (f : SWord) : DecRes :=
  match f.fn.toNat with
  | 0 => chk [rz 26 f.xs3, rz 41 f.fm, rz 45 f.rsv, bRsv f.im f.xs2 f.imm, shRsv 6 f.im f.imm]
      (.sll f.xd.toFin f.xs1.toFin (bOf f.im f.xs2 f.imm))
  | 1 => chk [rz 26 f.xs3, rz 41 f.fm, rz 45 f.rsv, bRsv f.im f.xs2 f.imm, shRsv 6 f.im f.imm]
      (.srl f.xd.toFin f.xs1.toFin (bOf f.im f.xs2 f.imm))
  | 2 => chk [rz 26 f.xs3, rz 41 f.fm, rz 45 f.rsv, bRsv f.im f.xs2 f.imm, shRsv 6 f.im f.imm]
      (.sra f.xd.toFin f.xs1.toFin (bOf f.im f.xs2 f.imm))
  | 3 => chk [rz 26 f.xs3, rz 41 f.fm, rz 45 f.rsv, bRsv f.im f.xs2 f.imm, shRsv 6 f.im f.imm]
      (.rol f.xd.toFin f.xs1.toFin (bOf f.im f.xs2 f.imm))
  | 4 => chk [rz 26 f.xs3, rz 41 f.fm, rz 45 f.rsv, bRsv f.im f.xs2 f.imm, shRsv 6 f.im f.imm]
      (.ror f.xd.toFin f.xs1.toFin (bOf f.im f.xs2 f.imm))
  | 5 => chk [rz 26 f.xs3, rz 41 f.fm, rz 45 f.rsv, bRsv f.im f.xs2 f.imm, shRsv 5 f.im f.imm]
      (.sllw f.xd.toFin f.xs1.toFin (bOf f.im f.xs2 f.imm))
  | 6 => chk [rz 26 f.xs3, rz 41 f.fm, rz 45 f.rsv, bRsv f.im f.xs2 f.imm, shRsv 5 f.im f.imm]
      (.srlw f.xd.toFin f.xs1.toFin (bOf f.im f.xs2 f.imm))
  | 7 => chk [rz 26 f.xs3, rz 41 f.fm, rz 45 f.rsv, bRsv f.im f.xs2 f.imm, shRsv 5 f.im f.imm]
      (.sraw f.xd.toFin f.xs1.toFin (bOf f.im f.xs2 f.imm))
  | _ => .err .fn

/-- Major 0x03 (family S). -/
def dec03 (f : SWord) : DecRes :=
  match f.fn.toNat with
  | 0 => chk [rz 26 f.xs3, rz 41 f.fm, rz 45 f.rsv, bRsv f.im f.xs2 f.imm]
      (.seq f.xd.toFin f.xs1.toFin (bOf f.im f.xs2 f.imm))
  | 1 => chk [rz 26 f.xs3, rz 41 f.fm, rz 45 f.rsv, bRsv f.im f.xs2 f.imm]
      (.sne f.xd.toFin f.xs1.toFin (bOf f.im f.xs2 f.imm))
  | 2 => chk [rz 26 f.xs3, rz 41 f.fm, rz 45 f.rsv, bRsv f.im f.xs2 f.imm]
      (.slt f.xd.toFin f.xs1.toFin (bOf f.im f.xs2 f.imm))
  | 3 => chk [rz 26 f.xs3, rz 41 f.fm, rz 45 f.rsv, bRsv f.im f.xs2 f.imm]
      (.sltu f.xd.toFin f.xs1.toFin (bOf f.im f.xs2 f.imm))
  | 4 => chk [rz 26 f.xs3, rz 41 f.fm, rz 45 f.rsv, bRsv f.im f.xs2 f.imm]
      (.sge f.xd.toFin f.xs1.toFin (bOf f.im f.xs2 f.imm))
  | 5 => chk [rz 26 f.xs3, rz 41 f.fm, rz 45 f.rsv, bRsv f.im f.xs2 f.imm]
      (.sgeu f.xd.toFin f.xs1.toFin (bOf f.im f.xs2 f.imm))
  | 8 => chk [rz 41 f.fm, rz 45 f.rsv, bRsv f.im f.xs2 f.imm]
      (.sel f.xd.toFin f.xs3.toFin f.xs1.toFin (bOf f.im f.xs2 f.imm))
  | _ => .err .fn

/-- Major 0x04 (family S). -/
def dec04 (f : SWord) : DecRes :=
  match f.fn.toNat with
  | 0 => chk [rz 26 f.xs3, rz 41 f.fm, rz 45 f.rsv, bRsv f.im f.xs2 f.imm]
      (.mul f.xd.toFin f.xs1.toFin (bOf f.im f.xs2 f.imm))
  | 1 => chk [rz 26 f.xs3, rz 41 f.fm, rz 45 f.rsv, bRsv f.im f.xs2 f.imm]
      (.mulh f.xd.toFin f.xs1.toFin (bOf f.im f.xs2 f.imm))
  | 2 => chk [rz 26 f.xs3, rz 41 f.fm, rz 45 f.rsv, bRsv f.im f.xs2 f.imm]
      (.mulhu f.xd.toFin f.xs1.toFin (bOf f.im f.xs2 f.imm))
  | 3 => chk [rz 26 f.xs3, rz 41 f.fm, rz 45 f.rsv, bRsv f.im f.xs2 f.imm]
      (.mulhsu f.xd.toFin f.xs1.toFin (bOf f.im f.xs2 f.imm))
  | 4 => chk [rz 26 f.xs3, rz 41 f.fm, rz 45 f.rsv, bRsv f.im f.xs2 f.imm]
      (.mulw f.xd.toFin f.xs1.toFin (bOf f.im f.xs2 f.imm))
  | 5 => chk [rz 41 f.fm, rz 45 f.rsv, bRsv f.im f.xs2 f.imm]
      (.madd f.xd.toFin f.xs1.toFin (bOf f.im f.xs2 f.imm) f.xs3.toFin)
  | 8 => chk [rz 26 f.xs3, rz 41 f.fm, rz 45 f.rsv, bRsv f.im f.xs2 f.imm]
      (.div f.xd.toFin f.xs1.toFin (bOf f.im f.xs2 f.imm))
  | 9 => chk [rz 26 f.xs3, rz 41 f.fm, rz 45 f.rsv, bRsv f.im f.xs2 f.imm]
      (.divu f.xd.toFin f.xs1.toFin (bOf f.im f.xs2 f.imm))
  | 10 => chk [rz 26 f.xs3, rz 41 f.fm, rz 45 f.rsv, bRsv f.im f.xs2 f.imm]
      (.rem f.xd.toFin f.xs1.toFin (bOf f.im f.xs2 f.imm))
  | 11 => chk [rz 26 f.xs3, rz 41 f.fm, rz 45 f.rsv, bRsv f.im f.xs2 f.imm]
      (.remu f.xd.toFin f.xs1.toFin (bOf f.im f.xs2 f.imm))
  | _ => .err .fn

/-- Major 0x05 (family S). -/
def dec05 (f : SWord) : DecRes :=
  match f.fn.toNat with
  | 0 => chk [rz 20 f.xs2, rz 26 f.xs3, rz 40 f.im, rz 41 f.fm, rz 45 f.rsv, rz 64 f.imm]
      (.clz f.xd.toFin f.xs1.toFin)
  | 1 => chk [rz 20 f.xs2, rz 26 f.xs3, rz 40 f.im, rz 41 f.fm, rz 45 f.rsv, rz 64 f.imm]
      (.ctz f.xd.toFin f.xs1.toFin)
  | 2 => chk [rz 20 f.xs2, rz 26 f.xs3, rz 40 f.im, rz 41 f.fm, rz 45 f.rsv, rz 64 f.imm]
      (.cpop f.xd.toFin f.xs1.toFin)
  | 3 => chk [rz 20 f.xs2, rz 26 f.xs3, rz 40 f.im, rz 41 f.fm, rz 45 f.rsv, rz 64 f.imm]
      (.rev8 f.xd.toFin f.xs1.toFin)
  | 4 => chk [rz 20 f.xs2, rz 26 f.xs3, rz 40 f.im, rz 41 f.fm, rz 45 f.rsv, rzAbove 12 f.imm]
      (.bext f.xd.toFin f.xs1.toFin (f.imm.extractLsb' 0 6).toFin (f.imm.extractLsb' 6 6).toFin)
  | 5 => chk [rz 20 f.xs2, rz 26 f.xs3, rz 40 f.im, rz 41 f.fm, rz 45 f.rsv, rzAbove 12 f.imm]
      (.bexts f.xd.toFin f.xs1.toFin (f.imm.extractLsb' 0 6).toFin (f.imm.extractLsb' 6 6).toFin)
  | 6 => chk [rz 20 f.xs2, rz 26 f.xs3, rz 40 f.im, rz 41 f.fm, rz 45 f.rsv, rzAbove 12 f.imm]
      (.bins f.xd.toFin f.xs1.toFin (f.imm.extractLsb' 0 6).toFin (f.imm.extractLsb' 6 6).toFin)
  | _ => .err .fn

/-- Major 0x06 (family S). -/
def dec06 (f : SWord) : DecRes :=
  match f.fn.toNat with
  | 0 => chk [rz 14 f.xs1, rz 20 f.xs2, rz 26 f.xs3, rz 40 f.im, rz 41 f.fm, rz 45 f.rsv]
      (.li f.xd.toFin f.imm)
  | 1 => chk [rz 20 f.xs2, rz 26 f.xs3, rz 40 f.im, rz 41 f.fm, rz 45 f.rsv]
      (.lih f.xd.toFin f.xs1.toFin f.imm)
  | 2 => chk [rz 26 f.xs3, rz 40 f.im, rz 41 f.fm, rz 45 f.rsv, rzAbove 3 f.imm]
      (.lea f.xd.toFin f.xs1.toFin f.xs2.toFin (f.imm.extractLsb' 0 3).toFin)
  | 3 => chk [rz 14 f.xs1, rz 26 f.xs3, rz 40 f.im, rz 41 f.fm, rz 45 f.rsv, rzHi3 20 f.xs2, badCode 20 (4 < (f.xs2.extractLsb' 0 3).toNat)]
      (.lca f.xd.toFin (decSlot (f.xs2.extractLsb' 0 3)) f.imm)
  | _ => .err .fn

/-- Major 0x07 (family S). -/
def dec07 (f : SWord) : DecRes :=
  match f.fn.toNat with
  | 0 => chk [rz 8 f.xd, rz 20 f.xs2, rz 26 f.xs3, rz 40 f.im, rz 45 f.rsv, rz 64 f.imm]
      (.fset f.fm.toFin f.xs1.toFin)
  | 1 => chk [rz 20 f.xs2, rz 26 f.xs3, rz 40 f.im, rz 41 f.fm, rz 45 f.rsv, rz 64 f.imm]
      (.talloc f.xd.toFin f.xs1.toFin)
  | 2 => chk [rz 20 f.xs2, rz 26 f.xs3, rz 40 f.im, rz 41 f.fm, rz 45 f.rsv, rz 64 f.imm]
      (.tfree f.xd.toFin f.xs1.toFin)
  | _ => .err .fn

/-- Major 0x20 (family S). -/
def dec20 (f : SWord) : DecRes :=
  match f.fn.toNat with
  | 0 => chk [rz 26 f.xs3, rz 40 f.im, rz 41 f.fm, rz 45 f.rsv]
      (.ldb f.xd.toFin f.xs1.toFin f.xs2.toFin f.imm)
  | 1 => chk [rz 26 f.xs3, rz 40 f.im, rz 41 f.fm, rz 45 f.rsv]
      (.ldbu f.xd.toFin f.xs1.toFin f.xs2.toFin f.imm)
  | 2 => chk [rz 26 f.xs3, rz 40 f.im, rz 41 f.fm, rz 45 f.rsv]
      (.ldh f.xd.toFin f.xs1.toFin f.xs2.toFin f.imm)
  | 3 => chk [rz 26 f.xs3, rz 40 f.im, rz 41 f.fm, rz 45 f.rsv]
      (.ldhu f.xd.toFin f.xs1.toFin f.xs2.toFin f.imm)
  | 4 => chk [rz 26 f.xs3, rz 40 f.im, rz 41 f.fm, rz 45 f.rsv]
      (.ldw f.xd.toFin f.xs1.toFin f.xs2.toFin f.imm)
  | 5 => chk [rz 26 f.xs3, rz 40 f.im, rz 41 f.fm, rz 45 f.rsv]
      (.ldwu f.xd.toFin f.xs1.toFin f.xs2.toFin f.imm)
  | 6 => chk [rz 26 f.xs3, rz 40 f.im, rz 41 f.fm, rz 45 f.rsv]
      (.ldd f.xd.toFin f.xs1.toFin f.xs2.toFin f.imm)
  | 7 => chk [rz 26 f.xs3, rz 40 f.im, rz 41 f.fm, rz 45 f.rsv, rzBit 8 f.xd]
      (.ldp f.xd.toFin f.xs1.toFin f.xs2.toFin f.imm)
  | _ => .err .fn

/-- Major 0x21 (family S). -/
def dec21 (f : SWord) : DecRes :=
  match f.fn.toNat with
  | 0 => chk [rz 8 f.xd, rz 40 f.im, rz 41 f.fm, rz 45 f.rsv]
      (.stb f.xs3.toFin f.xs1.toFin f.xs2.toFin f.imm)
  | 1 => chk [rz 8 f.xd, rz 40 f.im, rz 41 f.fm, rz 45 f.rsv]
      (.sth f.xs3.toFin f.xs1.toFin f.xs2.toFin f.imm)
  | 2 => chk [rz 8 f.xd, rz 40 f.im, rz 41 f.fm, rz 45 f.rsv]
      (.stw f.xs3.toFin f.xs1.toFin f.xs2.toFin f.imm)
  | 3 => chk [rz 8 f.xd, rz 40 f.im, rz 41 f.fm, rz 45 f.rsv]
      (.std f.xs3.toFin f.xs1.toFin f.xs2.toFin f.imm)
  | 4 => chk [rz 8 f.xd, rz 40 f.im, rz 41 f.fm, rz 45 f.rsv, rzBit 26 f.xs3]
      (.stp f.xs3.toFin f.xs1.toFin f.xs2.toFin f.imm)
  | _ => .err .fn

/-- Major 0x22 (family S). -/
def dec22 (f : SWord) : DecRes :=
  match f.fn.toNat with
  | 0 => chk [rz 26 f.xs3, rz 40 f.im, rz 41 f.fm, rz 45 f.rsv]
      (.amoswap .w f.xd.toFin f.xs2.toFin f.xs1.toFin f.imm)
  | 1 => chk [rz 26 f.xs3, rz 40 f.im, rz 41 f.fm, rz 45 f.rsv]
      (.amoadd .w f.xd.toFin f.xs2.toFin f.xs1.toFin f.imm)
  | 2 => chk [rz 26 f.xs3, rz 40 f.im, rz 41 f.fm, rz 45 f.rsv]
      (.amoand .w f.xd.toFin f.xs2.toFin f.xs1.toFin f.imm)
  | 3 => chk [rz 26 f.xs3, rz 40 f.im, rz 41 f.fm, rz 45 f.rsv]
      (.amoor .w f.xd.toFin f.xs2.toFin f.xs1.toFin f.imm)
  | 4 => chk [rz 26 f.xs3, rz 40 f.im, rz 41 f.fm, rz 45 f.rsv]
      (.amoxor .w f.xd.toFin f.xs2.toFin f.xs1.toFin f.imm)
  | 5 => chk [rz 26 f.xs3, rz 40 f.im, rz 41 f.fm, rz 45 f.rsv]
      (.amomin .w f.xd.toFin f.xs2.toFin f.xs1.toFin f.imm)
  | 6 => chk [rz 26 f.xs3, rz 40 f.im, rz 41 f.fm, rz 45 f.rsv]
      (.amomax .w f.xd.toFin f.xs2.toFin f.xs1.toFin f.imm)
  | 7 => chk [rz 26 f.xs3, rz 40 f.im, rz 41 f.fm, rz 45 f.rsv]
      (.amominu .w f.xd.toFin f.xs2.toFin f.xs1.toFin f.imm)
  | 8 => chk [rz 26 f.xs3, rz 40 f.im, rz 41 f.fm, rz 45 f.rsv]
      (.amomaxu .w f.xd.toFin f.xs2.toFin f.xs1.toFin f.imm)
  | 16 => chk [rz 26 f.xs3, rz 40 f.im, rz 41 f.fm, rz 45 f.rsv]
      (.amoswap .d f.xd.toFin f.xs2.toFin f.xs1.toFin f.imm)
  | 17 => chk [rz 26 f.xs3, rz 40 f.im, rz 41 f.fm, rz 45 f.rsv]
      (.amoadd .d f.xd.toFin f.xs2.toFin f.xs1.toFin f.imm)
  | 18 => chk [rz 26 f.xs3, rz 40 f.im, rz 41 f.fm, rz 45 f.rsv]
      (.amoand .d f.xd.toFin f.xs2.toFin f.xs1.toFin f.imm)
  | 19 => chk [rz 26 f.xs3, rz 40 f.im, rz 41 f.fm, rz 45 f.rsv]
      (.amoor .d f.xd.toFin f.xs2.toFin f.xs1.toFin f.imm)
  | 20 => chk [rz 26 f.xs3, rz 40 f.im, rz 41 f.fm, rz 45 f.rsv]
      (.amoxor .d f.xd.toFin f.xs2.toFin f.xs1.toFin f.imm)
  | 21 => chk [rz 26 f.xs3, rz 40 f.im, rz 41 f.fm, rz 45 f.rsv]
      (.amomin .d f.xd.toFin f.xs2.toFin f.xs1.toFin f.imm)
  | 22 => chk [rz 26 f.xs3, rz 40 f.im, rz 41 f.fm, rz 45 f.rsv]
      (.amomax .d f.xd.toFin f.xs2.toFin f.xs1.toFin f.imm)
  | 23 => chk [rz 26 f.xs3, rz 40 f.im, rz 41 f.fm, rz 45 f.rsv]
      (.amominu .d f.xd.toFin f.xs2.toFin f.xs1.toFin f.imm)
  | 24 => chk [rz 26 f.xs3, rz 40 f.im, rz 41 f.fm, rz 45 f.rsv]
      (.amomaxu .d f.xd.toFin f.xs2.toFin f.xs1.toFin f.imm)
  | _ => .err .fn

/-- Major 0x23 (family S). -/
def dec23 (f : SWord) : DecRes :=
  match f.fn.toNat with
  | 0 => chk [rz 40 f.im, rz 41 f.fm, rz 45 f.rsv]
      (.casW f.xd.toFin f.xs2.toFin f.xs3.toFin f.xs1.toFin f.imm)
  | 1 => chk [rz 40 f.im, rz 41 f.fm, rz 45 f.rsv]
      (.casD f.xd.toFin f.xs2.toFin f.xs3.toFin f.xs1.toFin f.imm)
  | 2 => chk [rz 40 f.im, rz 41 f.fm, rz 45 f.rsv, rzBit 8 f.xd, rzBit 20 f.xs2, rzBit 26 f.xs3]
      (.casQ f.xd.toFin f.xs2.toFin f.xs3.toFin f.xs1.toFin f.imm)
  | _ => .err .fn

/-- Major 0x30 (family B). -/
def dec30 (f : BWord) : DecRes :=
  match f.fn.toNat with
  | 0 => chk [rz 8 f.xd, rz 14 f.xs1, rz 20 f.xs2, rz 29 f.cnd, rz 41 f.rsv, badCode 26 (4 < f.slot.toNat)]
      (.j (decSlot f.slot) f.imm)
  | 1 => chk [rz 14 f.xs1, rz 20 f.xs2, rz 29 f.cnd, rz 41 f.rsv, badCode 26 (4 < f.slot.toNat)]
      (.call f.xd.toFin (decSlot f.slot) f.imm)
  | _ => .err .fn

/-- Major 0x31 (family B). -/
def dec31 (f : BWord) : DecRes :=
  match f.fn.toNat with
  | 0 => chk [rz 8 f.xd, rz 20 f.xs2, rz 26 f.slot, rz 29 f.cnd, rz 41 f.rsv, rz 64 f.imm]
      (.jr f.xs1.toFin)
  | 1 => chk [rz 20 f.xs2, rz 26 f.slot, rz 29 f.cnd, rz 41 f.rsv, rz 64 f.imm]
      (.callr f.xd.toFin f.xs1.toFin)
  | 2 => chk [rz 8 f.xd, rz 20 f.xs2, rz 26 f.slot, rz 29 f.cnd, rz 41 f.rsv, rz 64 f.imm]
      (.ret f.xs1.toFin)
  | _ => .err .fn

/-- Major 0x32 (family B). -/
def dec32 (f : BWord) : DecRes :=
  match f.fn.toNat with
  | 0 =>
    match f.cnd.toNat with
    | 0 => chk [rz 8 f.xd, rz 41 f.rsv, badCode 26 (4 < f.slot.toNat)]
        (.beq f.xs1.toFin f.xs2.toFin (decSlot f.slot) f.imm)
    | 1 => chk [rz 8 f.xd, rz 41 f.rsv, badCode 26 (4 < f.slot.toNat)]
        (.bne f.xs1.toFin f.xs2.toFin (decSlot f.slot) f.imm)
    | 2 => chk [rz 8 f.xd, rz 41 f.rsv, badCode 26 (4 < f.slot.toNat)]
        (.blt f.xs1.toFin f.xs2.toFin (decSlot f.slot) f.imm)
    | 3 => chk [rz 8 f.xd, rz 41 f.rsv, badCode 26 (4 < f.slot.toNat)]
        (.bge f.xs1.toFin f.xs2.toFin (decSlot f.slot) f.imm)
    | 4 => chk [rz 8 f.xd, rz 41 f.rsv, badCode 26 (4 < f.slot.toNat)]
        (.bltu f.xs1.toFin f.xs2.toFin (decSlot f.slot) f.imm)
    | 5 => chk [rz 8 f.xd, rz 41 f.rsv, badCode 26 (4 < f.slot.toNat)]
        (.bgeu f.xs1.toFin f.xs2.toFin (decSlot f.slot) f.imm)
    | _ => chk [rz 8 f.xd, rz 41 f.rsv, badCode 26 (4 < f.slot.toNat), badCode 29 true] (.beq f.xs1.toFin f.xs2.toFin (decSlot f.slot) f.imm)
  | _ => .err .fn

/-- Major 0x33 (family B). -/
def dec33 (f : BWord) : DecRes :=
  match f.fn.toNat with
  | 0 => chk [rz 8 f.xd, rz 20 f.xs2, rz 29 f.cnd, rz 41 f.rsv, badCode 26 (4 < f.slot.toNat)]
      (.loop0 f.xs1.toFin (decSlot f.slot) f.imm)
  | 1 => chk [rz 8 f.xd, rz 20 f.xs2, rz 29 f.cnd, rz 41 f.rsv, badCode 26 (4 < f.slot.toNat)]
      (.loop1 f.xs1.toFin (decSlot f.slot) f.imm)
  | 2 => chk [rz 8 f.xd, rz 14 f.xs1, rz 20 f.xs2, rz 26 f.slot, rz 29 f.cnd, rz 41 f.rsv, rz 64 f.imm]
      (.lpexit0)
  | 3 => chk [rz 8 f.xd, rz 14 f.xs1, rz 20 f.xs2, rz 26 f.slot, rz 29 f.cnd, rz 41 f.rsv, rz 64 f.imm]
      (.lpexit1)
  | _ => .err .fn

/-- Major 0x40 (family V). -/
def dec40 (f : VWord) : DecRes :=
  match f.fn.toNat with
  | 0 => chk [rz 26 f.vs3, rz 32 f.msk, rz 38 f.fd, rz 42 f.fa, rz 46 f.fb, rz 50 f.rmd, rz 53 f.xs, rz 62 f.rsv, rz 64 f.imm]
      (.vcfg f.vd.toFin f.vs1.toFin f.vs2.toFin)
  | 1 => chk [rz 20 f.vs2, rz 26 f.vs3, rz 32 f.msk, rz 38 f.fd, rz 42 f.fa, rz 46 f.fb, rz 50 f.rmd, rz 53 f.xs, rz 62 f.rsv, badCode 68 (f.imm.getLsbD 6), rzAbove 9 f.imm]
      (.vcfgi f.vd.toFin f.vs1.toFin (f.imm.extractLsb' 0 9))
  | 2 => chk [rz 14 f.vs1, rz 20 f.vs2, rz 26 f.vs3, rz 32 f.msk, rz 38 f.fd, rz 42 f.fa, rz 46 f.fb, rz 50 f.rmd, rz 53 f.xs, rz 62 f.rsv, rzAbove 26 f.imm, badCode 85 (f.imm.getLsbD 23)]
      (.vcfgn f.vd.toFin (f.imm.extractLsb' 0 17) (f.imm.extractLsb' 17 9))
  | 3 => chk [rz 14 f.vs1, rz 20 f.vs2, rz 26 f.vs3, rz 32 f.msk, rz 38 f.fd, rz 42 f.fa, rz 46 f.fb, rz 50 f.rmd, rz 53 f.xs, rz 62 f.rsv, badCode 68 (f.imm.getLsbD 6), rzAbove 9 f.imm]
      (.vcfgmax f.vd.toFin (f.imm.extractLsb' 0 9))
  | 4 => chk [rz 8 f.vd, rz 14 f.vs1, rz 20 f.vs2, rz 26 f.vs3, rz 32 f.msk, rz 38 f.fd, rz 42 f.fa, rz 46 f.fb, rz 50 f.rmd, rz 53 f.xs, rz 62 f.rsv, rzAbove 2 f.imm]
      (.vspace (decSpace (f.imm.extractLsb' 0 2)))
  | 5 => chk [rz 8 f.vd, rz 20 f.vs2, rz 26 f.vs3, rz 32 f.msk, rz 38 f.fd, rz 42 f.fa, rz 46 f.fb, rz 50 f.rmd, rz 53 f.xs, rz 62 f.rsv, rz 64 f.imm]
      (.vspacex f.vs1.toFin)
  | _ => .err .fn

/-- Major 0x41 (family M). -/
def dec41 (f : MWord) : DecRes :=
  match f.fn.toNat with
  | 0 =>
    match f.mop.toNat with
    | 0 => chk [rz 20 f.xo, rz 36 f.fi, rz 54 f.rsv, rzHi3 26 f.msk]
        (.vld f.vr.toFin f.xb.toFin f.imm f.fe.toFin f.nf.toFin (dec3 f.msk))
    | 1 => chk [rz 36 f.fi, rz 54 f.rsv, rzHi3 26 f.msk]
        (.vlds f.vr.toFin f.xb.toFin f.imm f.xo.toFin f.fe.toFin f.nf.toFin (dec3 f.msk))
    | 2 => chk [rz 54 f.rsv, rzHi3 26 f.msk]
        (.vldx f.vr.toFin f.xb.toFin f.imm f.xo.toFin f.fe.toFin f.fi.toFin f.nf.toFin (dec3 f.msk))
    | 3 => chk [rz 54 f.rsv, rzHi3 26 f.msk]
        (.vldux f.vr.toFin f.xb.toFin f.imm f.xo.toFin f.fe.toFin f.fi.toFin f.nf.toFin (dec3 f.msk))
    | 4 => chk [rz 20 f.xo, rz 36 f.fi, rz 54 f.rsv, rzHi3 26 f.msk]
        (.vldff f.vr.toFin f.xb.toFin f.imm f.fe.toFin f.nf.toFin (dec3 f.msk))
    | _ => chk [rz 20 f.xo, rz 36 f.fi, rz 54 f.rsv, rzHi3 26 f.msk, badCode 43 true] (.vld f.vr.toFin f.xb.toFin f.imm f.fe.toFin f.nf.toFin (dec3 f.msk))
  | 1 => chk [rz 20 f.xo, rz 36 f.fi, rz 54 f.rsv, badCode 43 (f.mop != 0), badCode 40 (f.nf != 0), badCode 32 (f.fe != 0), badCode 26 (f.msk != 0), rzHi3 8 f.vr]
      (.vlm (dec3 f.vr) f.xb.toFin f.imm)
  | _ => .err .fn

/-- Major 0x42 (family M). -/
def dec42 (f : MWord) : DecRes :=
  match f.fn.toNat with
  | 0 =>
    match f.mop.toNat with
    | 0 => chk [rz 20 f.xo, rz 36 f.fi, rz 54 f.rsv, rzHi3 26 f.msk]
        (.vst f.vr.toFin f.xb.toFin f.imm f.fe.toFin f.nf.toFin (dec3 f.msk))
    | 1 => chk [rz 36 f.fi, rz 54 f.rsv, rzHi3 26 f.msk]
        (.vsts f.vr.toFin f.xb.toFin f.imm f.xo.toFin f.fe.toFin f.nf.toFin (dec3 f.msk))
    | 2 => chk [rz 54 f.rsv, rzHi3 26 f.msk]
        (.vstx f.vr.toFin f.xb.toFin f.imm f.xo.toFin f.fe.toFin f.fi.toFin f.nf.toFin (dec3 f.msk))
    | 3 => chk [rz 54 f.rsv, rzHi3 26 f.msk]
        (.vstux f.vr.toFin f.xb.toFin f.imm f.xo.toFin f.fe.toFin f.fi.toFin f.nf.toFin (dec3 f.msk))
    | _ => chk [rz 20 f.xo, rz 36 f.fi, rz 54 f.rsv, rzHi3 26 f.msk, badCode 43 true] (.vst f.vr.toFin f.xb.toFin f.imm f.fe.toFin f.nf.toFin (dec3 f.msk))
  | 1 => chk [rz 20 f.xo, rz 36 f.fi, rz 54 f.rsv, badCode 43 (f.mop != 0), badCode 40 (f.nf != 0), badCode 32 (f.fe != 0), badCode 26 (f.msk != 0), rzHi3 8 f.vr]
      (.vsm (dec3 f.vr) f.xb.toFin f.imm)
  | _ => .err .fn

/-- Major 0x43 (family M). -/
def dec43 (f : MWord) : DecRes :=
  match f.fn.toNat with
  | 0 => chk [rz 54 f.rsv, rzHi3 26 f.msk, badCode 43 (f.mop != 2 && f.mop != 3), badCode 40 (f.nf != 0)]
      (.vamoswap (f.mop == 2) f.vr.toFin f.xb.toFin f.imm f.xo.toFin f.fe.toFin f.fi.toFin (dec3 f.msk))
  | 1 => chk [rz 54 f.rsv, rzHi3 26 f.msk, badCode 43 (f.mop != 2 && f.mop != 3), badCode 40 (f.nf != 0)]
      (.vamoadd (f.mop == 2) f.vr.toFin f.xb.toFin f.imm f.xo.toFin f.fe.toFin f.fi.toFin (dec3 f.msk))
  | 2 => chk [rz 54 f.rsv, rzHi3 26 f.msk, badCode 43 (f.mop != 2 && f.mop != 3), badCode 40 (f.nf != 0)]
      (.vamoand (f.mop == 2) f.vr.toFin f.xb.toFin f.imm f.xo.toFin f.fe.toFin f.fi.toFin (dec3 f.msk))
  | 3 => chk [rz 54 f.rsv, rzHi3 26 f.msk, badCode 43 (f.mop != 2 && f.mop != 3), badCode 40 (f.nf != 0)]
      (.vamoor (f.mop == 2) f.vr.toFin f.xb.toFin f.imm f.xo.toFin f.fe.toFin f.fi.toFin (dec3 f.msk))
  | 4 => chk [rz 54 f.rsv, rzHi3 26 f.msk, badCode 43 (f.mop != 2 && f.mop != 3), badCode 40 (f.nf != 0)]
      (.vamoxor (f.mop == 2) f.vr.toFin f.xb.toFin f.imm f.xo.toFin f.fe.toFin f.fi.toFin (dec3 f.msk))
  | 5 => chk [rz 54 f.rsv, rzHi3 26 f.msk, badCode 43 (f.mop != 2 && f.mop != 3), badCode 40 (f.nf != 0)]
      (.vamomin (f.mop == 2) f.vr.toFin f.xb.toFin f.imm f.xo.toFin f.fe.toFin f.fi.toFin (dec3 f.msk))
  | 6 => chk [rz 54 f.rsv, rzHi3 26 f.msk, badCode 43 (f.mop != 2 && f.mop != 3), badCode 40 (f.nf != 0)]
      (.vamomax (f.mop == 2) f.vr.toFin f.xb.toFin f.imm f.xo.toFin f.fe.toFin f.fi.toFin (dec3 f.msk))
  | 7 => chk [rz 54 f.rsv, rzHi3 26 f.msk, badCode 43 (f.mop != 2 && f.mop != 3), badCode 40 (f.nf != 0)]
      (.vamominu (f.mop == 2) f.vr.toFin f.xb.toFin f.imm f.xo.toFin f.fe.toFin f.fi.toFin (dec3 f.msk))
  | 8 => chk [rz 54 f.rsv, rzHi3 26 f.msk, badCode 43 (f.mop != 2 && f.mop != 3), badCode 40 (f.nf != 0)]
      (.vamomaxu (f.mop == 2) f.vr.toFin f.xb.toFin f.imm f.xo.toFin f.fe.toFin f.fi.toFin (dec3 f.msk))
  | 9 => chk [rz 54 f.rsv, rzHi3 26 f.msk, badCode 43 (f.mop != 2 && f.mop != 3), badCode 40 (f.nf != 0)]
      (.vamofadd (f.mop == 2) f.vr.toFin f.xb.toFin f.imm f.xo.toFin f.fe.toFin f.fi.toFin (dec3 f.msk))
  | 10 => chk [rz 54 f.rsv, rzHi3 26 f.msk, badCode 43 (f.mop != 2 && f.mop != 3), badCode 40 (f.nf != 0)]
      (.vcas (f.mop == 2) f.vr.toFin f.xb.toFin f.imm f.xo.toFin f.fe.toFin f.fi.toFin (dec3 f.msk))
  | _ => .err .fn

/-- Major 0x44 (family V). -/
def dec44 (f : VWord) : DecRes :=
  match f.fn.toNat with
  | 0 => chk [rz 26 f.vs3, rz 32 f.msk, rz 38 f.fd, rz 42 f.fa, rz 46 f.fb, rz 50 f.rmd, rz 53 f.xs, rz 62 f.rsv, rz 64 f.imm, rzHi3 8 f.vd, rzHi3 14 f.vs1, rzHi3 20 f.vs2]
      (.mand (dec3 f.vd) (dec3 f.vs1) (dec3 f.vs2))
  | 1 => chk [rz 26 f.vs3, rz 32 f.msk, rz 38 f.fd, rz 42 f.fa, rz 46 f.fb, rz 50 f.rmd, rz 53 f.xs, rz 62 f.rsv, rz 64 f.imm, rzHi3 8 f.vd, rzHi3 14 f.vs1, rzHi3 20 f.vs2]
      (.mnand (dec3 f.vd) (dec3 f.vs1) (dec3 f.vs2))
  | 2 => chk [rz 26 f.vs3, rz 32 f.msk, rz 38 f.fd, rz 42 f.fa, rz 46 f.fb, rz 50 f.rmd, rz 53 f.xs, rz 62 f.rsv, rz 64 f.imm, rzHi3 8 f.vd, rzHi3 14 f.vs1, rzHi3 20 f.vs2]
      (.mandn (dec3 f.vd) (dec3 f.vs1) (dec3 f.vs2))
  | 3 => chk [rz 26 f.vs3, rz 32 f.msk, rz 38 f.fd, rz 42 f.fa, rz 46 f.fb, rz 50 f.rmd, rz 53 f.xs, rz 62 f.rsv, rz 64 f.imm, rzHi3 8 f.vd, rzHi3 14 f.vs1, rzHi3 20 f.vs2]
      (.mor (dec3 f.vd) (dec3 f.vs1) (dec3 f.vs2))
  | 4 => chk [rz 26 f.vs3, rz 32 f.msk, rz 38 f.fd, rz 42 f.fa, rz 46 f.fb, rz 50 f.rmd, rz 53 f.xs, rz 62 f.rsv, rz 64 f.imm, rzHi3 8 f.vd, rzHi3 14 f.vs1, rzHi3 20 f.vs2]
      (.mnor (dec3 f.vd) (dec3 f.vs1) (dec3 f.vs2))
  | 5 => chk [rz 26 f.vs3, rz 32 f.msk, rz 38 f.fd, rz 42 f.fa, rz 46 f.fb, rz 50 f.rmd, rz 53 f.xs, rz 62 f.rsv, rz 64 f.imm, rzHi3 8 f.vd, rzHi3 14 f.vs1, rzHi3 20 f.vs2]
      (.morn (dec3 f.vd) (dec3 f.vs1) (dec3 f.vs2))
  | 6 => chk [rz 26 f.vs3, rz 32 f.msk, rz 38 f.fd, rz 42 f.fa, rz 46 f.fb, rz 50 f.rmd, rz 53 f.xs, rz 62 f.rsv, rz 64 f.imm, rzHi3 8 f.vd, rzHi3 14 f.vs1, rzHi3 20 f.vs2]
      (.mxor (dec3 f.vd) (dec3 f.vs1) (dec3 f.vs2))
  | 7 => chk [rz 26 f.vs3, rz 32 f.msk, rz 38 f.fd, rz 42 f.fa, rz 46 f.fb, rz 50 f.rmd, rz 53 f.xs, rz 62 f.rsv, rz 64 f.imm, rzHi3 8 f.vd, rzHi3 14 f.vs1, rzHi3 20 f.vs2]
      (.mxnor (dec3 f.vd) (dec3 f.vs1) (dec3 f.vs2))
  | _ => .err .fn

/-- Major 0x45 (family V). -/
def dec45 (f : VWord) : DecRes :=
  match f.fn.toNat with
  | 0 => chk [rz 14 f.vs1, rz 26 f.vs3, rz 38 f.fd, rz 42 f.fa, rz 46 f.fb, rz 50 f.rmd, rz 53 f.xs, rz 62 f.rsv, rz 64 f.imm, rzHi3 20 f.vs2, rzHi3 32 f.msk]
      (.mcount f.vd.toFin (dec3 f.vs2) (dec3 f.msk))
  | 1 => chk [rz 14 f.vs1, rz 26 f.vs3, rz 38 f.fd, rz 42 f.fa, rz 46 f.fb, rz 50 f.rmd, rz 53 f.xs, rz 62 f.rsv, rz 64 f.imm, rzHi3 20 f.vs2, rzHi3 32 f.msk]
      (.mfind f.vd.toFin (dec3 f.vs2) (dec3 f.msk))
  | 2 => chk [rz 14 f.vs1, rz 26 f.vs3, rz 38 f.fd, rz 42 f.fa, rz 46 f.fb, rz 50 f.rmd, rz 53 f.xs, rz 62 f.rsv, rz 64 f.imm, rzHi3 8 f.vd, rzHi3 20 f.vs2, rzHi3 32 f.msk]
      (.mcutLt (dec3 f.vd) (dec3 f.vs2) (dec3 f.msk))
  | 3 => chk [rz 14 f.vs1, rz 26 f.vs3, rz 38 f.fd, rz 42 f.fa, rz 46 f.fb, rz 50 f.rmd, rz 53 f.xs, rz 62 f.rsv, rz 64 f.imm, rzHi3 8 f.vd, rzHi3 20 f.vs2, rzHi3 32 f.msk]
      (.mcutLe (dec3 f.vd) (dec3 f.vs2) (dec3 f.msk))
  | 4 => chk [rz 14 f.vs1, rz 26 f.vs3, rz 38 f.fd, rz 42 f.fa, rz 46 f.fb, rz 50 f.rmd, rz 53 f.xs, rz 62 f.rsv, rz 64 f.imm, rzHi3 8 f.vd, rzHi3 20 f.vs2, rzHi3 32 f.msk]
      (.mcutEq (dec3 f.vd) (dec3 f.vs2) (dec3 f.msk))
  | 5 => chk [rz 14 f.vs1, rz 26 f.vs3, rz 38 f.fd, rz 42 f.fa, rz 46 f.fb, rz 50 f.rmd, rz 53 f.xs, rz 62 f.rsv, rz 64 f.imm, rzHi3 20 f.vs2, rzHi3 32 f.msk]
      (.vrank f.vd.toFin (dec3 f.vs2) (dec3 f.msk))
  | 6 => chk [rz 14 f.vs1, rz 20 f.vs2, rz 26 f.vs3, rz 38 f.fd, rz 42 f.fa, rz 46 f.fb, rz 50 f.rmd, rz 53 f.xs, rz 62 f.rsv, rz 64 f.imm, rzHi3 32 f.msk]
      (.vindex f.vd.toFin (dec3 f.msk))
  | _ => .err .fn

/-- Major 0x48 (family V). -/
def dec48 (f : VWord) : DecRes :=
  match f.fn.toNat with
  | 0 => chk [rz 26 f.vs3, rz 50 f.rmd, rz 62 f.rsv, rz 64 f.imm, rzHi3 32 f.msk]
      (.vadd f.vd.toFin f.vs1.toFin (vsOf f.xs f.vs2) f.fd.toFin f.fa.toFin f.fb.toFin (dec3 f.msk))
  | 1 => chk [rz 26 f.vs3, rz 50 f.rmd, rz 62 f.rsv, rz 64 f.imm, rzHi3 32 f.msk]
      (.vsub f.vd.toFin f.vs1.toFin (vsOf f.xs f.vs2) f.fd.toFin f.fa.toFin f.fb.toFin (dec3 f.msk))
  | 2 => chk [rz 26 f.vs3, rz 50 f.rmd, rz 62 f.rsv, rz 64 f.imm, rzHi3 32 f.msk]
      (.vrsub f.vd.toFin f.vs1.toFin (vsOf f.xs f.vs2) f.fd.toFin f.fa.toFin f.fb.toFin (dec3 f.msk))
  | 3 => chk [rz 26 f.vs3, rz 50 f.rmd, rz 62 f.rsv, rz 64 f.imm, rzHi3 32 f.msk]
      (.vmul f.vd.toFin f.vs1.toFin (vsOf f.xs f.vs2) f.fd.toFin f.fa.toFin f.fb.toFin (dec3 f.msk))
  | 4 => chk [rz 26 f.vs3, rz 50 f.rmd, rz 62 f.rsv, rz 64 f.imm, rzHi3 32 f.msk]
      (.vmulh f.vd.toFin f.vs1.toFin (vsOf f.xs f.vs2) f.fd.toFin f.fa.toFin f.fb.toFin (dec3 f.msk))
  | 5 => chk [rz 26 f.vs3, rz 50 f.rmd, rz 62 f.rsv, rz 64 f.imm, rzHi3 32 f.msk]
      (.vdiv f.vd.toFin f.vs1.toFin (vsOf f.xs f.vs2) f.fd.toFin f.fa.toFin f.fb.toFin (dec3 f.msk))
  | 6 => chk [rz 26 f.vs3, rz 50 f.rmd, rz 62 f.rsv, rz 64 f.imm, rzHi3 32 f.msk]
      (.vrem f.vd.toFin f.vs1.toFin (vsOf f.xs f.vs2) f.fd.toFin f.fa.toFin f.fb.toFin (dec3 f.msk))
  | 7 => chk [rz 26 f.vs3, rz 50 f.rmd, rz 62 f.rsv, rz 64 f.imm, rzHi3 32 f.msk]
      (.vmacc f.vd.toFin f.vs1.toFin (vsOf f.xs f.vs2) f.fd.toFin f.fa.toFin f.fb.toFin (dec3 f.msk))
  | 8 => chk [rz 26 f.vs3, rz 50 f.rmd, rz 62 f.rsv, rz 64 f.imm, rzHi3 32 f.msk]
      (.vabsd f.vd.toFin f.vs1.toFin (vsOf f.xs f.vs2) f.fd.toFin f.fa.toFin f.fb.toFin (dec3 f.msk))
  | 9 => chk [rz 26 f.vs3, rz 62 f.rsv, rz 64 f.imm, rzHi3 32 f.msk, badCode 50 (f.rmd == 6)]
      (.vavg f.vd.toFin f.vs1.toFin (vsOf f.xs f.vs2) f.fd.toFin f.fa.toFin f.fb.toFin (dec3 f.msk) (decRm f.rmd))
  | 10 => chk [rz 26 f.vs3, rz 50 f.rmd, rz 62 f.rsv, rz 64 f.imm, rzHi3 32 f.msk]
      (.vand f.vd.toFin f.vs1.toFin (vsOf f.xs f.vs2) f.fd.toFin f.fa.toFin f.fb.toFin (dec3 f.msk))
  | 11 => chk [rz 26 f.vs3, rz 50 f.rmd, rz 62 f.rsv, rz 64 f.imm, rzHi3 32 f.msk]
      (.vor f.vd.toFin f.vs1.toFin (vsOf f.xs f.vs2) f.fd.toFin f.fa.toFin f.fb.toFin (dec3 f.msk))
  | 12 => chk [rz 26 f.vs3, rz 50 f.rmd, rz 62 f.rsv, rz 64 f.imm, rzHi3 32 f.msk]
      (.vxor f.vd.toFin f.vs1.toFin (vsOf f.xs f.vs2) f.fd.toFin f.fa.toFin f.fb.toFin (dec3 f.msk))
  | 13 => chk [rz 26 f.vs3, rz 50 f.rmd, rz 62 f.rsv, rz 64 f.imm, rzHi3 32 f.msk]
      (.vsll f.vd.toFin f.vs1.toFin (vsOf f.xs f.vs2) f.fd.toFin f.fa.toFin f.fb.toFin (dec3 f.msk))
  | 14 => chk [rz 26 f.vs3, rz 50 f.rmd, rz 62 f.rsv, rz 64 f.imm, rzHi3 32 f.msk]
      (.vsrl f.vd.toFin f.vs1.toFin (vsOf f.xs f.vs2) f.fd.toFin f.fa.toFin f.fb.toFin (dec3 f.msk))
  | 15 => chk [rz 26 f.vs3, rz 50 f.rmd, rz 62 f.rsv, rz 64 f.imm, rzHi3 32 f.msk]
      (.vsra f.vd.toFin f.vs1.toFin (vsOf f.xs f.vs2) f.fd.toFin f.fa.toFin f.fb.toFin (dec3 f.msk))
  | _ => .err .fn

/-- Major 0x49 (family V). -/
def dec49 (f : VWord) : DecRes :=
  match f.fn.toNat with
  | 0 => chk [rz 26 f.vs3, rz 62 f.rsv, rz 64 f.imm, rzHi3 32 f.msk, badCode 50 (f.rmd == 6)]
      (.vfadd f.vd.toFin f.vs1.toFin (vsOf f.xs f.vs2) f.fd.toFin f.fa.toFin f.fb.toFin (dec3 f.msk) (decRm f.rmd))
  | 1 => chk [rz 26 f.vs3, rz 62 f.rsv, rz 64 f.imm, rzHi3 32 f.msk, badCode 50 (f.rmd == 6)]
      (.vfsub f.vd.toFin f.vs1.toFin (vsOf f.xs f.vs2) f.fd.toFin f.fa.toFin f.fb.toFin (dec3 f.msk) (decRm f.rmd))
  | 2 => chk [rz 26 f.vs3, rz 62 f.rsv, rz 64 f.imm, rzHi3 32 f.msk, badCode 50 (f.rmd == 6)]
      (.vfrsub f.vd.toFin f.vs1.toFin (vsOf f.xs f.vs2) f.fd.toFin f.fa.toFin f.fb.toFin (dec3 f.msk) (decRm f.rmd))
  | 3 => chk [rz 26 f.vs3, rz 62 f.rsv, rz 64 f.imm, rzHi3 32 f.msk, badCode 50 (f.rmd == 6)]
      (.vfmul f.vd.toFin f.vs1.toFin (vsOf f.xs f.vs2) f.fd.toFin f.fa.toFin f.fb.toFin (dec3 f.msk) (decRm f.rmd))
  | 4 => chk [rz 26 f.vs3, rz 62 f.rsv, rz 64 f.imm, rzHi3 32 f.msk, badCode 50 (f.rmd == 6)]
      (.vfdiv f.vd.toFin f.vs1.toFin (vsOf f.xs f.vs2) f.fd.toFin f.fa.toFin f.fb.toFin (dec3 f.msk) (decRm f.rmd))
  | 5 => chk [rz 26 f.vs3, rz 62 f.rsv, rz 64 f.imm, rzHi3 32 f.msk, badCode 50 (f.rmd == 6)]
      (.vfrdiv f.vd.toFin f.vs1.toFin (vsOf f.xs f.vs2) f.fd.toFin f.fa.toFin f.fb.toFin (dec3 f.msk) (decRm f.rmd))
  | 8 => chk [rz 26 f.vs3, rz 62 f.rsv, rz 64 f.imm, rzHi3 32 f.msk, badCode 50 (f.rmd == 6)]
      (.vfmacc f.vd.toFin f.vs1.toFin (vsOf f.xs f.vs2) f.fd.toFin f.fa.toFin f.fb.toFin (dec3 f.msk) (decRm f.rmd))
  | 9 => chk [rz 26 f.vs3, rz 62 f.rsv, rz 64 f.imm, rzHi3 32 f.msk, badCode 50 (f.rmd == 6)]
      (.vfnmacc f.vd.toFin f.vs1.toFin (vsOf f.xs f.vs2) f.fd.toFin f.fa.toFin f.fb.toFin (dec3 f.msk) (decRm f.rmd))
  | 10 => chk [rz 26 f.vs3, rz 62 f.rsv, rz 64 f.imm, rzHi3 32 f.msk, badCode 50 (f.rmd == 6)]
      (.vfmsac f.vd.toFin f.vs1.toFin (vsOf f.xs f.vs2) f.fd.toFin f.fa.toFin f.fb.toFin (dec3 f.msk) (decRm f.rmd))
  | 11 => chk [rz 26 f.vs3, rz 62 f.rsv, rz 64 f.imm, rzHi3 32 f.msk, badCode 50 (f.rmd == 6)]
      (.vfnmsac f.vd.toFin f.vs1.toFin (vsOf f.xs f.vs2) f.fd.toFin f.fa.toFin f.fb.toFin (dec3 f.msk) (decRm f.rmd))
  | 12 => chk [rz 62 f.rsv, rz 64 f.imm, rzHi3 32 f.msk, badCode 50 (f.rmd == 6)]
      (.vfma f.vd.toFin f.vs1.toFin (vsOf f.xs f.vs2) f.vs3.toFin f.fd.toFin f.fa.toFin f.fb.toFin (dec3 f.msk) (decRm f.rmd))
  | 16 => chk [rz 26 f.vs3, rz 62 f.rsv, rz 64 f.imm, rzHi3 32 f.msk, badCode 50 (f.rmd == 6)]
      (.vfsgnj f.vd.toFin f.vs1.toFin (vsOf f.xs f.vs2) f.fd.toFin f.fa.toFin f.fb.toFin (dec3 f.msk) (decRm f.rmd))
  | 17 => chk [rz 26 f.vs3, rz 62 f.rsv, rz 64 f.imm, rzHi3 32 f.msk, badCode 50 (f.rmd == 6)]
      (.vfsgnjn f.vd.toFin f.vs1.toFin (vsOf f.xs f.vs2) f.fd.toFin f.fa.toFin f.fb.toFin (dec3 f.msk) (decRm f.rmd))
  | 18 => chk [rz 26 f.vs3, rz 62 f.rsv, rz 64 f.imm, rzHi3 32 f.msk, badCode 50 (f.rmd == 6)]
      (.vfsgnjx f.vd.toFin f.vs1.toFin (vsOf f.xs f.vs2) f.fd.toFin f.fa.toFin f.fb.toFin (dec3 f.msk) (decRm f.rmd))
  | 20 => chk [rz 20 f.vs2, rz 26 f.vs3, rz 46 f.fb, rz 50 f.rmd, rz 53 f.xs, rz 62 f.rsv, rz 64 f.imm, rzHi3 32 f.msk]
      (.vfclass f.vd.toFin f.vs1.toFin f.fd.toFin f.fa.toFin (dec3 f.msk))
  | _ => .err .fn

/-- Major 0x4A (family V). -/
def dec4A (f : VWord) : DecRes :=
  match f.fn.toNat with
  | 0 => chk [rz 26 f.vs3, rz 62 f.rsv, rz 64 f.imm, rzHi3 32 f.msk, badCode 50 (f.rmd == 6)]
      (.vmin f.vd.toFin f.vs1.toFin (vsOf f.xs f.vs2) f.fd.toFin f.fa.toFin f.fb.toFin (dec3 f.msk) (decRm f.rmd))
  | 1 => chk [rz 26 f.vs3, rz 62 f.rsv, rz 64 f.imm, rzHi3 32 f.msk, badCode 50 (f.rmd == 6)]
      (.vmax f.vd.toFin f.vs1.toFin (vsOf f.xs f.vs2) f.fd.toFin f.fa.toFin f.fb.toFin (dec3 f.msk) (decRm f.rmd))
  | 8 => chk [rz 26 f.vs3, rz 38 f.fd, rz 50 f.rmd, rz 62 f.rsv, rz 64 f.imm, rzHi3 8 f.vd, rzHi3 32 f.msk]
      (.vmeq (dec3 f.vd) f.vs1.toFin (vsOf f.xs f.vs2) f.fa.toFin f.fb.toFin (dec3 f.msk))
  | 9 => chk [rz 26 f.vs3, rz 38 f.fd, rz 50 f.rmd, rz 62 f.rsv, rz 64 f.imm, rzHi3 8 f.vd, rzHi3 32 f.msk]
      (.vmne (dec3 f.vd) f.vs1.toFin (vsOf f.xs f.vs2) f.fa.toFin f.fb.toFin (dec3 f.msk))
  | 10 => chk [rz 26 f.vs3, rz 38 f.fd, rz 50 f.rmd, rz 62 f.rsv, rz 64 f.imm, rzHi3 8 f.vd, rzHi3 32 f.msk]
      (.vmlt (dec3 f.vd) f.vs1.toFin (vsOf f.xs f.vs2) f.fa.toFin f.fb.toFin (dec3 f.msk))
  | 11 => chk [rz 26 f.vs3, rz 38 f.fd, rz 50 f.rmd, rz 62 f.rsv, rz 64 f.imm, rzHi3 8 f.vd, rzHi3 32 f.msk]
      (.vmle (dec3 f.vd) f.vs1.toFin (vsOf f.xs f.vs2) f.fa.toFin f.fb.toFin (dec3 f.msk))
  | 12 => chk [rz 26 f.vs3, rz 38 f.fd, rz 50 f.rmd, rz 62 f.rsv, rz 64 f.imm, rzHi3 8 f.vd, rzHi3 32 f.msk]
      (.vmgt (dec3 f.vd) f.vs1.toFin (vsOf f.xs f.vs2) f.fa.toFin f.fb.toFin (dec3 f.msk))
  | 13 => chk [rz 26 f.vs3, rz 38 f.fd, rz 50 f.rmd, rz 62 f.rsv, rz 64 f.imm, rzHi3 8 f.vd, rzHi3 32 f.msk]
      (.vmge (dec3 f.vd) f.vs1.toFin (vsOf f.xs f.vs2) f.fa.toFin f.fb.toFin (dec3 f.msk))
  | 14 => chk [rz 26 f.vs3, rz 62 f.rsv, rz 64 f.imm, rzHi3 32 f.msk, badCode 50 (f.rmd == 6)]
      (.vmerge f.vd.toFin f.vs1.toFin (vsOf f.xs f.vs2) f.fd.toFin f.fa.toFin f.fb.toFin (dec3 f.msk) (decRm f.rmd))
  | 15 => chk [rz 14 f.vs1, rz 26 f.vs3, rz 42 f.fa, rz 62 f.rsv, rz 64 f.imm, badCode 53 (f.xs == 0), rzHi3 32 f.msk, badCode 50 (f.rmd == 6)]
      (.vsplat f.vd.toFin f.vs2.toFin f.fd.toFin f.fb.toFin (dec3 f.msk) (decRm f.rmd))
  | _ => .err .fn

/-- Major 0x4B (family V). -/
def dec4B (f : VWord) : DecRes :=
  match f.fn.toNat with
  | 0 => chk [rz 26 f.vs3, rz 42 f.fa, rz 46 f.fb, rz 50 f.rmd, rz 62 f.rsv, rzHi3 32 f.msk, (if f.xs = 0 then rz 20 f.vs2 else rz 64 f.imm)]
      (.vlift f.vd.toFin f.vs1.toFin (offOf f.xs f.vs2 f.imm) f.fd.toFin (dec3 f.msk))
  | 1 => chk [rz 26 f.vs3, rz 42 f.fa, rz 46 f.fb, rz 50 f.rmd, rz 62 f.rsv, rzHi3 32 f.msk, (if f.xs = 0 then rz 20 f.vs2 else rz 64 f.imm)]
      (.vdrop f.vd.toFin f.vs1.toFin (offOf f.xs f.vs2 f.imm) f.fd.toFin (dec3 f.msk))
  | 2 => chk [rz 26 f.vs3, rz 42 f.fa, rz 46 f.fb, rz 50 f.rmd, rz 62 f.rsv, rz 64 f.imm, badCode 53 (f.xs == 0), rzHi3 32 f.msk]
      (.vliftx f.vd.toFin f.vs1.toFin f.vs2.toFin f.fd.toFin (dec3 f.msk))
  | 3 => chk [rz 26 f.vs3, rz 42 f.fa, rz 46 f.fb, rz 50 f.rmd, rz 62 f.rsv, rz 64 f.imm, badCode 53 (f.xs == 0), rzHi3 32 f.msk]
      (.vdropx f.vd.toFin f.vs1.toFin f.vs2.toFin f.fd.toFin (dec3 f.msk))
  | 4 => chk [rz 26 f.vs3, rz 42 f.fa, rz 50 f.rmd, rz 53 f.xs, rz 62 f.rsv, rz 64 f.imm, rzHi3 32 f.msk]
      (.vpick f.vd.toFin f.vs1.toFin f.vs2.toFin f.fd.toFin f.fb.toFin (dec3 f.msk))
  | 5 => chk [rz 20 f.vs2, rz 26 f.vs3, rz 42 f.fa, rz 46 f.fb, rz 50 f.rmd, rz 53 f.xs, rz 62 f.rsv, rz 64 f.imm, rzHi3 32 f.msk]
      (.vpack f.vd.toFin f.vs1.toFin f.fd.toFin (dec3 f.msk))
  | 6 => chk [rz 20 f.vs2, rz 26 f.vs3, rz 32 f.msk, rz 42 f.fa, rz 46 f.fb, rz 50 f.rmd, rz 53 f.xs, rz 62 f.rsv, rz 64 f.imm]
      (.vget f.vd.toFin f.vs1.toFin f.fd.toFin)
  | 7 => chk [rz 14 f.vs1, rz 26 f.vs3, rz 32 f.msk, rz 42 f.fa, rz 46 f.fb, rz 50 f.rmd, rz 62 f.rsv, rz 64 f.imm, badCode 53 (f.xs == 0)]
      (.vplace f.vd.toFin f.vs2.toFin f.fd.toFin)
  | _ => .err .fn

/-- Major 0x4C (family V). -/
def dec4C (f : VWord) : DecRes :=
  match f.fn.toNat with
  | 0 => chk [rz 26 f.vs3, rz 46 f.fb, rz 53 f.xs, rz 62 f.rsv, rz 64 f.imm, rzHi3 32 f.msk, badCode 50 (f.rmd == 6)]
      (.vfredosum f.vd.toFin f.vs1.toFin f.vs2.toFin f.fd.toFin f.fa.toFin (dec3 f.msk) (decRm f.rmd))
  | 1 => chk [rz 26 f.vs3, rz 46 f.fb, rz 53 f.xs, rz 62 f.rsv, rz 64 f.imm, rzHi3 32 f.msk, badCode 50 (f.rmd == 6)]
      (.vfredusum f.vd.toFin f.vs1.toFin f.vs2.toFin f.fd.toFin f.fa.toFin (dec3 f.msk) (decRm f.rmd))
  | 2 => chk [rz 26 f.vs3, rz 46 f.fb, rz 53 f.xs, rz 62 f.rsv, rz 64 f.imm, rzHi3 32 f.msk, badCode 50 (f.rmd == 6)]
      (.vfredmax f.vd.toFin f.vs1.toFin f.vs2.toFin f.fd.toFin f.fa.toFin (dec3 f.msk) (decRm f.rmd))
  | 3 => chk [rz 26 f.vs3, rz 46 f.fb, rz 53 f.xs, rz 62 f.rsv, rz 64 f.imm, rzHi3 32 f.msk, badCode 50 (f.rmd == 6)]
      (.vfredmin f.vd.toFin f.vs1.toFin f.vs2.toFin f.fd.toFin f.fa.toFin (dec3 f.msk) (decRm f.rmd))
  | 4 => chk [rz 26 f.vs3, rz 46 f.fb, rz 53 f.xs, rz 62 f.rsv, rz 64 f.imm, rzHi3 32 f.msk, badCode 50 (f.rmd == 6)]
      (.vredsum f.vd.toFin f.vs1.toFin f.vs2.toFin f.fd.toFin f.fa.toFin (dec3 f.msk) (decRm f.rmd))
  | _ => .err .fn

/-- Major 0x4D (family V). -/
def dec4D (f : VWord) : DecRes :=
  match f.fn.toNat with
  | 0 => chk [rz 26 f.vs3, rz 42 f.fa, rz 46 f.fb, rz 50 f.rmd, rz 53 f.xs, rz 62 f.rsv, rz 64 f.imm, rzHi3 32 f.msk]
      (.vappend f.vd.toFin f.vs1.toFin f.vs2.toFin f.fd.toFin (dec3 f.msk))
  | _ => .err .fn

/-- Major 0x4E (family V). -/
def dec4E (f : VWord) : DecRes :=
  match f.fn.toNat with
  | 0 => chk [rz 26 f.vs3, rz 53 f.xs, rz 62 f.rsv, rzHi3 32 f.msk, badCode 50 (f.rmd == 6), rzAbove 4 f.imm]
      (.vbfly f.vd.toFin f.vs1.toFin f.vs2.toFin f.fd.toFin f.fa.toFin f.fb.toFin (dec3 f.msk) (decRm f.rmd) (f.imm.extractLsb' 0 4).toFin)
  | _ => .err .fn

/-- Major 0x4F (family V). -/
def dec4F (f : VWord) : DecRes :=
  match f.fn.toNat with
  | 0 => chk [rz 20 f.vs2, rz 26 f.vs3, rz 46 f.fb, rz 53 f.xs, rz 62 f.rsv, rz 64 f.imm, rzHi3 32 f.msk, badCode 50 (f.rmd == 6)]
      (.vcvt f.vd.toFin f.vs1.toFin f.fd.toFin f.fa.toFin (dec3 f.msk) (decRm f.rmd))
  | 1 => chk [rz 20 f.vs2, rz 46 f.fb, rz 53 f.xs, rz 62 f.rsv, rzHi3 32 f.msk, badCode 50 (f.rmd == 6), rzAbove 2 f.imm]
      (.vcvtbs f.vd.toFin f.vs1.toFin f.vs3.toFin f.fd.toFin f.fa.toFin (dec3 f.msk) (decRm f.rmd) (f.imm.extractLsb' 0 2).toFin)
  | 2 => chk [rz 20 f.vs2, rz 46 f.fb, rz 53 f.xs, rz 62 f.rsv, rz 64 f.imm, rzHi3 32 f.msk, badCode 50 (f.rmd == 6)]
      (.vcvtbd f.vd.toFin f.vs1.toFin f.vs3.toFin f.fd.toFin f.fa.toFin (dec3 f.msk) (decRm f.rmd))
  | _ => .err .fn

/-- Major 0x50 (family V). -/
def dec50 (f : VWord) : DecRes :=
  match f.fn.toNat with
  | 0 => chk [rz 26 f.vs3, rz 50 f.rmd, rz 62 f.rsv, rz 64 f.imm, rzHi3 32 f.msk, (if f.xs = 0 then rz 20 f.vs2 else none), (if f.xs = 0 then rz 46 f.fb else none)]
      (.vexp f.vd.toFin f.vs1.toFin (subOf f.xs f.vs2 f.fb) f.fd.toFin f.fa.toFin (dec3 f.msk))
  | 1 => chk [rz 26 f.vs3, rz 50 f.rmd, rz 62 f.rsv, rz 64 f.imm, rzHi3 32 f.msk, (if f.xs = 0 then rz 20 f.vs2 else none), (if f.xs = 0 then rz 46 f.fb else none)]
      (.vexp2 f.vd.toFin f.vs1.toFin (subOf f.xs f.vs2 f.fb) f.fd.toFin f.fa.toFin (dec3 f.msk))
  | 2 => chk [rz 26 f.vs3, rz 50 f.rmd, rz 62 f.rsv, rz 64 f.imm, rzHi3 32 f.msk, (if f.xs = 0 then rz 20 f.vs2 else none), (if f.xs = 0 then rz 46 f.fb else none)]
      (.vlog2 f.vd.toFin f.vs1.toFin (subOf f.xs f.vs2 f.fb) f.fd.toFin f.fa.toFin (dec3 f.msk))
  | 3 => chk [rz 26 f.vs3, rz 50 f.rmd, rz 62 f.rsv, rz 64 f.imm, rzHi3 32 f.msk, (if f.xs = 0 then rz 20 f.vs2 else none), (if f.xs = 0 then rz 46 f.fb else none)]
      (.vrcp f.vd.toFin f.vs1.toFin (subOf f.xs f.vs2 f.fb) f.fd.toFin f.fa.toFin (dec3 f.msk))
  | 4 => chk [rz 26 f.vs3, rz 50 f.rmd, rz 62 f.rsv, rz 64 f.imm, rzHi3 32 f.msk, (if f.xs = 0 then rz 20 f.vs2 else none), (if f.xs = 0 then rz 46 f.fb else none)]
      (.vrsqrt f.vd.toFin f.vs1.toFin (subOf f.xs f.vs2 f.fb) f.fd.toFin f.fa.toFin (dec3 f.msk))
  | 5 => chk [rz 26 f.vs3, rz 50 f.rmd, rz 62 f.rsv, rz 64 f.imm, rzHi3 32 f.msk, (if f.xs = 0 then rz 20 f.vs2 else none), (if f.xs = 0 then rz 46 f.fb else none)]
      (.vsqrt f.vd.toFin f.vs1.toFin (subOf f.xs f.vs2 f.fb) f.fd.toFin f.fa.toFin (dec3 f.msk))
  | 6 => chk [rz 26 f.vs3, rz 50 f.rmd, rz 62 f.rsv, rz 64 f.imm, rzHi3 32 f.msk, (if f.xs = 0 then rz 20 f.vs2 else none), (if f.xs = 0 then rz 46 f.fb else none)]
      (.vsin f.vd.toFin f.vs1.toFin (subOf f.xs f.vs2 f.fb) f.fd.toFin f.fa.toFin (dec3 f.msk))
  | 7 => chk [rz 26 f.vs3, rz 50 f.rmd, rz 62 f.rsv, rz 64 f.imm, rzHi3 32 f.msk, (if f.xs = 0 then rz 20 f.vs2 else none), (if f.xs = 0 then rz 46 f.fb else none)]
      (.vcos f.vd.toFin f.vs1.toFin (subOf f.xs f.vs2 f.fb) f.fd.toFin f.fa.toFin (dec3 f.msk))
  | 8 => chk [rz 26 f.vs3, rz 50 f.rmd, rz 62 f.rsv, rz 64 f.imm, rzHi3 32 f.msk, (if f.xs = 0 then rz 20 f.vs2 else none), (if f.xs = 0 then rz 46 f.fb else none)]
      (.vtanh f.vd.toFin f.vs1.toFin (subOf f.xs f.vs2 f.fb) f.fd.toFin f.fa.toFin (dec3 f.msk))
  | 9 => chk [rz 26 f.vs3, rz 50 f.rmd, rz 62 f.rsv, rz 64 f.imm, rzHi3 32 f.msk, (if f.xs = 0 then rz 20 f.vs2 else none), (if f.xs = 0 then rz 46 f.fb else none)]
      (.vsigmoid f.vd.toFin f.vs1.toFin (subOf f.xs f.vs2 f.fb) f.fd.toFin f.fa.toFin (dec3 f.msk))
  | 10 => chk [rz 26 f.vs3, rz 50 f.rmd, rz 62 f.rsv, rz 64 f.imm, rzHi3 32 f.msk, (if f.xs = 0 then rz 20 f.vs2 else none), (if f.xs = 0 then rz 46 f.fb else none)]
      (.verf f.vd.toFin f.vs1.toFin (subOf f.xs f.vs2 f.fb) f.fd.toFin f.fa.toFin (dec3 f.msk))
  | _ => .err .fn

/-- Major 0x80 (family A). -/
def dec80 (f : AWord) : DecRes :=
  match f.fn.toNat with
  | 0 => chk [rz 8 f.vd, rz 14 f.vs1, rz 20 f.vs2, rz 26 f.wt, rz 32 f.msk, rz 42 f.fb, rz 46 f.fc, rz 58 f.rsv, rz 64 f.imm]
      (.amodeWs f.fa.toFin)
  | 1 => chk [rz 8 f.vd, rz 14 f.vs1, rz 20 f.vs2, rz 26 f.wt, rz 32 f.msk, rz 42 f.fb, rz 46 f.fc, rz 58 f.rsv, rz 64 f.imm]
      (.amodeRs f.fa.toFin)
  | 2 => chk [rz 8 f.vd, rz 14 f.vs1, rz 20 f.vs2, rz 26 f.wt, rz 32 f.msk, rz 38 f.fa, rz 42 f.fb, rz 46 f.fc, rz 58 f.rsv, rz 64 f.imm]
      (.vmode)
  | _ => .err .fn

/-- Major 0x81 (family A). -/
def dec81 (f : AWord) : DecRes :=
  match f.fn.toNat with
  | 0 => chk [rz 8 f.vd, rz 20 f.vs2, rz 32 f.msk, rz 42 f.fb, rz 46 f.fc, rz 58 f.rsv, rz 64 f.imm, rzHi2 26 f.wt]
      (.wld (dec2 f.wt) f.vs1.toFin f.fa.toFin)
  | 1 => chk [rz 14 f.vs1, rz 20 f.vs2, rz 32 f.msk, rz 38 f.fa, rz 42 f.fb, rz 46 f.fc, rz 58 f.rsv, rz 64 f.imm, rzHi2 26 f.wt]
      (.wst f.vd.toFin (dec2 f.wt))
  | _ => .err .fn

/-- Major 0x82 (family A). -/
def dec82 (f : AWord) : DecRes :=
  match f.fn.toNat with
  | 0 => chk [rz 42 f.fb, rz 58 f.rsv, rzHi3 32 f.msk, rzHi2 26 f.wt, rzAbove 7 f.imm, (if f.imm.getLsbD 6 then none else rz 20 f.vs2), (if f.imm.getLsbD 6 then none else rz 64 (f.imm.extractLsb' 0 6))]
      (.mrow f.vd.toFin f.vs1.toFin (dec2 f.wt) (scOf f.imm f.vs2) f.fa.toFin f.fc.toFin (dec3 f.msk))
  | 1 => chk [rz 42 f.fb, rz 58 f.rsv, rzHi3 32 f.msk, rzHi2 26 f.wt, rzAbove 7 f.imm, (if f.imm.getLsbD 6 then none else rz 20 f.vs2), (if f.imm.getLsbD 6 then none else rz 64 (f.imm.extractLsb' 0 6))]
      (.mrowAcc f.vd.toFin f.vs1.toFin (dec2 f.wt) (scOf f.imm f.vs2) f.fa.toFin f.fc.toFin (dec3 f.msk))
  | 2 => chk [rz 20 f.vs2, rz 42 f.fb, rz 58 f.rsv, rz 64 f.imm, rzHi2 26 f.wt, rzHi3 32 f.msk]
      (.mslide f.vd.toFin f.vs1.toFin (dec2 f.wt) f.fa.toFin f.fc.toFin (dec3 f.msk))
  | 3 => chk [rz 20 f.vs2, rz 42 f.fb, rz 58 f.rsv, rz 64 f.imm, rzHi2 26 f.wt, rzHi3 32 f.msk]
      (.mslideAcc f.vd.toFin f.vs1.toFin (dec2 f.wt) f.fa.toFin f.fc.toFin (dec3 f.msk))
  | _ => .err .fn

/-- Major 0x83 (family A). -/
def dec83 (f : AWord) : DecRes :=
  match f.fn.toNat with
  | 0 => chk [rz 8 f.vd, rz 46 f.fc, rz 58 f.rsv, rz 64 f.imm, rzHi2 26 f.wt, rzHi3 32 f.msk]
      (.macc (dec2 f.wt) f.vs1.toFin f.vs2.toFin f.fa.toFin f.fb.toFin (dec3 f.msk))
  | 1 => chk [rz 8 f.vd, rz 46 f.fc, rz 58 f.rsv, rz 64 f.imm, rzHi2 26 f.wt, rzHi3 32 f.msk]
      (.maccz (dec2 f.wt) f.vs1.toFin f.vs2.toFin f.fa.toFin f.fb.toFin (dec3 f.msk))
  | _ => .err .fn

/-- Major 0x84 (family A). -/
def dec84 (f : AWord) : DecRes :=
  match f.fn.toNat with
  | 0 => chk [rz 14 f.vs1, rz 20 f.vs2, rz 32 f.msk, rz 38 f.fa, rz 42 f.fb, rz 58 f.rsv, rz 64 f.imm, rzHi2 26 f.wt]
      (.mdrain f.vd.toFin (dec2 f.wt) f.fc.toFin)
  | _ => .err .fn

/-- Major 0x85 (family A). -/
def dec85 (f : AWord) : DecRes :=
  match f.fn.toNat with
  | 0 => chk [rz 8 f.vd, rz 14 f.vs1, rz 20 f.vs2, rz 26 f.wt, rz 32 f.msk, rz 38 f.fa, rz 42 f.fb, rz 46 f.fc, rz 58 f.rsv, rzAbove 8 f.imm]
      (.achain (f.imm.extractLsb' 0 4).toFin (f.imm.extractLsb' 4 4).toFin)
  | 1 => chk [rz 8 f.vd, rz 14 f.vs1, rz 20 f.vs2, rz 26 f.wt, rz 32 f.msk, rz 38 f.fa, rz 42 f.fb, rz 46 f.fc, rz 58 f.rsv, rz 64 f.imm]
      (.aunchain)
  | _ => .err .fn

/-- Major 0xA0 (family M). -/
noncomputable def decA0 (f : MWord) : DecRes :=
  match f.fn.toNat with
  | 0 => chk [rz 8 f.vr, rz 20 f.xo, rz 26 f.msk, rz 32 f.fe, rz 36 f.fi, rz 40 f.nf, rz 43 f.mop, rz 54 f.rsv, rz 64 f.imm]
      (.hpload f.xb.toFin)
  | 1 => chk [rz 20 f.xo, rz 26 f.msk, rz 36 f.fi, rz 40 f.nf, rz 43 f.mop, rz 54 f.rsv, rz 64 f.imm]
      (.hsig f.xb.toFin f.vr.toFin f.fe.toFin)
  | _ => .err .fn

/-- Major 0xA1 (family M). -/
noncomputable def decA1 (f : MWord) : DecRes :=
  match f.fn.toNat with
  | 0 => chk [rz 26 f.msk, rz 36 f.fi, rz 40 f.nf, rz 43 f.mop, rz 54 f.rsv, rz 64 f.imm]
      (.kst f.xo.toFin f.vr.toFin f.xb.toFin f.fe.toFin)
  | _ => .err .fn

/-- Major 0xA2 (family M). -/
noncomputable def decA2 (f : MWord) : DecRes :=
  match f.fn.toNat with
  | 0 =>
    if f.imm.getLsbD 3 then
      chk [rz 26 f.msk, rz 32 f.fe, rz 36 f.fi, rz 40 f.nf, rz 43 f.mop, rz 54 f.rsv, rzAbove 4 f.imm] (.bgathDft f.vr.toFin f.xb.toFin f.xo.toFin (f.imm.extractLsb' 0 3).toFin)
    else
      chk [rz 26 f.msk, rz 32 f.fe, rz 36 f.fi, rz 40 f.nf, rz 43 f.mop, rz 54 f.rsv, rzAbove 4 f.imm] (.bgath f.vr.toFin f.xb.toFin f.xo.toFin (f.imm.extractLsb' 0 3).toFin)
  | 1 =>
    if f.imm.getLsbD 0 then
      chk [rz 14 f.xb, rz 26 f.msk, rz 32 f.fe, rz 36 f.fi, rz 40 f.nf, rz 43 f.mop, rz 54 f.rsv, rzAbove 1 f.imm] (.bxlatV f.vr.toFin f.xo.toFin)
    else
      chk [rz 14 f.xb, rz 26 f.msk, rz 32 f.fe, rz 36 f.fi, rz 40 f.nf, rz 43 f.mop, rz 54 f.rsv, rzAbove 1 f.imm] (.bxlatK f.vr.toFin f.xo.toFin)
  | _ => .err .fn

/-- Major 0xA3 (family M). -/
def decA3 (f : MWord) : DecRes :=
  match f.fn.toNat with
  | 0 => chk [rz 26 f.msk, rz 32 f.fe, rz 36 f.fi, rz 40 f.nf, rz 43 f.mop, rz 54 f.rsv, rzAbove 5 f.imm, badCode 64 (16 < (f.imm.extractLsb' 0 5).toNat)]
      (.vsetre f.vr.toFin f.xb.toFin f.xo.toFin (decK f.imm))
  | _ => .err .fn

/-- Major 0xA4 (family M). -/
noncomputable def decA4 (f : MWord) : DecRes :=
  match f.fn.toNat with
  | 0 => chk [rz 26 f.msk, rz 32 f.fe, rz 36 f.fi, rz 40 f.nf, rz 43 f.mop, rz 54 f.rsv, rz 64 f.imm]
      (.respin f.vr.toFin f.xb.toFin f.xo.toFin)
  | 1 => chk [rz 20 f.xo, rz 26 f.msk, rz 32 f.fe, rz 36 f.fi, rz 40 f.nf, rz 43 f.mop, rz 54 f.rsv, rz 64 f.imm]
      (.resrel f.vr.toFin f.xb.toFin)
  | _ => .err .fn

/-- Major 0xA5 (family M). -/
noncomputable def decA5 (f : MWord) : DecRes :=
  match f.fn.toNat with
  | 0 => chk [rz 20 f.xo, rz 26 f.msk, rz 32 f.fe, rz 36 f.fi, rz 40 f.nf, rz 43 f.mop, rz 54 f.rsv, rz 64 f.imm]
      (.pgref f.vr.toFin f.xb.toFin)
  | 1 => chk [rz 26 f.msk, rz 32 f.fe, rz 36 f.fi, rz 40 f.nf, rz 43 f.mop, rz 54 f.rsv, rz 64 f.imm]
      (.pgunref f.vr.toFin f.xb.toFin f.xo.toFin)
  | _ => .err .fn

/-- Major 0xB0 (family C). -/
noncomputable def decB0 (f : CWord) : DecRes :=
  match f.fn.toNat with
  | 0 =>
    if f.vp = 1 then
      chk [rz 8 f.xd, rz 20 f.xs2, rz 32 f.port, rz 45 f.rsv, rzAbove 7 f.imm, (if f.imm.getLsbD 6 then none else rz 64 (f.imm.extractLsb' 0 6))] (.strmV f.xs1.toFin f.vr.toFin (viOf f.imm))
    else
      chk [rz 8 f.xd, rz 20 f.xs2, rz 26 f.vr, rz 45 f.rsv, rz 64 f.imm] (.strm f.xs1.toFin f.port.toFin)
  | _ => .err .fn

/-- Major 0xB1 (family C). -/
noncomputable def decB1 (f : CWord) : DecRes :=
  match f.fn.toNat with
  | 0 => chk [rz 8 f.xd, rz 14 f.xs1, rz 20 f.xs2, rz 26 f.vr, rz 45 f.rsv, rz 64 f.imm, (if f.vp = 0 then none else rz 32 f.port)]
      (.strmw (portOf f.vp f.port))
  | 1 => chk [rz 26 f.vr, rz 32 f.port, rz 36 f.vp, rz 45 f.rsv, rz 64 f.imm]
      (.crwait f.xd.toFin f.xs1.toFin f.xs2.toFin)
  | 2 => chk [rz 20 f.xs2, rz 26 f.vr, rz 32 f.port, rz 36 f.vp, rz 45 f.rsv, rz 64 f.imm, rzLow2 8 f.xd]
      (.crpop f.xd.toFin f.xs1.toFin)
  | _ => .err .fn

/-- Major 0xB2 (family C). -/
noncomputable def decB2 (f : CWord) : DecRes :=
  match f.fn.toNat with
  | 0 => chk [rz 8 f.xd, rz 14 f.xs1, rz 20 f.xs2, rz 26 f.vr, rz 32 f.port, rz 36 f.vp, rz 45 f.rsv]
      (.tmark f.imm)
  | 1 => chk [rz 8 f.xd, rz 14 f.xs1, rz 20 f.xs2, rz 26 f.vr, rz 32 f.port, rz 36 f.vp, rz 45 f.rsv]
      (.tmarkNc f.imm)
  | _ => .err .fn

/-- Major 0xB3 (family C). -/
noncomputable def decB3 (f : CWord) : DecRes :=
  match f.fn.toNat with
  | 0 => chk [rz 20 f.xs2, rz 26 f.vr, rz 32 f.port, rz 36 f.vp, rz 45 f.rsv, rz 64 f.imm]
      (.tmwait f.xd.toFin f.xs1.toFin)
  | 1 => chk [rz 8 f.xd, rz 20 f.xs2, rz 26 f.vr, rz 32 f.port, rz 36 f.vp, rz 45 f.rsv, rz 64 f.imm]
      (.tmwaive f.xs1.toFin)
  | 2 => chk [rz 20 f.xs2, rz 26 f.vr, rz 32 f.port, rz 36 f.vp, rz 45 f.rsv, rz 64 f.imm]
      (.tmcnt f.xd.toFin f.xs1.toFin)
  | _ => .err .fn

/-- Major 0xC0 (family Y). -/
noncomputable def decC0 (f : YWord) : DecRes :=
  match f.fn.toNat with
  | 0 => chk [rz 8 f.xd, rz 14 f.xs1, rz 20 f.xs2, rz 37 f.rsv, rz 64 f.imm, badCode 26 (5 < f.scp.toNat)]
      (.phase (decScope f.scp))
  | 1 => chk [rz 8 f.xd, rz 14 f.xs1, rz 20 f.xs2, rz 37 f.rsv, rz 64 f.imm, badCode 26 (5 < f.scp.toNat)]
      (.phaseRel (decScope f.scp))
  | 2 => chk [rz 8 f.xd, rz 14 f.xs1, rz 20 f.xs2, rz 37 f.rsv, rz 64 f.imm, badCode 26 (5 < f.scp.toNat)]
      (.phaseAcq (decScope f.scp))
  | 4 => chk [rz 8 f.xd, rz 14 f.xs1, rz 20 f.xs2, rz 26 f.scp, rz 37 f.rsv, rzAbove 3 f.imm]
      (.phaseL (f.imm.extractLsb' 0 3).toFin)
  | 5 => chk [rz 8 f.xd, rz 14 f.xs1, rz 20 f.xs2, rz 26 f.scp, rz 37 f.rsv, rzAbove 3 f.imm]
      (.phaseRelL (f.imm.extractLsb' 0 3).toFin)
  | 6 => chk [rz 8 f.xd, rz 14 f.xs1, rz 20 f.xs2, rz 26 f.scp, rz 37 f.rsv, rzAbove 3 f.imm]
      (.phaseAcqL (f.imm.extractLsb' 0 3).toFin)
  | _ => .err .fn

/-- Major 0xC1 (family Y). -/
noncomputable def decC1 (f : YWord) : DecRes :=
  match f.fn.toNat with
  | 0 => chk [rz 14 f.xs1, rz 20 f.xs2, rz 26 f.scp, rz 37 f.rsv, rzAbove 3 f.imm]
      (.barArrive f.xd.toFin (f.imm.extractLsb' 0 3).toFin)
  | 1 => chk [rz 8 f.xd, rz 20 f.xs2, rz 26 f.scp, rz 37 f.rsv, rzAbove 3 f.imm]
      (.barWait f.xs1.toFin (f.imm.extractLsb' 0 3).toFin)
  | 2 => chk [rz 8 f.xd, rz 14 f.xs1, rz 20 f.xs2, rz 26 f.scp, rz 37 f.rsv, rzAbove 3 f.imm]
      (.barSync (f.imm.extractLsb' 0 3).toFin)
  | _ => .err .fn

/-- Major 0xC2 (family Y). -/
noncomputable def decC2 (f : YWord) : DecRes :=
  match f.fn.toNat with
  | 0 => chk [rz 8 f.xd, rz 26 f.scp, rz 37 f.rsv, rz 64 f.imm]
      (.mcast f.xs1.toFin f.xs2.toFin)
  | 1 => chk [rz 14 f.xs1, rz 20 f.xs2, rz 26 f.scp, rz 37 f.rsv, rz 64 f.imm]
      (.mrecv f.xd.toFin)
  | _ => .err .fn

/-- Major 0xC3 (family Y). -/
noncomputable def decC3 (f : YWord) : DecRes :=
  match f.fn.toNat with
  | 0 => chk [rz 8 f.xd, rz 14 f.xs1, rz 20 f.xs2, rz 26 f.scp, rz 37 f.rsv, rz 64 f.imm]
      (.yield_)
  | 1 => chk [rz 20 f.xs2, rz 26 f.scp, rz 37 f.rsv, rz 64 f.imm]
      (.sleep f.xd.toFin f.xs1.toFin)
  | _ => .err .fn

/-- Major 0xD0 (family Y). -/
def decD0 (f : YWord) : DecRes :=
  match f.fn.toNat with
  | 0 => chk [rz 14 f.xs1, rz 20 f.xs2, rz 26 f.scp, rz 37 f.rsv, rzAbove 12 f.imm]
      (.sget f.xd.toFin (f.imm.extractLsb' 0 12))
  | 1 =>
    match (f.imm.extractLsb' 0 12).toNat with
    | 0x100 => chk [rz 8 f.xd, rz 20 f.xs2, rz 26 f.scp, rz 37 f.rsv, rzAbove 12 f.imm] (.vlcapWrite f.xs1.toFin)
    | 0x00A => chk [rz 8 f.xd, rz 20 f.xs2, rz 26 f.scp, rz 37 f.rsv, rzAbove 12 f.imm] (.rseedWrite f.xs1.toFin)
    | 0x101 => chk [rz 8 f.xd, rz 20 f.xs2, rz 26 f.scp, rz 37 f.rsv, rzAbove 12 f.imm] (.dmodeWrite f.xs1.toFin)
    | 0x010 => chk [rz 8 f.xd, rz 20 f.xs2, rz 26 f.scp, rz 37 f.rsv, rzAbove 12 f.imm] (.loopRegWrite .lc0 f.xs1.toFin)
    | 0x011 => chk [rz 8 f.xd, rz 20 f.xs2, rz 26 f.scp, rz 37 f.rsv, rzAbove 12 f.imm] (.loopRegWrite .lb0 f.xs1.toFin)
    | 0x012 => chk [rz 8 f.xd, rz 20 f.xs2, rz 26 f.scp, rz 37 f.rsv, rzAbove 12 f.imm] (.loopRegWrite .le0 f.xs1.toFin)
    | 0x013 => chk [rz 8 f.xd, rz 20 f.xs2, rz 26 f.scp, rz 37 f.rsv, rzAbove 12 f.imm] (.loopRegWrite .lc1 f.xs1.toFin)
    | 0x014 => chk [rz 8 f.xd, rz 20 f.xs2, rz 26 f.scp, rz 37 f.rsv, rzAbove 12 f.imm] (.loopRegWrite .lb1 f.xs1.toFin)
    | 0x015 => chk [rz 8 f.xd, rz 20 f.xs2, rz 26 f.scp, rz 37 f.rsv, rzAbove 12 f.imm] (.loopRegWrite .le1 f.xs1.toFin)
    | _ => chk [rz 8 f.xd, rz 20 f.xs2, rz 26 f.scp, rz 37 f.rsv, rzAbove 12 f.imm] (.sset (f.imm.extractLsb' 0 12) f.xs1.toFin)
  | _ => .err .fn

/-- Major 0xD1 (family Y). -/
def decD1 (f : YWord) : DecRes :=
  match f.fn.toNat with
  | 0 => chk [rz 8 f.xd, rz 14 f.xs1, rz 20 f.xs2, rz 26 f.scp, rz 37 f.rsv]
      (.sys f.imm)
  | 1 => chk [rz 8 f.xd, rz 14 f.xs1, rz 20 f.xs2, rz 26 f.scp, rz 37 f.rsv]
      (.brk f.imm)
  | 2 => chk [rz 8 f.xd, rz 14 f.xs1, rz 20 f.xs2, rz 26 f.scp, rz 37 f.rsv, rz 64 f.imm]
      (.tret)
  | 3 => chk [rz 8 f.xd, rz 14 f.xs1, rz 20 f.xs2, rz 26 f.scp, rz 37 f.rsv, rz 64 f.imm]
      (.uiret)
  | _ => .err .fn

/-- Major 0xD2 (family Y). -/
def decD2 (f : YWord) : DecRes :=
  match f.fn.toNat with
  | 0 => chk [rz 8 f.xd, rz 20 f.xs2, rz 26 f.scp, rz 37 f.rsv, rz 64 f.imm]
      (.tlbinv f.xs1.toFin)
  | 1 => chk [rz 8 f.xd, rz 26 f.scp, rz 37 f.rsv, rz 64 f.imm]
      (.tlbinvVa f.xs1.toFin f.xs2.toFin)
  | 2 => chk [rz 8 f.xd, rz 14 f.xs1, rz 20 f.xs2, rz 37 f.rsv, rz 64 f.imm, badCode 26 (5 < f.scp.toNat)]
      (.fsync (decScope f.scp))
  | _ => .err .fn

/-- Major 0xD3 (family Y). -/
def decD3 (f : YWord) : DecRes :=
  match f.fn.toNat with
  | 0 => chk [rz 26 f.scp, rz 37 f.rsv, rz 64 f.imm]
      (.keyset f.xd.toFin f.xs1.toFin f.xs2.toFin)
  | 1 => chk [rz 20 f.xs2, rz 26 f.scp, rz 37 f.rsv, rz 64 f.imm]
      (.keydel f.xd.toFin f.xs1.toFin)
  | 2 => chk [rz 20 f.xs2, rz 26 f.scp, rz 37 f.rsv, rz 64 f.imm]
      (.ctxnew f.xd.toFin f.xs1.toFin)
  | 3 => chk [rz 20 f.xs2, rz 26 f.scp, rz 37 f.rsv, rz 64 f.imm]
      (.ctxkill f.xd.toFin f.xs1.toFin)
  | 4 =>
    match (f.imm.extractLsb' 0 8).toNat with
    | 0 => chk [rz 26 f.scp, rz 37 f.rsv, rzAbove 8 f.imm] (.qbind f.xd.toFin f.xs1.toFin f.xs2.toFin)
    | 1 => chk [rz 26 f.scp, rz 37 f.rsv, rzAbove 8 f.imm] (.qunbind f.xd.toFin f.xs1.toFin f.xs2.toFin)
    | 2 => chk [rz 26 f.scp, rz 37 f.rsv, rzAbove 8 f.imm] (.qpause f.xd.toFin f.xs1.toFin f.xs2.toFin)
    | 3 => chk [rz 26 f.scp, rz 37 f.rsv, rzAbove 8 f.imm] (.qresume f.xd.toFin f.xs1.toFin f.xs2.toFin)
    | 4 => chk [rz 26 f.scp, rz 37 f.rsv, rzAbove 8 f.imm] (.qappend f.xd.toFin f.xs1.toFin f.xs2.toFin)
    | _ => chk [rz 26 f.scp, rz 37 f.rsv, badCode 64 true] (.qbind f.xd.toFin f.xs1.toFin f.xs2.toFin)
  | 5 => chk [rz 26 f.scp, rz 37 f.rsv, rz 64 f.imm]
      (.scrub f.xd.toFin f.xs1.toFin f.xs2.toFin)
  | _ => .err .fn

/-- The decoder of a 96-bit instruction word (R153, orders 1 to 3). -/
noncomputable def decode (w : BitVec 96) : DecRes :=
  match (w.extractLsb' 0 8).toNat with
  | 0x01 => dec01 (splitS w)
  | 0x02 => dec02 (splitS w)
  | 0x03 => dec03 (splitS w)
  | 0x04 => dec04 (splitS w)
  | 0x05 => dec05 (splitS w)
  | 0x06 => dec06 (splitS w)
  | 0x07 => dec07 (splitS w)
  | 0x20 => dec20 (splitS w)
  | 0x21 => dec21 (splitS w)
  | 0x22 => dec22 (splitS w)
  | 0x23 => dec23 (splitS w)
  | 0x30 => dec30 (splitB w)
  | 0x31 => dec31 (splitB w)
  | 0x32 => dec32 (splitB w)
  | 0x33 => dec33 (splitB w)
  | 0x40 => dec40 (splitV w)
  | 0x41 => dec41 (splitM w)
  | 0x42 => dec42 (splitM w)
  | 0x43 => dec43 (splitM w)
  | 0x44 => dec44 (splitV w)
  | 0x45 => dec45 (splitV w)
  | 0x48 => dec48 (splitV w)
  | 0x49 => dec49 (splitV w)
  | 0x4A => dec4A (splitV w)
  | 0x4B => dec4B (splitV w)
  | 0x4C => dec4C (splitV w)
  | 0x4D => dec4D (splitV w)
  | 0x4E => dec4E (splitV w)
  | 0x4F => dec4F (splitV w)
  | 0x50 => dec50 (splitV w)
  | 0x80 => dec80 (splitA w)
  | 0x81 => dec81 (splitA w)
  | 0x82 => dec82 (splitA w)
  | 0x83 => dec83 (splitA w)
  | 0x84 => dec84 (splitA w)
  | 0x85 => dec85 (splitA w)
  | 0xA0 => decA0 (splitM w)
  | 0xA1 => decA1 (splitM w)
  | 0xA2 => decA2 (splitM w)
  | 0xA3 => decA3 (splitM w)
  | 0xA4 => decA4 (splitM w)
  | 0xA5 => decA5 (splitM w)
  | 0xB0 => decB0 (splitC w)
  | 0xB1 => decB1 (splitC w)
  | 0xB2 => decB2 (splitC w)
  | 0xB3 => decB3 (splitC w)
  | 0xC0 => decC0 (splitY w)
  | 0xC1 => decC1 (splitY w)
  | 0xC2 => decC2 (splitY w)
  | 0xC3 => decC3 (splitY w)
  | 0xD0 => decD0 (splitY w)
  | 0xD1 => decD1 (splitY w)
  | 0xD2 => decD2 (splitY w)
  | 0xD3 => decD3 (splitY w)
  | _ => .err .opc

/-! ### The encoder -/

/-- The word of a well-formed instruction (R151); engine steps have none. -/
def encode : Instr → Option (BitVec 96)
  | .add xd xs1 b => some (joinS { opc := 0x01, xd := .ofFin xd, xs1 := .ofFin xs1, xs2 := bReg b, xs3 := 0, fn := 0, im := bIm b, fm := 0, rsv := 0, imm := bImm b })
  | .sub xd xs1 b => some (joinS { opc := 0x01, xd := .ofFin xd, xs1 := .ofFin xs1, xs2 := bReg b, xs3 := 0, fn := 1, im := bIm b, fm := 0, rsv := 0, imm := bImm b })
  | .and_ xd xs1 b => some (joinS { opc := 0x01, xd := .ofFin xd, xs1 := .ofFin xs1, xs2 := bReg b, xs3 := 0, fn := 2, im := bIm b, fm := 0, rsv := 0, imm := bImm b })
  | .or_ xd xs1 b => some (joinS { opc := 0x01, xd := .ofFin xd, xs1 := .ofFin xs1, xs2 := bReg b, xs3 := 0, fn := 3, im := bIm b, fm := 0, rsv := 0, imm := bImm b })
  | .xor_ xd xs1 b => some (joinS { opc := 0x01, xd := .ofFin xd, xs1 := .ofFin xs1, xs2 := bReg b, xs3 := 0, fn := 4, im := bIm b, fm := 0, rsv := 0, imm := bImm b })
  | .andn xd xs1 b => some (joinS { opc := 0x01, xd := .ofFin xd, xs1 := .ofFin xs1, xs2 := bReg b, xs3 := 0, fn := 5, im := bIm b, fm := 0, rsv := 0, imm := bImm b })
  | .addw xd xs1 b => some (joinS { opc := 0x01, xd := .ofFin xd, xs1 := .ofFin xs1, xs2 := bReg b, xs3 := 0, fn := 6, im := bIm b, fm := 0, rsv := 0, imm := bImm b })
  | .subw xd xs1 b => some (joinS { opc := 0x01, xd := .ofFin xd, xs1 := .ofFin xs1, xs2 := bReg b, xs3 := 0, fn := 7, im := bIm b, fm := 0, rsv := 0, imm := bImm b })
  | .min_ xd xs1 b => some (joinS { opc := 0x01, xd := .ofFin xd, xs1 := .ofFin xs1, xs2 := bReg b, xs3 := 0, fn := 8, im := bIm b, fm := 0, rsv := 0, imm := bImm b })
  | .max_ xd xs1 b => some (joinS { opc := 0x01, xd := .ofFin xd, xs1 := .ofFin xs1, xs2 := bReg b, xs3 := 0, fn := 9, im := bIm b, fm := 0, rsv := 0, imm := bImm b })
  | .minu xd xs1 b => some (joinS { opc := 0x01, xd := .ofFin xd, xs1 := .ofFin xs1, xs2 := bReg b, xs3 := 0, fn := 10, im := bIm b, fm := 0, rsv := 0, imm := bImm b })
  | .maxu xd xs1 b => some (joinS { opc := 0x01, xd := .ofFin xd, xs1 := .ofFin xs1, xs2 := bReg b, xs3 := 0, fn := 11, im := bIm b, fm := 0, rsv := 0, imm := bImm b })
  | .sll xd xs1 b => some (joinS { opc := 0x02, xd := .ofFin xd, xs1 := .ofFin xs1, xs2 := bReg b, xs3 := 0, fn := 0, im := bIm b, fm := 0, rsv := 0, imm := bImm b })
  | .srl xd xs1 b => some (joinS { opc := 0x02, xd := .ofFin xd, xs1 := .ofFin xs1, xs2 := bReg b, xs3 := 0, fn := 1, im := bIm b, fm := 0, rsv := 0, imm := bImm b })
  | .sra xd xs1 b => some (joinS { opc := 0x02, xd := .ofFin xd, xs1 := .ofFin xs1, xs2 := bReg b, xs3 := 0, fn := 2, im := bIm b, fm := 0, rsv := 0, imm := bImm b })
  | .rol xd xs1 b => some (joinS { opc := 0x02, xd := .ofFin xd, xs1 := .ofFin xs1, xs2 := bReg b, xs3 := 0, fn := 3, im := bIm b, fm := 0, rsv := 0, imm := bImm b })
  | .ror xd xs1 b => some (joinS { opc := 0x02, xd := .ofFin xd, xs1 := .ofFin xs1, xs2 := bReg b, xs3 := 0, fn := 4, im := bIm b, fm := 0, rsv := 0, imm := bImm b })
  | .sllw xd xs1 b => some (joinS { opc := 0x02, xd := .ofFin xd, xs1 := .ofFin xs1, xs2 := bReg b, xs3 := 0, fn := 5, im := bIm b, fm := 0, rsv := 0, imm := bImm b })
  | .srlw xd xs1 b => some (joinS { opc := 0x02, xd := .ofFin xd, xs1 := .ofFin xs1, xs2 := bReg b, xs3 := 0, fn := 6, im := bIm b, fm := 0, rsv := 0, imm := bImm b })
  | .sraw xd xs1 b => some (joinS { opc := 0x02, xd := .ofFin xd, xs1 := .ofFin xs1, xs2 := bReg b, xs3 := 0, fn := 7, im := bIm b, fm := 0, rsv := 0, imm := bImm b })
  | .seq xd xs1 b => some (joinS { opc := 0x03, xd := .ofFin xd, xs1 := .ofFin xs1, xs2 := bReg b, xs3 := 0, fn := 0, im := bIm b, fm := 0, rsv := 0, imm := bImm b })
  | .sne xd xs1 b => some (joinS { opc := 0x03, xd := .ofFin xd, xs1 := .ofFin xs1, xs2 := bReg b, xs3 := 0, fn := 1, im := bIm b, fm := 0, rsv := 0, imm := bImm b })
  | .slt xd xs1 b => some (joinS { opc := 0x03, xd := .ofFin xd, xs1 := .ofFin xs1, xs2 := bReg b, xs3 := 0, fn := 2, im := bIm b, fm := 0, rsv := 0, imm := bImm b })
  | .sltu xd xs1 b => some (joinS { opc := 0x03, xd := .ofFin xd, xs1 := .ofFin xs1, xs2 := bReg b, xs3 := 0, fn := 3, im := bIm b, fm := 0, rsv := 0, imm := bImm b })
  | .sge xd xs1 b => some (joinS { opc := 0x03, xd := .ofFin xd, xs1 := .ofFin xs1, xs2 := bReg b, xs3 := 0, fn := 4, im := bIm b, fm := 0, rsv := 0, imm := bImm b })
  | .sgeu xd xs1 b => some (joinS { opc := 0x03, xd := .ofFin xd, xs1 := .ofFin xs1, xs2 := bReg b, xs3 := 0, fn := 5, im := bIm b, fm := 0, rsv := 0, imm := bImm b })
  | .sel xd xs3 xs1 b => some (joinS { opc := 0x03, xd := .ofFin xd, xs1 := .ofFin xs1, xs2 := bReg b, xs3 := .ofFin xs3, fn := 8, im := bIm b, fm := 0, rsv := 0, imm := bImm b })
  | .mul xd xs1 b => some (joinS { opc := 0x04, xd := .ofFin xd, xs1 := .ofFin xs1, xs2 := bReg b, xs3 := 0, fn := 0, im := bIm b, fm := 0, rsv := 0, imm := bImm b })
  | .mulh xd xs1 b => some (joinS { opc := 0x04, xd := .ofFin xd, xs1 := .ofFin xs1, xs2 := bReg b, xs3 := 0, fn := 1, im := bIm b, fm := 0, rsv := 0, imm := bImm b })
  | .mulhu xd xs1 b => some (joinS { opc := 0x04, xd := .ofFin xd, xs1 := .ofFin xs1, xs2 := bReg b, xs3 := 0, fn := 2, im := bIm b, fm := 0, rsv := 0, imm := bImm b })
  | .mulhsu xd xs1 b => some (joinS { opc := 0x04, xd := .ofFin xd, xs1 := .ofFin xs1, xs2 := bReg b, xs3 := 0, fn := 3, im := bIm b, fm := 0, rsv := 0, imm := bImm b })
  | .mulw xd xs1 b => some (joinS { opc := 0x04, xd := .ofFin xd, xs1 := .ofFin xs1, xs2 := bReg b, xs3 := 0, fn := 4, im := bIm b, fm := 0, rsv := 0, imm := bImm b })
  | .madd xd xs1 b xs3 => some (joinS { opc := 0x04, xd := .ofFin xd, xs1 := .ofFin xs1, xs2 := bReg b, xs3 := .ofFin xs3, fn := 5, im := bIm b, fm := 0, rsv := 0, imm := bImm b })
  | .div xd xs1 b => some (joinS { opc := 0x04, xd := .ofFin xd, xs1 := .ofFin xs1, xs2 := bReg b, xs3 := 0, fn := 8, im := bIm b, fm := 0, rsv := 0, imm := bImm b })
  | .divu xd xs1 b => some (joinS { opc := 0x04, xd := .ofFin xd, xs1 := .ofFin xs1, xs2 := bReg b, xs3 := 0, fn := 9, im := bIm b, fm := 0, rsv := 0, imm := bImm b })
  | .rem xd xs1 b => some (joinS { opc := 0x04, xd := .ofFin xd, xs1 := .ofFin xs1, xs2 := bReg b, xs3 := 0, fn := 10, im := bIm b, fm := 0, rsv := 0, imm := bImm b })
  | .remu xd xs1 b => some (joinS { opc := 0x04, xd := .ofFin xd, xs1 := .ofFin xs1, xs2 := bReg b, xs3 := 0, fn := 11, im := bIm b, fm := 0, rsv := 0, imm := bImm b })
  | .clz xd xs1 => some (joinS { opc := 0x05, xd := .ofFin xd, xs1 := .ofFin xs1, xs2 := 0, xs3 := 0, fn := 0, im := 0, fm := 0, rsv := 0, imm := 0 })
  | .ctz xd xs1 => some (joinS { opc := 0x05, xd := .ofFin xd, xs1 := .ofFin xs1, xs2 := 0, xs3 := 0, fn := 1, im := 0, fm := 0, rsv := 0, imm := 0 })
  | .cpop xd xs1 => some (joinS { opc := 0x05, xd := .ofFin xd, xs1 := .ofFin xs1, xs2 := 0, xs3 := 0, fn := 2, im := 0, fm := 0, rsv := 0, imm := 0 })
  | .rev8 xd xs1 => some (joinS { opc := 0x05, xd := .ofFin xd, xs1 := .ofFin xs1, xs2 := 0, xs3 := 0, fn := 3, im := 0, fm := 0, rsv := 0, imm := 0 })
  | .bext xd xs1 pos lenM1 => some (joinS { opc := 0x05, xd := .ofFin xd, xs1 := .ofFin xs1, xs2 := 0, xs3 := 0, fn := 4, im := 0, fm := 0, rsv := 0, imm := immPosLen pos lenM1 })
  | .bexts xd xs1 pos lenM1 => some (joinS { opc := 0x05, xd := .ofFin xd, xs1 := .ofFin xs1, xs2 := 0, xs3 := 0, fn := 5, im := 0, fm := 0, rsv := 0, imm := immPosLen pos lenM1 })
  | .bins xd xs1 pos lenM1 => some (joinS { opc := 0x05, xd := .ofFin xd, xs1 := .ofFin xs1, xs2 := 0, xs3 := 0, fn := 6, im := 0, fm := 0, rsv := 0, imm := immPosLen pos lenM1 })
  | .li xd imm => some (joinS { opc := 0x06, xd := .ofFin xd, xs1 := 0, xs2 := 0, xs3 := 0, fn := 0, im := 0, fm := 0, rsv := 0, imm := imm })
  | .lih xd xs1 imm => some (joinS { opc := 0x06, xd := .ofFin xd, xs1 := .ofFin xs1, xs2 := 0, xs3 := 0, fn := 1, im := 0, fm := 0, rsv := 0, imm := imm })
  | .lea xd xs1 xs2 sh => some (joinS { opc := 0x06, xd := .ofFin xd, xs1 := .ofFin xs1, xs2 := .ofFin xs2, xs3 := 0, fn := 2, im := 0, fm := 0, rsv := 0, imm := BitVec.ofNat 32 sh.val })
  | .lca xd slot imm => some (joinS { opc := 0x06, xd := .ofFin xd, xs1 := 0, xs2 := encSlot6 slot, xs3 := 0, fn := 3, im := 0, fm := 0, rsv := 0, imm := imm })
  | .fset k xs1 => some (joinS { opc := 0x07, xd := 0, xs1 := .ofFin xs1, xs2 := 0, xs3 := 0, fn := 0, im := 0, fm := .ofFin k, rsv := 0, imm := 0 })
  | .talloc xd xs1 => some (joinS { opc := 0x07, xd := .ofFin xd, xs1 := .ofFin xs1, xs2 := 0, xs3 := 0, fn := 1, im := 0, fm := 0, rsv := 0, imm := 0 })
  | .tfree xd xs1 => some (joinS { opc := 0x07, xd := .ofFin xd, xs1 := .ofFin xs1, xs2 := 0, xs3 := 0, fn := 2, im := 0, fm := 0, rsv := 0, imm := 0 })
  | .ldb xd xs1 xs2 imm => some (joinS { opc := 0x20, xd := .ofFin xd, xs1 := .ofFin xs1, xs2 := .ofFin xs2, xs3 := 0, fn := 0, im := 0, fm := 0, rsv := 0, imm := imm })
  | .ldbu xd xs1 xs2 imm => some (joinS { opc := 0x20, xd := .ofFin xd, xs1 := .ofFin xs1, xs2 := .ofFin xs2, xs3 := 0, fn := 1, im := 0, fm := 0, rsv := 0, imm := imm })
  | .ldh xd xs1 xs2 imm => some (joinS { opc := 0x20, xd := .ofFin xd, xs1 := .ofFin xs1, xs2 := .ofFin xs2, xs3 := 0, fn := 2, im := 0, fm := 0, rsv := 0, imm := imm })
  | .ldhu xd xs1 xs2 imm => some (joinS { opc := 0x20, xd := .ofFin xd, xs1 := .ofFin xs1, xs2 := .ofFin xs2, xs3 := 0, fn := 3, im := 0, fm := 0, rsv := 0, imm := imm })
  | .ldw xd xs1 xs2 imm => some (joinS { opc := 0x20, xd := .ofFin xd, xs1 := .ofFin xs1, xs2 := .ofFin xs2, xs3 := 0, fn := 4, im := 0, fm := 0, rsv := 0, imm := imm })
  | .ldwu xd xs1 xs2 imm => some (joinS { opc := 0x20, xd := .ofFin xd, xs1 := .ofFin xs1, xs2 := .ofFin xs2, xs3 := 0, fn := 5, im := 0, fm := 0, rsv := 0, imm := imm })
  | .ldd xd xs1 xs2 imm => some (joinS { opc := 0x20, xd := .ofFin xd, xs1 := .ofFin xs1, xs2 := .ofFin xs2, xs3 := 0, fn := 6, im := 0, fm := 0, rsv := 0, imm := imm })
  | .ldp xd xs1 xs2 imm => some (joinS { opc := 0x20, xd := .ofFin xd, xs1 := .ofFin xs1, xs2 := .ofFin xs2, xs3 := 0, fn := 7, im := 0, fm := 0, rsv := 0, imm := imm })
  | .stb xs3 xs1 xs2 imm => some (joinS { opc := 0x21, xd := 0, xs1 := .ofFin xs1, xs2 := .ofFin xs2, xs3 := .ofFin xs3, fn := 0, im := 0, fm := 0, rsv := 0, imm := imm })
  | .sth xs3 xs1 xs2 imm => some (joinS { opc := 0x21, xd := 0, xs1 := .ofFin xs1, xs2 := .ofFin xs2, xs3 := .ofFin xs3, fn := 1, im := 0, fm := 0, rsv := 0, imm := imm })
  | .stw xs3 xs1 xs2 imm => some (joinS { opc := 0x21, xd := 0, xs1 := .ofFin xs1, xs2 := .ofFin xs2, xs3 := .ofFin xs3, fn := 2, im := 0, fm := 0, rsv := 0, imm := imm })
  | .std xs3 xs1 xs2 imm => some (joinS { opc := 0x21, xd := 0, xs1 := .ofFin xs1, xs2 := .ofFin xs2, xs3 := .ofFin xs3, fn := 3, im := 0, fm := 0, rsv := 0, imm := imm })
  | .stp xs3 xs1 xs2 imm => some (joinS { opc := 0x21, xd := 0, xs1 := .ofFin xs1, xs2 := .ofFin xs2, xs3 := .ofFin xs3, fn := 4, im := 0, fm := 0, rsv := 0, imm := imm })
  | .amoswap wd xd xs2 xs1 imm => some (joinS { opc := 0x22, xd := .ofFin xd, xs1 := .ofFin xs1, xs2 := .ofFin xs2, xs3 := 0, fn := (match wd with | .w => 0 | .d => 16), im := 0, fm := 0, rsv := 0, imm := imm })
  | .amoadd wd xd xs2 xs1 imm => some (joinS { opc := 0x22, xd := .ofFin xd, xs1 := .ofFin xs1, xs2 := .ofFin xs2, xs3 := 0, fn := (match wd with | .w => 1 | .d => 17), im := 0, fm := 0, rsv := 0, imm := imm })
  | .amoand wd xd xs2 xs1 imm => some (joinS { opc := 0x22, xd := .ofFin xd, xs1 := .ofFin xs1, xs2 := .ofFin xs2, xs3 := 0, fn := (match wd with | .w => 2 | .d => 18), im := 0, fm := 0, rsv := 0, imm := imm })
  | .amoor wd xd xs2 xs1 imm => some (joinS { opc := 0x22, xd := .ofFin xd, xs1 := .ofFin xs1, xs2 := .ofFin xs2, xs3 := 0, fn := (match wd with | .w => 3 | .d => 19), im := 0, fm := 0, rsv := 0, imm := imm })
  | .amoxor wd xd xs2 xs1 imm => some (joinS { opc := 0x22, xd := .ofFin xd, xs1 := .ofFin xs1, xs2 := .ofFin xs2, xs3 := 0, fn := (match wd with | .w => 4 | .d => 20), im := 0, fm := 0, rsv := 0, imm := imm })
  | .amomin wd xd xs2 xs1 imm => some (joinS { opc := 0x22, xd := .ofFin xd, xs1 := .ofFin xs1, xs2 := .ofFin xs2, xs3 := 0, fn := (match wd with | .w => 5 | .d => 21), im := 0, fm := 0, rsv := 0, imm := imm })
  | .amomax wd xd xs2 xs1 imm => some (joinS { opc := 0x22, xd := .ofFin xd, xs1 := .ofFin xs1, xs2 := .ofFin xs2, xs3 := 0, fn := (match wd with | .w => 6 | .d => 22), im := 0, fm := 0, rsv := 0, imm := imm })
  | .amominu wd xd xs2 xs1 imm => some (joinS { opc := 0x22, xd := .ofFin xd, xs1 := .ofFin xs1, xs2 := .ofFin xs2, xs3 := 0, fn := (match wd with | .w => 7 | .d => 23), im := 0, fm := 0, rsv := 0, imm := imm })
  | .amomaxu wd xd xs2 xs1 imm => some (joinS { opc := 0x22, xd := .ofFin xd, xs1 := .ofFin xs1, xs2 := .ofFin xs2, xs3 := 0, fn := (match wd with | .w => 8 | .d => 24), im := 0, fm := 0, rsv := 0, imm := imm })
  | .casW xd xs2 xs3 xs1 imm => some (joinS { opc := 0x23, xd := .ofFin xd, xs1 := .ofFin xs1, xs2 := .ofFin xs2, xs3 := .ofFin xs3, fn := 0, im := 0, fm := 0, rsv := 0, imm := imm })
  | .casD xd xs2 xs3 xs1 imm => some (joinS { opc := 0x23, xd := .ofFin xd, xs1 := .ofFin xs1, xs2 := .ofFin xs2, xs3 := .ofFin xs3, fn := 1, im := 0, fm := 0, rsv := 0, imm := imm })
  | .casQ xd xs2 xs3 xs1 imm => some (joinS { opc := 0x23, xd := .ofFin xd, xs1 := .ofFin xs1, xs2 := .ofFin xs2, xs3 := .ofFin xs3, fn := 2, im := 0, fm := 0, rsv := 0, imm := imm })
  | .j slot imm => some (joinB { opc := 0x30, xd := 0, xs1 := 0, xs2 := 0, slot := encSlot slot, cnd := 0, fn := 0, rsv := 0, imm := imm })
  | .call xd slot imm => some (joinB { opc := 0x30, xd := .ofFin xd, xs1 := 0, xs2 := 0, slot := encSlot slot, cnd := 0, fn := 1, rsv := 0, imm := imm })
  | .jr xs1 => some (joinB { opc := 0x31, xd := 0, xs1 := .ofFin xs1, xs2 := 0, slot := 0, cnd := 0, fn := 0, rsv := 0, imm := 0 })
  | .callr xd xs1 => some (joinB { opc := 0x31, xd := .ofFin xd, xs1 := .ofFin xs1, xs2 := 0, slot := 0, cnd := 0, fn := 1, rsv := 0, imm := 0 })
  | .ret xs1 => some (joinB { opc := 0x31, xd := 0, xs1 := .ofFin xs1, xs2 := 0, slot := 0, cnd := 0, fn := 2, rsv := 0, imm := 0 })
  | .beq xs1 xs2 slot imm => some (joinB { opc := 0x32, xd := 0, xs1 := .ofFin xs1, xs2 := .ofFin xs2, slot := encSlot slot, cnd := 0, fn := 0, rsv := 0, imm := imm })
  | .bne xs1 xs2 slot imm => some (joinB { opc := 0x32, xd := 0, xs1 := .ofFin xs1, xs2 := .ofFin xs2, slot := encSlot slot, cnd := 1, fn := 0, rsv := 0, imm := imm })
  | .blt xs1 xs2 slot imm => some (joinB { opc := 0x32, xd := 0, xs1 := .ofFin xs1, xs2 := .ofFin xs2, slot := encSlot slot, cnd := 2, fn := 0, rsv := 0, imm := imm })
  | .bge xs1 xs2 slot imm => some (joinB { opc := 0x32, xd := 0, xs1 := .ofFin xs1, xs2 := .ofFin xs2, slot := encSlot slot, cnd := 3, fn := 0, rsv := 0, imm := imm })
  | .bltu xs1 xs2 slot imm => some (joinB { opc := 0x32, xd := 0, xs1 := .ofFin xs1, xs2 := .ofFin xs2, slot := encSlot slot, cnd := 4, fn := 0, rsv := 0, imm := imm })
  | .bgeu xs1 xs2 slot imm => some (joinB { opc := 0x32, xd := 0, xs1 := .ofFin xs1, xs2 := .ofFin xs2, slot := encSlot slot, cnd := 5, fn := 0, rsv := 0, imm := imm })
  | .loop0 xs1 slot imm => some (joinB { opc := 0x33, xd := 0, xs1 := .ofFin xs1, xs2 := 0, slot := encSlot slot, cnd := 0, fn := 0, rsv := 0, imm := imm })
  | .loop1 xs1 slot imm => some (joinB { opc := 0x33, xd := 0, xs1 := .ofFin xs1, xs2 := 0, slot := encSlot slot, cnd := 0, fn := 1, rsv := 0, imm := imm })
  | .lpexit0 => some (joinB { opc := 0x33, xd := 0, xs1 := 0, xs2 := 0, slot := 0, cnd := 0, fn := 2, rsv := 0, imm := 0 })
  | .lpexit1 => some (joinB { opc := 0x33, xd := 0, xs1 := 0, xs2 := 0, slot := 0, cnd := 0, fn := 3, rsv := 0, imm := 0 })
  | .sget xd num => some (joinY { opc := 0xD0, xd := .ofFin xd, xs1 := 0, xs2 := 0, scp := 0, fn := 0, rsv := 0, imm := num.zeroExtend 32 })
  | .sset num xs1 => some (joinY { opc := 0xD0, xd := 0, xs1 := .ofFin xs1, xs2 := 0, scp := 0, fn := 1, rsv := 0, imm := num.zeroExtend 32 })
  | .vlcapWrite xs1 => some (joinY { opc := 0xD0, xd := 0, xs1 := .ofFin xs1, xs2 := 0, scp := 0, fn := 1, rsv := 0, imm := 0x100 })
  | .rseedWrite xs1 => some (joinY { opc := 0xD0, xd := 0, xs1 := .ofFin xs1, xs2 := 0, scp := 0, fn := 1, rsv := 0, imm := 0x00A })
  | .dmodeWrite xs1 => some (joinY { opc := 0xD0, xd := 0, xs1 := .ofFin xs1, xs2 := 0, scp := 0, fn := 1, rsv := 0, imm := 0x101 })
  | .loopRegWrite r xs1 => some (joinY { opc := 0xD0, xd := 0, xs1 := .ofFin xs1, xs2 := 0, scp := 0, fn := 1, rsv := 0, imm := encLoopReg r })
  | .sys imm => some (joinY { opc := 0xD1, xd := 0, xs1 := 0, xs2 := 0, scp := 0, fn := 0, rsv := 0, imm := imm })
  | .brk imm => some (joinY { opc := 0xD1, xd := 0, xs1 := 0, xs2 := 0, scp := 0, fn := 1, rsv := 0, imm := imm })
  | .tret => some (joinY { opc := 0xD1, xd := 0, xs1 := 0, xs2 := 0, scp := 0, fn := 2, rsv := 0, imm := 0 })
  | .uiret => some (joinY { opc := 0xD1, xd := 0, xs1 := 0, xs2 := 0, scp := 0, fn := 3, rsv := 0, imm := 0 })
  | .tlbinv xs1 => some (joinY { opc := 0xD2, xd := 0, xs1 := .ofFin xs1, xs2 := 0, scp := 0, fn := 0, rsv := 0, imm := 0 })
  | .tlbinvVa xs1 xs2 => some (joinY { opc := 0xD2, xd := 0, xs1 := .ofFin xs1, xs2 := .ofFin xs2, scp := 0, fn := 1, rsv := 0, imm := 0 })
  | .fsync scp => some (joinY { opc := 0xD2, xd := 0, xs1 := 0, xs2 := 0, scp := encScope scp, fn := 2, rsv := 0, imm := 0 })
  | .keyset xd xs1 xs2 => some (joinY { opc := 0xD3, xd := .ofFin xd, xs1 := .ofFin xs1, xs2 := .ofFin xs2, scp := 0, fn := 0, rsv := 0, imm := 0 })
  | .keydel xd xs1 => some (joinY { opc := 0xD3, xd := .ofFin xd, xs1 := .ofFin xs1, xs2 := 0, scp := 0, fn := 1, rsv := 0, imm := 0 })
  | .ctxnew xd xs1 => some (joinY { opc := 0xD3, xd := .ofFin xd, xs1 := .ofFin xs1, xs2 := 0, scp := 0, fn := 2, rsv := 0, imm := 0 })
  | .ctxkill xd xs1 => some (joinY { opc := 0xD3, xd := .ofFin xd, xs1 := .ofFin xs1, xs2 := 0, scp := 0, fn := 3, rsv := 0, imm := 0 })
  | .qbind xd xs1 xs2 => some (joinY { opc := 0xD3, xd := .ofFin xd, xs1 := .ofFin xs1, xs2 := .ofFin xs2, scp := 0, fn := 4, rsv := 0, imm := 0 })
  | .qunbind xd xs1 xs2 => some (joinY { opc := 0xD3, xd := .ofFin xd, xs1 := .ofFin xs1, xs2 := .ofFin xs2, scp := 0, fn := 4, rsv := 0, imm := 1 })
  | .qpause xd xs1 xs2 => some (joinY { opc := 0xD3, xd := .ofFin xd, xs1 := .ofFin xs1, xs2 := .ofFin xs2, scp := 0, fn := 4, rsv := 0, imm := 2 })
  | .qresume xd xs1 xs2 => some (joinY { opc := 0xD3, xd := .ofFin xd, xs1 := .ofFin xs1, xs2 := .ofFin xs2, scp := 0, fn := 4, rsv := 0, imm := 3 })
  | .qappend xd xs1 xs2 => some (joinY { opc := 0xD3, xd := .ofFin xd, xs1 := .ofFin xs1, xs2 := .ofFin xs2, scp := 0, fn := 4, rsv := 0, imm := 4 })
  | .scrub xd xs1 xs2 => some (joinY { opc := 0xD3, xd := .ofFin xd, xs1 := .ofFin xs1, xs2 := .ofFin xs2, scp := 0, fn := 5, rsv := 0, imm := 0 })
  | .vcfg xd xs1 xs2 => some (joinV { opc := 0x40, vd := .ofFin xd, vs1 := .ofFin xs1, vs2 := .ofFin xs2, vs3 := 0, msk := 0, fd := 0, fa := 0, fb := 0, rmd := 0, xs := 0, fn := 0, rsv := 0, imm := 0 })
  | .vcfgi xd xs1 vt => some (joinV { opc := 0x40, vd := .ofFin xd, vs1 := .ofFin xs1, vs2 := 0, vs3 := 0, msk := 0, fd := 0, fa := 0, fb := 0, rmd := 0, xs := 0, fn := 1, rsv := 0, imm := vt.zeroExtend 32 })
  | .vcfgn xd avl vt => some (joinV { opc := 0x40, vd := .ofFin xd, vs1 := 0, vs2 := 0, vs3 := 0, msk := 0, fd := 0, fa := 0, fb := 0, rmd := 0, xs := 0, fn := 2, rsv := 0, imm := immAvlVt avl vt })
  | .vcfgmax xd vt => some (joinV { opc := 0x40, vd := .ofFin xd, vs1 := 0, vs2 := 0, vs3 := 0, msk := 0, fd := 0, fa := 0, fb := 0, rmd := 0, xs := 0, fn := 3, rsv := 0, imm := vt.zeroExtend 32 })
  | .vspace sp => some (joinV { opc := 0x40, vd := 0, vs1 := 0, vs2 := 0, vs3 := 0, msk := 0, fd := 0, fa := 0, fb := 0, rmd := 0, xs := 0, fn := 4, rsv := 0, imm := (encSpace sp).zeroExtend 32 })
  | .vspacex xs1 => some (joinV { opc := 0x40, vd := 0, vs1 := .ofFin xs1, vs2 := 0, vs3 := 0, msk := 0, fd := 0, fa := 0, fb := 0, rmd := 0, xs := 0, fn := 5, rsv := 0, imm := 0 })
  | .vsetre xd xs1 xs2 k => some (joinM { opc := 0xA3, vr := .ofFin xd, xb := .ofFin xs1, xo := .ofFin xs2, msk := 0, fe := 0, fi := 0, nf := 0, mop := 0, fn := 0, rsv := 0, imm := BitVec.ofNat 32 k.val })
  | .vld vr xb imm fe nf mk => some (joinM { opc := 0x41, vr := .ofFin vr, xb := .ofFin xb, xo := 0, msk := enc3 mk, fe := .ofFin fe, fi := 0, nf := .ofFin nf, mop := 0, fn := 0, rsv := 0, imm := imm })
  | .vlds vr xb imm xo fe nf mk => some (joinM { opc := 0x41, vr := .ofFin vr, xb := .ofFin xb, xo := .ofFin xo, msk := enc3 mk, fe := .ofFin fe, fi := 0, nf := .ofFin nf, mop := 1, fn := 0, rsv := 0, imm := imm })
  | .vldx vr xb imm vo fe fi nf mk => some (joinM { opc := 0x41, vr := .ofFin vr, xb := .ofFin xb, xo := .ofFin vo, msk := enc3 mk, fe := .ofFin fe, fi := .ofFin fi, nf := .ofFin nf, mop := 2, fn := 0, rsv := 0, imm := imm })
  | .vldux vr xb imm vo fe fi nf mk => some (joinM { opc := 0x41, vr := .ofFin vr, xb := .ofFin xb, xo := .ofFin vo, msk := enc3 mk, fe := .ofFin fe, fi := .ofFin fi, nf := .ofFin nf, mop := 3, fn := 0, rsv := 0, imm := imm })
  | .vldff vr xb imm fe nf mk => some (joinM { opc := 0x41, vr := .ofFin vr, xb := .ofFin xb, xo := 0, msk := enc3 mk, fe := .ofFin fe, fi := 0, nf := .ofFin nf, mop := 4, fn := 0, rsv := 0, imm := imm })
  | .vlm md xb imm => some (joinM { opc := 0x41, vr := enc3 md, xb := .ofFin xb, xo := 0, msk := 0, fe := 0, fi := 0, nf := 0, mop := 0, fn := 1, rsv := 0, imm := imm })
  | .vst vr xb imm fe nf mk => some (joinM { opc := 0x42, vr := .ofFin vr, xb := .ofFin xb, xo := 0, msk := enc3 mk, fe := .ofFin fe, fi := 0, nf := .ofFin nf, mop := 0, fn := 0, rsv := 0, imm := imm })
  | .vsts vr xb imm xo fe nf mk => some (joinM { opc := 0x42, vr := .ofFin vr, xb := .ofFin xb, xo := .ofFin xo, msk := enc3 mk, fe := .ofFin fe, fi := 0, nf := .ofFin nf, mop := 1, fn := 0, rsv := 0, imm := imm })
  | .vstx vr xb imm vo fe fi nf mk => some (joinM { opc := 0x42, vr := .ofFin vr, xb := .ofFin xb, xo := .ofFin vo, msk := enc3 mk, fe := .ofFin fe, fi := .ofFin fi, nf := .ofFin nf, mop := 2, fn := 0, rsv := 0, imm := imm })
  | .vstux vr xb imm vo fe fi nf mk => some (joinM { opc := 0x42, vr := .ofFin vr, xb := .ofFin xb, xo := .ofFin vo, msk := enc3 mk, fe := .ofFin fe, fi := .ofFin fi, nf := .ofFin nf, mop := 3, fn := 0, rsv := 0, imm := imm })
  | .vsm ms xb imm => some (joinM { opc := 0x42, vr := enc3 ms, xb := .ofFin xb, xo := 0, msk := 0, fe := 0, fi := 0, nf := 0, mop := 0, fn := 1, rsv := 0, imm := imm })
  | .vamoswap ord vr xb imm vo fe fi mk => some (joinM { opc := 0x43, vr := .ofFin vr, xb := .ofFin xb, xo := .ofFin vo, msk := enc3 mk, fe := .ofFin fe, fi := .ofFin fi, nf := 0, mop := (if ord then 2 else 3), fn := 0, rsv := 0, imm := imm })
  | .vamoadd ord vr xb imm vo fe fi mk => some (joinM { opc := 0x43, vr := .ofFin vr, xb := .ofFin xb, xo := .ofFin vo, msk := enc3 mk, fe := .ofFin fe, fi := .ofFin fi, nf := 0, mop := (if ord then 2 else 3), fn := 1, rsv := 0, imm := imm })
  | .vamoand ord vr xb imm vo fe fi mk => some (joinM { opc := 0x43, vr := .ofFin vr, xb := .ofFin xb, xo := .ofFin vo, msk := enc3 mk, fe := .ofFin fe, fi := .ofFin fi, nf := 0, mop := (if ord then 2 else 3), fn := 2, rsv := 0, imm := imm })
  | .vamoor ord vr xb imm vo fe fi mk => some (joinM { opc := 0x43, vr := .ofFin vr, xb := .ofFin xb, xo := .ofFin vo, msk := enc3 mk, fe := .ofFin fe, fi := .ofFin fi, nf := 0, mop := (if ord then 2 else 3), fn := 3, rsv := 0, imm := imm })
  | .vamoxor ord vr xb imm vo fe fi mk => some (joinM { opc := 0x43, vr := .ofFin vr, xb := .ofFin xb, xo := .ofFin vo, msk := enc3 mk, fe := .ofFin fe, fi := .ofFin fi, nf := 0, mop := (if ord then 2 else 3), fn := 4, rsv := 0, imm := imm })
  | .vamomin ord vr xb imm vo fe fi mk => some (joinM { opc := 0x43, vr := .ofFin vr, xb := .ofFin xb, xo := .ofFin vo, msk := enc3 mk, fe := .ofFin fe, fi := .ofFin fi, nf := 0, mop := (if ord then 2 else 3), fn := 5, rsv := 0, imm := imm })
  | .vamomax ord vr xb imm vo fe fi mk => some (joinM { opc := 0x43, vr := .ofFin vr, xb := .ofFin xb, xo := .ofFin vo, msk := enc3 mk, fe := .ofFin fe, fi := .ofFin fi, nf := 0, mop := (if ord then 2 else 3), fn := 6, rsv := 0, imm := imm })
  | .vamominu ord vr xb imm vo fe fi mk => some (joinM { opc := 0x43, vr := .ofFin vr, xb := .ofFin xb, xo := .ofFin vo, msk := enc3 mk, fe := .ofFin fe, fi := .ofFin fi, nf := 0, mop := (if ord then 2 else 3), fn := 7, rsv := 0, imm := imm })
  | .vamomaxu ord vr xb imm vo fe fi mk => some (joinM { opc := 0x43, vr := .ofFin vr, xb := .ofFin xb, xo := .ofFin vo, msk := enc3 mk, fe := .ofFin fe, fi := .ofFin fi, nf := 0, mop := (if ord then 2 else 3), fn := 8, rsv := 0, imm := imm })
  | .vamofadd ord vr xb imm vo fe fi mk => some (joinM { opc := 0x43, vr := .ofFin vr, xb := .ofFin xb, xo := .ofFin vo, msk := enc3 mk, fe := .ofFin fe, fi := .ofFin fi, nf := 0, mop := (if ord then 2 else 3), fn := 9, rsv := 0, imm := imm })
  | .vcas ord vr xb imm vo fe fi mk => some (joinM { opc := 0x43, vr := .ofFin vr, xb := .ofFin xb, xo := .ofFin vo, msk := enc3 mk, fe := .ofFin fe, fi := .ofFin fi, nf := 0, mop := (if ord then 2 else 3), fn := 10, rsv := 0, imm := imm })
  | .mand md ma mb => some (joinV { opc := 0x44, vd := enc3 md, vs1 := enc3 ma, vs2 := enc3 mb, vs3 := 0, msk := 0, fd := 0, fa := 0, fb := 0, rmd := 0, xs := 0, fn := 0, rsv := 0, imm := 0 })
  | .mnand md ma mb => some (joinV { opc := 0x44, vd := enc3 md, vs1 := enc3 ma, vs2 := enc3 mb, vs3 := 0, msk := 0, fd := 0, fa := 0, fb := 0, rmd := 0, xs := 0, fn := 1, rsv := 0, imm := 0 })
  | .mandn md ma mb => some (joinV { opc := 0x44, vd := enc3 md, vs1 := enc3 ma, vs2 := enc3 mb, vs3 := 0, msk := 0, fd := 0, fa := 0, fb := 0, rmd := 0, xs := 0, fn := 2, rsv := 0, imm := 0 })
  | .mor md ma mb => some (joinV { opc := 0x44, vd := enc3 md, vs1 := enc3 ma, vs2 := enc3 mb, vs3 := 0, msk := 0, fd := 0, fa := 0, fb := 0, rmd := 0, xs := 0, fn := 3, rsv := 0, imm := 0 })
  | .mnor md ma mb => some (joinV { opc := 0x44, vd := enc3 md, vs1 := enc3 ma, vs2 := enc3 mb, vs3 := 0, msk := 0, fd := 0, fa := 0, fb := 0, rmd := 0, xs := 0, fn := 4, rsv := 0, imm := 0 })
  | .morn md ma mb => some (joinV { opc := 0x44, vd := enc3 md, vs1 := enc3 ma, vs2 := enc3 mb, vs3 := 0, msk := 0, fd := 0, fa := 0, fb := 0, rmd := 0, xs := 0, fn := 5, rsv := 0, imm := 0 })
  | .mxor md ma mb => some (joinV { opc := 0x44, vd := enc3 md, vs1 := enc3 ma, vs2 := enc3 mb, vs3 := 0, msk := 0, fd := 0, fa := 0, fb := 0, rmd := 0, xs := 0, fn := 6, rsv := 0, imm := 0 })
  | .mxnor md ma mb => some (joinV { opc := 0x44, vd := enc3 md, vs1 := enc3 ma, vs2 := enc3 mb, vs3 := 0, msk := 0, fd := 0, fa := 0, fb := 0, rmd := 0, xs := 0, fn := 7, rsv := 0, imm := 0 })
  | .mcount xd ms mk => some (joinV { opc := 0x45, vd := .ofFin xd, vs1 := 0, vs2 := enc3 ms, vs3 := 0, msk := enc3 mk, fd := 0, fa := 0, fb := 0, rmd := 0, xs := 0, fn := 0, rsv := 0, imm := 0 })
  | .mfind xd ms mk => some (joinV { opc := 0x45, vd := .ofFin xd, vs1 := 0, vs2 := enc3 ms, vs3 := 0, msk := enc3 mk, fd := 0, fa := 0, fb := 0, rmd := 0, xs := 0, fn := 1, rsv := 0, imm := 0 })
  | .mcutLt md ms mk => some (joinV { opc := 0x45, vd := enc3 md, vs1 := 0, vs2 := enc3 ms, vs3 := 0, msk := enc3 mk, fd := 0, fa := 0, fb := 0, rmd := 0, xs := 0, fn := 2, rsv := 0, imm := 0 })
  | .mcutLe md ms mk => some (joinV { opc := 0x45, vd := enc3 md, vs1 := 0, vs2 := enc3 ms, vs3 := 0, msk := enc3 mk, fd := 0, fa := 0, fb := 0, rmd := 0, xs := 0, fn := 3, rsv := 0, imm := 0 })
  | .mcutEq md ms mk => some (joinV { opc := 0x45, vd := enc3 md, vs1 := 0, vs2 := enc3 ms, vs3 := 0, msk := enc3 mk, fd := 0, fa := 0, fb := 0, rmd := 0, xs := 0, fn := 4, rsv := 0, imm := 0 })
  | .vrank vd ms mk => some (joinV { opc := 0x45, vd := .ofFin vd, vs1 := 0, vs2 := enc3 ms, vs3 := 0, msk := enc3 mk, fd := 0, fa := 0, fb := 0, rmd := 0, xs := 0, fn := 5, rsv := 0, imm := 0 })
  | .vindex vd mk => some (joinV { opc := 0x45, vd := .ofFin vd, vs1 := 0, vs2 := 0, vs3 := 0, msk := enc3 mk, fd := 0, fa := 0, fb := 0, rmd := 0, xs := 0, fn := 6, rsv := 0, imm := 0 })
  | .vadd vd vs1 b fd fa fb mk => some (joinV { opc := 0x48, vd := .ofFin vd, vs1 := .ofFin vs1, vs2 := vsReg b, vs3 := 0, msk := enc3 mk, fd := .ofFin fd, fa := .ofFin fa, fb := .ofFin fb, rmd := 0, xs := vsXs b, fn := 0, rsv := 0, imm := 0 })
  | .vsub vd vs1 b fd fa fb mk => some (joinV { opc := 0x48, vd := .ofFin vd, vs1 := .ofFin vs1, vs2 := vsReg b, vs3 := 0, msk := enc3 mk, fd := .ofFin fd, fa := .ofFin fa, fb := .ofFin fb, rmd := 0, xs := vsXs b, fn := 1, rsv := 0, imm := 0 })
  | .vrsub vd vs1 b fd fa fb mk => some (joinV { opc := 0x48, vd := .ofFin vd, vs1 := .ofFin vs1, vs2 := vsReg b, vs3 := 0, msk := enc3 mk, fd := .ofFin fd, fa := .ofFin fa, fb := .ofFin fb, rmd := 0, xs := vsXs b, fn := 2, rsv := 0, imm := 0 })
  | .vmul vd vs1 b fd fa fb mk => some (joinV { opc := 0x48, vd := .ofFin vd, vs1 := .ofFin vs1, vs2 := vsReg b, vs3 := 0, msk := enc3 mk, fd := .ofFin fd, fa := .ofFin fa, fb := .ofFin fb, rmd := 0, xs := vsXs b, fn := 3, rsv := 0, imm := 0 })
  | .vmulh vd vs1 b fd fa fb mk => some (joinV { opc := 0x48, vd := .ofFin vd, vs1 := .ofFin vs1, vs2 := vsReg b, vs3 := 0, msk := enc3 mk, fd := .ofFin fd, fa := .ofFin fa, fb := .ofFin fb, rmd := 0, xs := vsXs b, fn := 4, rsv := 0, imm := 0 })
  | .vdiv vd vs1 b fd fa fb mk => some (joinV { opc := 0x48, vd := .ofFin vd, vs1 := .ofFin vs1, vs2 := vsReg b, vs3 := 0, msk := enc3 mk, fd := .ofFin fd, fa := .ofFin fa, fb := .ofFin fb, rmd := 0, xs := vsXs b, fn := 5, rsv := 0, imm := 0 })
  | .vrem vd vs1 b fd fa fb mk => some (joinV { opc := 0x48, vd := .ofFin vd, vs1 := .ofFin vs1, vs2 := vsReg b, vs3 := 0, msk := enc3 mk, fd := .ofFin fd, fa := .ofFin fa, fb := .ofFin fb, rmd := 0, xs := vsXs b, fn := 6, rsv := 0, imm := 0 })
  | .vmacc vd vs1 b fd fa fb mk => some (joinV { opc := 0x48, vd := .ofFin vd, vs1 := .ofFin vs1, vs2 := vsReg b, vs3 := 0, msk := enc3 mk, fd := .ofFin fd, fa := .ofFin fa, fb := .ofFin fb, rmd := 0, xs := vsXs b, fn := 7, rsv := 0, imm := 0 })
  | .vabsd vd vs1 b fd fa fb mk => some (joinV { opc := 0x48, vd := .ofFin vd, vs1 := .ofFin vs1, vs2 := vsReg b, vs3 := 0, msk := enc3 mk, fd := .ofFin fd, fa := .ofFin fa, fb := .ofFin fb, rmd := 0, xs := vsXs b, fn := 8, rsv := 0, imm := 0 })
  | .vavg vd vs1 b fd fa fb mk rm => some (joinV { opc := 0x48, vd := .ofFin vd, vs1 := .ofFin vs1, vs2 := vsReg b, vs3 := 0, msk := enc3 mk, fd := .ofFin fd, fa := .ofFin fa, fb := .ofFin fb, rmd := encRm rm, xs := vsXs b, fn := 9, rsv := 0, imm := 0 })
  | .vand vd vs1 b fd fa fb mk => some (joinV { opc := 0x48, vd := .ofFin vd, vs1 := .ofFin vs1, vs2 := vsReg b, vs3 := 0, msk := enc3 mk, fd := .ofFin fd, fa := .ofFin fa, fb := .ofFin fb, rmd := 0, xs := vsXs b, fn := 10, rsv := 0, imm := 0 })
  | .vor vd vs1 b fd fa fb mk => some (joinV { opc := 0x48, vd := .ofFin vd, vs1 := .ofFin vs1, vs2 := vsReg b, vs3 := 0, msk := enc3 mk, fd := .ofFin fd, fa := .ofFin fa, fb := .ofFin fb, rmd := 0, xs := vsXs b, fn := 11, rsv := 0, imm := 0 })
  | .vxor vd vs1 b fd fa fb mk => some (joinV { opc := 0x48, vd := .ofFin vd, vs1 := .ofFin vs1, vs2 := vsReg b, vs3 := 0, msk := enc3 mk, fd := .ofFin fd, fa := .ofFin fa, fb := .ofFin fb, rmd := 0, xs := vsXs b, fn := 12, rsv := 0, imm := 0 })
  | .vsll vd vs1 b fd fa fb mk => some (joinV { opc := 0x48, vd := .ofFin vd, vs1 := .ofFin vs1, vs2 := vsReg b, vs3 := 0, msk := enc3 mk, fd := .ofFin fd, fa := .ofFin fa, fb := .ofFin fb, rmd := 0, xs := vsXs b, fn := 13, rsv := 0, imm := 0 })
  | .vsrl vd vs1 b fd fa fb mk => some (joinV { opc := 0x48, vd := .ofFin vd, vs1 := .ofFin vs1, vs2 := vsReg b, vs3 := 0, msk := enc3 mk, fd := .ofFin fd, fa := .ofFin fa, fb := .ofFin fb, rmd := 0, xs := vsXs b, fn := 14, rsv := 0, imm := 0 })
  | .vsra vd vs1 b fd fa fb mk => some (joinV { opc := 0x48, vd := .ofFin vd, vs1 := .ofFin vs1, vs2 := vsReg b, vs3 := 0, msk := enc3 mk, fd := .ofFin fd, fa := .ofFin fa, fb := .ofFin fb, rmd := 0, xs := vsXs b, fn := 15, rsv := 0, imm := 0 })
  | .vfadd vd vs1 b fd fa fb mk rm => some (joinV { opc := 0x49, vd := .ofFin vd, vs1 := .ofFin vs1, vs2 := vsReg b, vs3 := 0, msk := enc3 mk, fd := .ofFin fd, fa := .ofFin fa, fb := .ofFin fb, rmd := encRm rm, xs := vsXs b, fn := 0, rsv := 0, imm := 0 })
  | .vfsub vd vs1 b fd fa fb mk rm => some (joinV { opc := 0x49, vd := .ofFin vd, vs1 := .ofFin vs1, vs2 := vsReg b, vs3 := 0, msk := enc3 mk, fd := .ofFin fd, fa := .ofFin fa, fb := .ofFin fb, rmd := encRm rm, xs := vsXs b, fn := 1, rsv := 0, imm := 0 })
  | .vfrsub vd vs1 b fd fa fb mk rm => some (joinV { opc := 0x49, vd := .ofFin vd, vs1 := .ofFin vs1, vs2 := vsReg b, vs3 := 0, msk := enc3 mk, fd := .ofFin fd, fa := .ofFin fa, fb := .ofFin fb, rmd := encRm rm, xs := vsXs b, fn := 2, rsv := 0, imm := 0 })
  | .vfmul vd vs1 b fd fa fb mk rm => some (joinV { opc := 0x49, vd := .ofFin vd, vs1 := .ofFin vs1, vs2 := vsReg b, vs3 := 0, msk := enc3 mk, fd := .ofFin fd, fa := .ofFin fa, fb := .ofFin fb, rmd := encRm rm, xs := vsXs b, fn := 3, rsv := 0, imm := 0 })
  | .vfdiv vd vs1 b fd fa fb mk rm => some (joinV { opc := 0x49, vd := .ofFin vd, vs1 := .ofFin vs1, vs2 := vsReg b, vs3 := 0, msk := enc3 mk, fd := .ofFin fd, fa := .ofFin fa, fb := .ofFin fb, rmd := encRm rm, xs := vsXs b, fn := 4, rsv := 0, imm := 0 })
  | .vfrdiv vd vs1 b fd fa fb mk rm => some (joinV { opc := 0x49, vd := .ofFin vd, vs1 := .ofFin vs1, vs2 := vsReg b, vs3 := 0, msk := enc3 mk, fd := .ofFin fd, fa := .ofFin fa, fb := .ofFin fb, rmd := encRm rm, xs := vsXs b, fn := 5, rsv := 0, imm := 0 })
  | .vfmacc vd vs1 b fd fa fb mk rm => some (joinV { opc := 0x49, vd := .ofFin vd, vs1 := .ofFin vs1, vs2 := vsReg b, vs3 := 0, msk := enc3 mk, fd := .ofFin fd, fa := .ofFin fa, fb := .ofFin fb, rmd := encRm rm, xs := vsXs b, fn := 8, rsv := 0, imm := 0 })
  | .vfnmacc vd vs1 b fd fa fb mk rm => some (joinV { opc := 0x49, vd := .ofFin vd, vs1 := .ofFin vs1, vs2 := vsReg b, vs3 := 0, msk := enc3 mk, fd := .ofFin fd, fa := .ofFin fa, fb := .ofFin fb, rmd := encRm rm, xs := vsXs b, fn := 9, rsv := 0, imm := 0 })
  | .vfmsac vd vs1 b fd fa fb mk rm => some (joinV { opc := 0x49, vd := .ofFin vd, vs1 := .ofFin vs1, vs2 := vsReg b, vs3 := 0, msk := enc3 mk, fd := .ofFin fd, fa := .ofFin fa, fb := .ofFin fb, rmd := encRm rm, xs := vsXs b, fn := 10, rsv := 0, imm := 0 })
  | .vfnmsac vd vs1 b fd fa fb mk rm => some (joinV { opc := 0x49, vd := .ofFin vd, vs1 := .ofFin vs1, vs2 := vsReg b, vs3 := 0, msk := enc3 mk, fd := .ofFin fd, fa := .ofFin fa, fb := .ofFin fb, rmd := encRm rm, xs := vsXs b, fn := 11, rsv := 0, imm := 0 })
  | .vfma vd vs1 b vs3 fd fa fb mk rm => some (joinV { opc := 0x49, vd := .ofFin vd, vs1 := .ofFin vs1, vs2 := vsReg b, vs3 := .ofFin vs3, msk := enc3 mk, fd := .ofFin fd, fa := .ofFin fa, fb := .ofFin fb, rmd := encRm rm, xs := vsXs b, fn := 12, rsv := 0, imm := 0 })
  | .vfsgnj vd vs1 b fd fa fb mk rm => some (joinV { opc := 0x49, vd := .ofFin vd, vs1 := .ofFin vs1, vs2 := vsReg b, vs3 := 0, msk := enc3 mk, fd := .ofFin fd, fa := .ofFin fa, fb := .ofFin fb, rmd := encRm rm, xs := vsXs b, fn := 16, rsv := 0, imm := 0 })
  | .vfsgnjn vd vs1 b fd fa fb mk rm => some (joinV { opc := 0x49, vd := .ofFin vd, vs1 := .ofFin vs1, vs2 := vsReg b, vs3 := 0, msk := enc3 mk, fd := .ofFin fd, fa := .ofFin fa, fb := .ofFin fb, rmd := encRm rm, xs := vsXs b, fn := 17, rsv := 0, imm := 0 })
  | .vfsgnjx vd vs1 b fd fa fb mk rm => some (joinV { opc := 0x49, vd := .ofFin vd, vs1 := .ofFin vs1, vs2 := vsReg b, vs3 := 0, msk := enc3 mk, fd := .ofFin fd, fa := .ofFin fa, fb := .ofFin fb, rmd := encRm rm, xs := vsXs b, fn := 18, rsv := 0, imm := 0 })
  | .vfclass vd vs1 fd fa mk => some (joinV { opc := 0x49, vd := .ofFin vd, vs1 := .ofFin vs1, vs2 := 0, vs3 := 0, msk := enc3 mk, fd := .ofFin fd, fa := .ofFin fa, fb := 0, rmd := 0, xs := 0, fn := 20, rsv := 0, imm := 0 })
  | .vmin vd vs1 b fd fa fb mk rm => some (joinV { opc := 0x4A, vd := .ofFin vd, vs1 := .ofFin vs1, vs2 := vsReg b, vs3 := 0, msk := enc3 mk, fd := .ofFin fd, fa := .ofFin fa, fb := .ofFin fb, rmd := encRm rm, xs := vsXs b, fn := 0, rsv := 0, imm := 0 })
  | .vmax vd vs1 b fd fa fb mk rm => some (joinV { opc := 0x4A, vd := .ofFin vd, vs1 := .ofFin vs1, vs2 := vsReg b, vs3 := 0, msk := enc3 mk, fd := .ofFin fd, fa := .ofFin fa, fb := .ofFin fb, rmd := encRm rm, xs := vsXs b, fn := 1, rsv := 0, imm := 0 })
  | .vmeq md vs1 b fa fb mk => some (joinV { opc := 0x4A, vd := enc3 md, vs1 := .ofFin vs1, vs2 := vsReg b, vs3 := 0, msk := enc3 mk, fd := 0, fa := .ofFin fa, fb := .ofFin fb, rmd := 0, xs := vsXs b, fn := 8, rsv := 0, imm := 0 })
  | .vmne md vs1 b fa fb mk => some (joinV { opc := 0x4A, vd := enc3 md, vs1 := .ofFin vs1, vs2 := vsReg b, vs3 := 0, msk := enc3 mk, fd := 0, fa := .ofFin fa, fb := .ofFin fb, rmd := 0, xs := vsXs b, fn := 9, rsv := 0, imm := 0 })
  | .vmlt md vs1 b fa fb mk => some (joinV { opc := 0x4A, vd := enc3 md, vs1 := .ofFin vs1, vs2 := vsReg b, vs3 := 0, msk := enc3 mk, fd := 0, fa := .ofFin fa, fb := .ofFin fb, rmd := 0, xs := vsXs b, fn := 10, rsv := 0, imm := 0 })
  | .vmle md vs1 b fa fb mk => some (joinV { opc := 0x4A, vd := enc3 md, vs1 := .ofFin vs1, vs2 := vsReg b, vs3 := 0, msk := enc3 mk, fd := 0, fa := .ofFin fa, fb := .ofFin fb, rmd := 0, xs := vsXs b, fn := 11, rsv := 0, imm := 0 })
  | .vmgt md vs1 b fa fb mk => some (joinV { opc := 0x4A, vd := enc3 md, vs1 := .ofFin vs1, vs2 := vsReg b, vs3 := 0, msk := enc3 mk, fd := 0, fa := .ofFin fa, fb := .ofFin fb, rmd := 0, xs := vsXs b, fn := 12, rsv := 0, imm := 0 })
  | .vmge md vs1 b fa fb mk => some (joinV { opc := 0x4A, vd := enc3 md, vs1 := .ofFin vs1, vs2 := vsReg b, vs3 := 0, msk := enc3 mk, fd := 0, fa := .ofFin fa, fb := .ofFin fb, rmd := 0, xs := vsXs b, fn := 13, rsv := 0, imm := 0 })
  | .vmerge vd vs1 b fd fa fb mk rm => some (joinV { opc := 0x4A, vd := .ofFin vd, vs1 := .ofFin vs1, vs2 := vsReg b, vs3 := 0, msk := enc3 mk, fd := .ofFin fd, fa := .ofFin fa, fb := .ofFin fb, rmd := encRm rm, xs := vsXs b, fn := 14, rsv := 0, imm := 0 })
  | .vsplat vd xs fd fb mk rm => some (joinV { opc := 0x4A, vd := .ofFin vd, vs1 := 0, vs2 := .ofFin xs, vs3 := 0, msk := enc3 mk, fd := .ofFin fd, fa := 0, fb := .ofFin fb, rmd := encRm rm, xs := 1, fn := 15, rsv := 0, imm := 0 })
  | .vbfly vd vs1 vs2 fd fa fb mk rm sh => some (joinV { opc := 0x4E, vd := .ofFin vd, vs1 := .ofFin vs1, vs2 := .ofFin vs2, vs3 := 0, msk := enc3 mk, fd := .ofFin fd, fa := .ofFin fa, fb := .ofFin fb, rmd := encRm rm, xs := 0, fn := 0, rsv := 0, imm := BitVec.ofNat 32 sh.val })
  | .vcvt vd vs1 fd fa mk rm => some (joinV { opc := 0x4F, vd := .ofFin vd, vs1 := .ofFin vs1, vs2 := 0, vs3 := 0, msk := enc3 mk, fd := .ofFin fd, fa := .ofFin fa, fb := 0, rmd := encRm rm, xs := 0, fn := 0, rsv := 0, imm := 0 })
  | .vcvtbs vd vs1 vs3 fd fa mk rm ty => some (joinV { opc := 0x4F, vd := .ofFin vd, vs1 := .ofFin vs1, vs2 := 0, vs3 := .ofFin vs3, msk := enc3 mk, fd := .ofFin fd, fa := .ofFin fa, fb := 0, rmd := encRm rm, xs := 0, fn := 1, rsv := 0, imm := BitVec.ofNat 32 ty.val })
  | .vcvtbd vd vs1 vs3 fd fa mk rm => some (joinV { opc := 0x4F, vd := .ofFin vd, vs1 := .ofFin vs1, vs2 := 0, vs3 := .ofFin vs3, msk := enc3 mk, fd := .ofFin fd, fa := .ofFin fa, fb := 0, rmd := encRm rm, xs := 0, fn := 2, rsv := 0, imm := 0 })
  | .vexp vd vs1 sub fd fa mk => some (joinV { opc := 0x50, vd := .ofFin vd, vs1 := .ofFin vs1, vs2 := subXs sub, vs3 := 0, msk := enc3 mk, fd := .ofFin fd, fa := .ofFin fa, fb := subFb sub, rmd := 0, xs := subIm sub, fn := 0, rsv := 0, imm := 0 })
  | .vexp2 vd vs1 sub fd fa mk => some (joinV { opc := 0x50, vd := .ofFin vd, vs1 := .ofFin vs1, vs2 := subXs sub, vs3 := 0, msk := enc3 mk, fd := .ofFin fd, fa := .ofFin fa, fb := subFb sub, rmd := 0, xs := subIm sub, fn := 1, rsv := 0, imm := 0 })
  | .vlog2 vd vs1 sub fd fa mk => some (joinV { opc := 0x50, vd := .ofFin vd, vs1 := .ofFin vs1, vs2 := subXs sub, vs3 := 0, msk := enc3 mk, fd := .ofFin fd, fa := .ofFin fa, fb := subFb sub, rmd := 0, xs := subIm sub, fn := 2, rsv := 0, imm := 0 })
  | .vrcp vd vs1 sub fd fa mk => some (joinV { opc := 0x50, vd := .ofFin vd, vs1 := .ofFin vs1, vs2 := subXs sub, vs3 := 0, msk := enc3 mk, fd := .ofFin fd, fa := .ofFin fa, fb := subFb sub, rmd := 0, xs := subIm sub, fn := 3, rsv := 0, imm := 0 })
  | .vrsqrt vd vs1 sub fd fa mk => some (joinV { opc := 0x50, vd := .ofFin vd, vs1 := .ofFin vs1, vs2 := subXs sub, vs3 := 0, msk := enc3 mk, fd := .ofFin fd, fa := .ofFin fa, fb := subFb sub, rmd := 0, xs := subIm sub, fn := 4, rsv := 0, imm := 0 })
  | .vsqrt vd vs1 sub fd fa mk => some (joinV { opc := 0x50, vd := .ofFin vd, vs1 := .ofFin vs1, vs2 := subXs sub, vs3 := 0, msk := enc3 mk, fd := .ofFin fd, fa := .ofFin fa, fb := subFb sub, rmd := 0, xs := subIm sub, fn := 5, rsv := 0, imm := 0 })
  | .vsin vd vs1 sub fd fa mk => some (joinV { opc := 0x50, vd := .ofFin vd, vs1 := .ofFin vs1, vs2 := subXs sub, vs3 := 0, msk := enc3 mk, fd := .ofFin fd, fa := .ofFin fa, fb := subFb sub, rmd := 0, xs := subIm sub, fn := 6, rsv := 0, imm := 0 })
  | .vcos vd vs1 sub fd fa mk => some (joinV { opc := 0x50, vd := .ofFin vd, vs1 := .ofFin vs1, vs2 := subXs sub, vs3 := 0, msk := enc3 mk, fd := .ofFin fd, fa := .ofFin fa, fb := subFb sub, rmd := 0, xs := subIm sub, fn := 7, rsv := 0, imm := 0 })
  | .vtanh vd vs1 sub fd fa mk => some (joinV { opc := 0x50, vd := .ofFin vd, vs1 := .ofFin vs1, vs2 := subXs sub, vs3 := 0, msk := enc3 mk, fd := .ofFin fd, fa := .ofFin fa, fb := subFb sub, rmd := 0, xs := subIm sub, fn := 8, rsv := 0, imm := 0 })
  | .vsigmoid vd vs1 sub fd fa mk => some (joinV { opc := 0x50, vd := .ofFin vd, vs1 := .ofFin vs1, vs2 := subXs sub, vs3 := 0, msk := enc3 mk, fd := .ofFin fd, fa := .ofFin fa, fb := subFb sub, rmd := 0, xs := subIm sub, fn := 9, rsv := 0, imm := 0 })
  | .verf vd vs1 sub fd fa mk => some (joinV { opc := 0x50, vd := .ofFin vd, vs1 := .ofFin vs1, vs2 := subXs sub, vs3 := 0, msk := enc3 mk, fd := .ofFin fd, fa := .ofFin fa, fb := subFb sub, rmd := 0, xs := subIm sub, fn := 10, rsv := 0, imm := 0 })
  | .vlift vd vs1 off fd mk => some (joinV { opc := 0x4B, vd := .ofFin vd, vs1 := .ofFin vs1, vs2 := offReg off, vs3 := 0, msk := enc3 mk, fd := .ofFin fd, fa := 0, fb := 0, rmd := 0, xs := offXs off, fn := 0, rsv := 0, imm := offImm off })
  | .vdrop vd vs1 off fd mk => some (joinV { opc := 0x4B, vd := .ofFin vd, vs1 := .ofFin vs1, vs2 := offReg off, vs3 := 0, msk := enc3 mk, fd := .ofFin fd, fa := 0, fb := 0, rmd := 0, xs := offXs off, fn := 1, rsv := 0, imm := offImm off })
  | .vliftx vd vs1 xs fd mk => some (joinV { opc := 0x4B, vd := .ofFin vd, vs1 := .ofFin vs1, vs2 := .ofFin xs, vs3 := 0, msk := enc3 mk, fd := .ofFin fd, fa := 0, fb := 0, rmd := 0, xs := 1, fn := 2, rsv := 0, imm := 0 })
  | .vdropx vd vs1 xs fd mk => some (joinV { opc := 0x4B, vd := .ofFin vd, vs1 := .ofFin vs1, vs2 := .ofFin xs, vs3 := 0, msk := enc3 mk, fd := .ofFin fd, fa := 0, fb := 0, rmd := 0, xs := 1, fn := 3, rsv := 0, imm := 0 })
  | .vpick vd vs1 vs2 fd fb mk => some (joinV { opc := 0x4B, vd := .ofFin vd, vs1 := .ofFin vs1, vs2 := .ofFin vs2, vs3 := 0, msk := enc3 mk, fd := .ofFin fd, fa := 0, fb := .ofFin fb, rmd := 0, xs := 0, fn := 4, rsv := 0, imm := 0 })
  | .vpack vd vs1 fd mk => some (joinV { opc := 0x4B, vd := .ofFin vd, vs1 := .ofFin vs1, vs2 := 0, vs3 := 0, msk := enc3 mk, fd := .ofFin fd, fa := 0, fb := 0, rmd := 0, xs := 0, fn := 5, rsv := 0, imm := 0 })
  | .vget xd vs1 fd => some (joinV { opc := 0x4B, vd := .ofFin xd, vs1 := .ofFin vs1, vs2 := 0, vs3 := 0, msk := 0, fd := .ofFin fd, fa := 0, fb := 0, rmd := 0, xs := 0, fn := 6, rsv := 0, imm := 0 })
  | .vplace vd xs fd => some (joinV { opc := 0x4B, vd := .ofFin vd, vs1 := 0, vs2 := .ofFin xs, vs3 := 0, msk := 0, fd := .ofFin fd, fa := 0, fb := 0, rmd := 0, xs := 1, fn := 7, rsv := 0, imm := 0 })
  | .vfredosum vd vs1 vs2 fd fa mk rm => some (joinV { opc := 0x4C, vd := .ofFin vd, vs1 := .ofFin vs1, vs2 := .ofFin vs2, vs3 := 0, msk := enc3 mk, fd := .ofFin fd, fa := .ofFin fa, fb := 0, rmd := encRm rm, xs := 0, fn := 0, rsv := 0, imm := 0 })
  | .vfredusum vd vs1 vs2 fd fa mk rm => some (joinV { opc := 0x4C, vd := .ofFin vd, vs1 := .ofFin vs1, vs2 := .ofFin vs2, vs3 := 0, msk := enc3 mk, fd := .ofFin fd, fa := .ofFin fa, fb := 0, rmd := encRm rm, xs := 0, fn := 1, rsv := 0, imm := 0 })
  | .vfredmax vd vs1 vs2 fd fa mk rm => some (joinV { opc := 0x4C, vd := .ofFin vd, vs1 := .ofFin vs1, vs2 := .ofFin vs2, vs3 := 0, msk := enc3 mk, fd := .ofFin fd, fa := .ofFin fa, fb := 0, rmd := encRm rm, xs := 0, fn := 2, rsv := 0, imm := 0 })
  | .vfredmin vd vs1 vs2 fd fa mk rm => some (joinV { opc := 0x4C, vd := .ofFin vd, vs1 := .ofFin vs1, vs2 := .ofFin vs2, vs3 := 0, msk := enc3 mk, fd := .ofFin fd, fa := .ofFin fa, fb := 0, rmd := encRm rm, xs := 0, fn := 3, rsv := 0, imm := 0 })
  | .vredsum vd vs1 vs2 fd fa mk rm => some (joinV { opc := 0x4C, vd := .ofFin vd, vs1 := .ofFin vs1, vs2 := .ofFin vs2, vs3 := 0, msk := enc3 mk, fd := .ofFin fd, fa := .ofFin fa, fb := 0, rmd := encRm rm, xs := 0, fn := 4, rsv := 0, imm := 0 })
  | .vappend xd vs1 xb fd mk => some (joinV { opc := 0x4D, vd := .ofFin xd, vs1 := .ofFin vs1, vs2 := .ofFin xb, vs3 := 0, msk := enc3 mk, fd := .ofFin fd, fa := 0, fb := 0, rmd := 0, xs := 0, fn := 0, rsv := 0, imm := 0 })
  | .amodeWs fa => some (joinA { opc := 0x80, vd := 0, vs1 := 0, vs2 := 0, wt := 0, msk := 0, fa := .ofFin fa, fb := 0, fc := 0, fn := 0, rsv := 0, imm := 0 })
  | .amodeRs fa => some (joinA { opc := 0x80, vd := 0, vs1 := 0, vs2 := 0, wt := 0, msk := 0, fa := .ofFin fa, fb := 0, fc := 0, fn := 1, rsv := 0, imm := 0 })
  | .vmode => some (joinA { opc := 0x80, vd := 0, vs1 := 0, vs2 := 0, wt := 0, msk := 0, fa := 0, fb := 0, fc := 0, fn := 2, rsv := 0, imm := 0 })
  | .wld wt vs1 fa => some (joinA { opc := 0x81, vd := 0, vs1 := .ofFin vs1, vs2 := 0, wt := enc2 wt, msk := 0, fa := .ofFin fa, fb := 0, fc := 0, fn := 0, rsv := 0, imm := 0 })
  | .wst vd wt => some (joinA { opc := 0x81, vd := .ofFin vd, vs1 := 0, vs2 := 0, wt := enc2 wt, msk := 0, fa := 0, fb := 0, fc := 0, fn := 1, rsv := 0, imm := 0 })
  | .mrow vd vs1 wt sc fa fc mk => some (joinA { opc := 0x82, vd := .ofFin vd, vs1 := .ofFin vs1, vs2 := scVs2 sc, wt := enc2 wt, msk := enc3 mk, fa := .ofFin fa, fb := 0, fc := .ofFin fc, fn := 0, rsv := 0, imm := scImm sc })
  | .mrowAcc vd vs1 wt sc fa fc mk => some (joinA { opc := 0x82, vd := .ofFin vd, vs1 := .ofFin vs1, vs2 := scVs2 sc, wt := enc2 wt, msk := enc3 mk, fa := .ofFin fa, fb := 0, fc := .ofFin fc, fn := 1, rsv := 0, imm := scImm sc })
  | .mslide vd vs1 wt fa fc mk => some (joinA { opc := 0x82, vd := .ofFin vd, vs1 := .ofFin vs1, vs2 := 0, wt := enc2 wt, msk := enc3 mk, fa := .ofFin fa, fb := 0, fc := .ofFin fc, fn := 2, rsv := 0, imm := 0 })
  | .mslideAcc vd vs1 wt fa fc mk => some (joinA { opc := 0x82, vd := .ofFin vd, vs1 := .ofFin vs1, vs2 := 0, wt := enc2 wt, msk := enc3 mk, fa := .ofFin fa, fb := 0, fc := .ofFin fc, fn := 3, rsv := 0, imm := 0 })
  | .macc wt vs1 vs2 fa fb mk => some (joinA { opc := 0x83, vd := 0, vs1 := .ofFin vs1, vs2 := .ofFin vs2, wt := enc2 wt, msk := enc3 mk, fa := .ofFin fa, fb := .ofFin fb, fc := 0, fn := 0, rsv := 0, imm := 0 })
  | .maccz wt vs1 vs2 fa fb mk => some (joinA { opc := 0x83, vd := 0, vs1 := .ofFin vs1, vs2 := .ofFin vs2, wt := enc2 wt, msk := enc3 mk, fa := .ofFin fa, fb := .ofFin fb, fc := 0, fn := 1, rsv := 0, imm := 0 })
  | .mdrain vd wt fc => some (joinA { opc := 0x84, vd := .ofFin vd, vs1 := 0, vs2 := 0, wt := enc2 wt, msk := 0, fa := 0, fb := 0, fc := .ofFin fc, fn := 0, rsv := 0, imm := 0 })
  | .achain len pos => some (joinA { opc := 0x85, vd := 0, vs1 := 0, vs2 := 0, wt := 0, msk := 0, fa := 0, fb := 0, fc := 0, fn := 0, rsv := 0, imm := immLenPos len pos })
  | .aunchain => some (joinA { opc := 0x85, vd := 0, vs1 := 0, vs2 := 0, wt := 0, msk := 0, fa := 0, fb := 0, fc := 0, fn := 1, rsv := 0, imm := 0 })
  | .phase scp => some (joinY { opc := 0xC0, xd := 0, xs1 := 0, xs2 := 0, scp := encScope scp, fn := 0, rsv := 0, imm := 0 })
  | .phaseRel scp => some (joinY { opc := 0xC0, xd := 0, xs1 := 0, xs2 := 0, scp := encScope scp, fn := 1, rsv := 0, imm := 0 })
  | .phaseAcq scp => some (joinY { opc := 0xC0, xd := 0, xs1 := 0, xs2 := 0, scp := encScope scp, fn := 2, rsv := 0, imm := 0 })
  | .phaseL n => some (joinY { opc := 0xC0, xd := 0, xs1 := 0, xs2 := 0, scp := 0, fn := 4, rsv := 0, imm := BitVec.ofNat 32 n.val })
  | .phaseRelL n => some (joinY { opc := 0xC0, xd := 0, xs1 := 0, xs2 := 0, scp := 0, fn := 5, rsv := 0, imm := BitVec.ofNat 32 n.val })
  | .phaseAcqL n => some (joinY { opc := 0xC0, xd := 0, xs1 := 0, xs2 := 0, scp := 0, fn := 6, rsv := 0, imm := BitVec.ofNat 32 n.val })
  | .hpload xs => some (joinM { opc := 0xA0, vr := 0, xb := .ofFin xs, xo := 0, msk := 0, fe := 0, fi := 0, nf := 0, mop := 0, fn := 0, rsv := 0, imm := 0 })
  | .hsig xd vs fe => some (joinM { opc := 0xA0, vr := .ofFin vs, xb := .ofFin xd, xo := 0, msk := 0, fe := .ofFin fe, fi := 0, nf := 0, mop := 0, fn := 1, rsv := 0, imm := 0 })
  | .kst xd vs xp fe => some (joinM { opc := 0xA1, vr := .ofFin vs, xb := .ofFin xp, xo := .ofFin xd, msk := 0, fe := .ofFin fe, fi := 0, nf := 0, mop := 0, fn := 0, rsv := 0, imm := 0 })
  | .bgath vd xq xn np => some (joinM { opc := 0xA2, vr := .ofFin vd, xb := .ofFin xq, xo := .ofFin xn, msk := 0, fe := 0, fi := 0, nf := 0, mop := 0, fn := 0, rsv := 0, imm := BitVec.ofNat 32 np.val })
  | .bgathDft vd xq xn np => some (joinM { opc := 0xA2, vr := .ofFin vd, xb := .ofFin xq, xo := .ofFin xn, msk := 0, fe := 0, fi := 0, nf := 0, mop := 0, fn := 0, rsv := 0, imm := BitVec.ofNat 32 (np.val + 8) })
  | .bxlatK vd vp => some (joinM { opc := 0xA2, vr := .ofFin vd, xb := 0, xo := .ofFin vp, msk := 0, fe := 0, fi := 0, nf := 0, mop := 0, fn := 1, rsv := 0, imm := 0 })
  | .bxlatV vd vp => some (joinM { opc := 0xA2, vr := .ofFin vd, xb := 0, xo := .ofFin vp, msk := 0, fe := 0, fi := 0, nf := 0, mop := 0, fn := 1, rsv := 0, imm := 1 })
  | .respin xd xs1 xs2 => some (joinM { opc := 0xA4, vr := .ofFin xd, xb := .ofFin xs1, xo := .ofFin xs2, msk := 0, fe := 0, fi := 0, nf := 0, mop := 0, fn := 0, rsv := 0, imm := 0 })
  | .resrel xd xs1 => some (joinM { opc := 0xA4, vr := .ofFin xd, xb := .ofFin xs1, xo := 0, msk := 0, fe := 0, fi := 0, nf := 0, mop := 0, fn := 1, rsv := 0, imm := 0 })
  | .pgref xd xs1 => some (joinM { opc := 0xA5, vr := .ofFin xd, xb := .ofFin xs1, xo := 0, msk := 0, fe := 0, fi := 0, nf := 0, mop := 0, fn := 0, rsv := 0, imm := 0 })
  | .pgunref xd xs1 xs2 => some (joinM { opc := 0xA5, vr := .ofFin xd, xb := .ofFin xs1, xo := .ofFin xs2, msk := 0, fe := 0, fi := 0, nf := 0, mop := 0, fn := 1, rsv := 0, imm := 0 })
  | .strm xs1 port => some (joinC { opc := 0xB0, xd := 0, xs1 := .ofFin xs1, xs2 := 0, vr := 0, port := .ofFin port, vp := 0, fn := 0, rsv := 0, imm := 0 })
  | .strmV xs1 vr vi => some (joinC { opc := 0xB0, xd := 0, xs1 := .ofFin xs1, xs2 := 0, vr := .ofFin vr, port := 0, vp := 1, fn := 0, rsv := 0, imm := viImm vi })
  | .strmw port => some (joinC { opc := 0xB1, xd := 0, xs1 := 0, xs2 := 0, vr := 0, port := portBits port, vp := portVp port, fn := 0, rsv := 0, imm := 0 })
  | .crwait xd xs1 xs2 => some (joinC { opc := 0xB1, xd := .ofFin xd, xs1 := .ofFin xs1, xs2 := .ofFin xs2, vr := 0, port := 0, vp := 0, fn := 1, rsv := 0, imm := 0 })
  | .crpop xd xs1 => some (joinC { opc := 0xB1, xd := .ofFin xd, xs1 := .ofFin xs1, xs2 := 0, vr := 0, port := 0, vp := 0, fn := 2, rsv := 0, imm := 0 })
  | .tmark n => some (joinC { opc := 0xB2, xd := 0, xs1 := 0, xs2 := 0, vr := 0, port := 0, vp := 0, fn := 0, rsv := 0, imm := n })
  | .tmarkNc n => some (joinC { opc := 0xB2, xd := 0, xs1 := 0, xs2 := 0, vr := 0, port := 0, vp := 0, fn := 1, rsv := 0, imm := n })
  | .tmwait xd xs1 => some (joinC { opc := 0xB3, xd := .ofFin xd, xs1 := .ofFin xs1, xs2 := 0, vr := 0, port := 0, vp := 0, fn := 0, rsv := 0, imm := 0 })
  | .tmwaive xs1 => some (joinC { opc := 0xB3, xd := 0, xs1 := .ofFin xs1, xs2 := 0, vr := 0, port := 0, vp := 0, fn := 1, rsv := 0, imm := 0 })
  | .tmcnt xd xs1 => some (joinC { opc := 0xB3, xd := .ofFin xd, xs1 := .ofFin xs1, xs2 := 0, vr := 0, port := 0, vp := 0, fn := 2, rsv := 0, imm := 0 })
  | .barArrive xd n => some (joinY { opc := 0xC1, xd := .ofFin xd, xs1 := 0, xs2 := 0, scp := 0, fn := 0, rsv := 0, imm := BitVec.ofNat 32 n.val })
  | .barWait xs1 n => some (joinY { opc := 0xC1, xd := 0, xs1 := .ofFin xs1, xs2 := 0, scp := 0, fn := 1, rsv := 0, imm := BitVec.ofNat 32 n.val })
  | .barSync n => some (joinY { opc := 0xC1, xd := 0, xs1 := 0, xs2 := 0, scp := 0, fn := 2, rsv := 0, imm := BitVec.ofNat 32 n.val })
  | .mcast xs1 xs2 => some (joinY { opc := 0xC2, xd := 0, xs1 := .ofFin xs1, xs2 := .ofFin xs2, scp := 0, fn := 0, rsv := 0, imm := 0 })
  | .mrecv xd => some (joinY { opc := 0xC2, xd := .ofFin xd, xs1 := 0, xs2 := 0, scp := 0, fn := 1, rsv := 0, imm := 0 })
  | .yield_ => some (joinY { opc := 0xC3, xd := 0, xs1 := 0, xs2 := 0, scp := 0, fn := 0, rsv := 0, imm := 0 })
  | .sleep xd xs1 => some (joinY { opc := 0xC3, xd := .ofFin xd, xs1 := .ofFin xs1, xs2 := 0, scp := 0, fn := 1, rsv := 0, imm := 0 })
  | .modeChangeDone => none
  | .modeEnterDone _ => none
  | .arrayDrainDone _ => none
  | .chainComplete _ => none
  | .releasePerform _ => none
  | .acquireHoldEnd _ => none
  | .respinFill _ _ _ => none
  | .streamStart _ _ _ _ => none
  | .recordAppend _ _ _ => none
  | .uiDelivery _ => none
  | .waitWake _ => none
  | .timetableRead _ _ => none
  | .millraceActionStart _ _ => none
  | .actionSettle _ _ _ => none
  | .barrierGenEnd _ _ _ => none
  | .mcastAppend _ => none
  | .packageReset => none
  | .launchTake _ _ => none
  | .dependenceFail _ => none
  | .placementRound _ => none
  | .yieldDeadline _ _ => none
  | .shadowSwitch _ => none
  | .spillRegDone _ _ => none
  | .imageWriteback _ => none
  | .restore _ _ _ _ => none
  | .hartEnd _ => none
  | .launchComplete _ => none
  | .lineRefetch _ => none
  | .fetchPathRefetch _ _ _ => none
  | .convoyStart _ => none
  | .pageWalk _ _ _ _ => none
  | .tileRelease _ _ => none
  | .eventRecordClose _ => none
  | .fatalReset => none
  | .quiesceDone _ => none
  | .quiesceOverrun _ => none
  | .signatureCompare _ => none
  | .divergenceTimeout _ => none
  | .structTestStart _ _ _ _ => none
  | .structTestDone _ _ _ => none
  | .structTestOverdue _ _ _ => none
  | .weirStep _ _ => none
  | .coreArrayIdle _ _ => none
  | .budgetRecompute => none
  | .drawOverBudget => none
  | .budgetHalvingEnd => none
  | .slewViolation _ _ => none
  | .slewLimitEnd _ _ => none
  | .undervoltage => none
  | .watchdogStage1 _ => none
  | .watchdogStage2 _ => none
  | .saveTimeout _ => none
  | .hbmPerBankRefresh _ _ _ _ => none
  | .hbmAllBankRefresh _ _ => none
  | .activationAlert _ _ _ => none
  | .patrolRead _ _ _ => none
  | .hbmChannelLost _ _ => none
  | .linkCrcFail _ _ => none
  | .laneBad _ _ _ => none
  | .laneRepair _ _ => none
  | .clockLower _ => none
  | .clockRaise _ => none
  | .clockPauseStart _ => none
  | .clockPauseEnd _ => none
  | .portLinkDown _ => none
  | .portLinkUp _ => none
  | .pktRead _ => none
  | .pktReadRsp _ => none
  | .pktWrite _ => none
  | .pktQappend _ => none
  | .pktAtomic _ => none
  | .pktAck _ => none
  | .pktCnp _ => none
  | .pktCmd _ => none
  | .pktNak _ => none
  | .packetDiscard _ => none
  | .ackTimer _ _ => none
  | .retxTimeout _ _ => none
  | .pathFail _ _ => none
  | .cnpRateRecover _ _ => none
  | .convoyComplete _ => none

/-- The instruction the decoder reads from bits numbered as the opcode table numbers them: bit 0 is the least
significant bit of the word, and bits from `nbits` up are zero. The table gives no row any bits, so the word is
the 96-bit word `w`. -/
noncomputable def decodeTableWord (nbits w : Nat) : Option Instr :=
  match decode (BitVec.ofNat 96 (if nbits = 0 then w else w % 2 ^ nbits)) with
  | .ok i => some i
  | .err _ => none

end Sys2Proof
end

