-- ==== Sys2Proof/Machine/Bits.lean ====
section
/-! DEFINITION. Bit, byte and list helpers that the operations use. -/

namespace Sys2Proof.Machine

/-- `sext(v, n)` of R13 as a 64-bit word: the low `n` bits, sign-extended. -/
def sext64 (n : Nat) (v : Nat) : Word := ((BitVec.ofNat n v).signExtend 64)

/-- The signed value of the low `n` bits (R13). -/
def sextInt (n : Nat) (v : Nat) : Int := (BitVec.ofNat n v).toInt

/-- Bits `h` down to `l` of a number, as a number (R13). -/
def bits (v h l : Nat) : Nat := (v >>> l) % 2 ^ (h + 1 - l)

/-- One bit as a number. -/
def b2n (b : Bool) : Nat := if b then 1 else 0

/-- The little-endian value of bytes (R6). -/
def leNat : List Byte → Nat
  | [] => 0
  | b :: r => b.toNat + 256 * leNat r

/-- The low `n` bytes of a number, little-endian (R6). -/
def natLe (n : Nat) (v : Nat) : List Byte :=
  match n with
  | 0 => []
  | k + 1 => BitVec.ofNat 8 v :: natLe k (v / 256)

/-- `n` bytes of `l` from offset `o`; bytes past the end are zero. -/
def slice (l : List Byte) (o n : Nat) : List Byte := (List.range n).map (fun i => l.getD (o + i) 0)

/-- The little-endian field of `n` bytes at offset `o`. -/
def fld (l : List Byte) (o n : Nat) : Nat := leNat (slice l o n)

/-- All bytes of a range are zero. -/
def zeroAt (l : List Byte) (o n : Nat) : Bool := (slice l o n).all (· == 0)

/-- Replaces the entries that satisfy `p` by `f`. -/
def updWhere {α : Type} (p : α → Bool) (f : α → α) (l : List α) : List α :=
  l.map (fun a => if p a then f a else a)

/-- Updates the entry that satisfies `p`, or adds `f dflt` at the end when there is none. -/
def upsert {α : Type} (p : α → Bool) (dflt : α) (f : α → α) (l : List α) : List α :=
  if l.any p then updWhere p f l else l ++ [f dflt]

/-- The lowest number from `lo` on, among `n`, that `used` does not take. -/
def lowestFree (used : Nat → Bool) : Nat → Nat → Option Nat
  | _, 0 => none
  | lo, n + 1 => if used lo then lowestFree used (lo + 1) n else some lo

/-- Rounds up to a multiple of `m`. -/
def roundUp (v m : Nat) : Nat := ((v + m - 1) / m) * m

/-- Rounds up the quotient. -/
def ceilDiv (v m : Nat) : Nat := (v + m - 1) / m

/-- XOR of the bits of a number below bit `n`. -/
def parity (n : Nat) (v : Nat) : Bool :=
  match n with
  | 0 => false
  | k + 1 => (v.testBit 0).xor (parity k (v / 2))

/-- The position of the lowest set bit among `n`, or `n`. -/
def lowestSet (n : Nat) (v : Nat) : Nat := (List.range n).findIdx (fun i => v.testBit i)

/-- Folds over 0 to n − 1 in ascending order. -/
def forN {α : Type} (n : Nat) (a : α) (f : Nat → α → α) : α := (List.range n).foldl (fun x i => f i x) a

/-- Folds over lo to hi − 1 in ascending order. -/
def forRange {α : Type} (lo hi : Nat) (a : α) (f : Nat → α → α) : α :=
  (List.range' lo (hi - lo)).foldl (fun x i => f i x) a

/-- Writes `n` bits at bit position `p` of a register. -/
def putBits {w : Nat} (r : BitVec w) (p n : Nat) (v : Nat) : BitVec w :=
  let mask : BitVec w := (BitVec.ofNat w (2 ^ n - 1)) <<< p
  (r &&& ~~~mask) ||| ((BitVec.ofNat w (v % 2 ^ n)) <<< p)

/-- Reads `n` bits at bit position `p` of a register. -/
def getBits {w : Nat} (r : BitVec w) (p n : Nat) : Nat := (r.toNat >>> p) % 2 ^ n

/-- Inserts before the first element that it does not follow. -/
def insertBy {α : Type} (le : α → α → Bool) (a : α) : List α → List α
  | [] => [a]
  | b :: r => if le a b then a :: b :: r else b :: insertBy le a r

/-- A stable sort by insertion. -/
def sortBy {α : Type} (le : α → α → Bool) (l : List α) : List α := l.foldr (insertBy le) []

/-- A sorted list without its repeats. -/
def dedupSorted : List Nat → List Nat
  | [] => []
  | a :: r => match dedupSorted r with
    | [] => [a]
    | b :: q => if a = b then b :: q else a :: b :: q

end Sys2Proof.Machine
end

