-- ==== Sys2Proof/Config.lean ====
section
/-! DEFINITION. The values an implementation fixes and the free values the specification leaves open. -/

namespace Sys2Proof.Config

/-- A free bit pattern of any width (R12): an undefined value. The first number is the counter `State.free`, which
every step advances; the second tells the uses within one step apart. DESIGN CHOICE (log 4). -/
opaque freeBits : (w : Nat) → Nat → Nat → BitVec w

/-- A free choice between two alternatives (R107, R216, R320), drawn like `freeBits`. DESIGN CHOICE (log 4). -/
opaque freeBool : Nat → Nat → Bool

/-- A free natural number, drawn like `freeBits`: which of several orders or elements (R105, R216, R220).
DESIGN CHOICE (log 4). -/
opaque freeNat : Nat → Nat → Nat

/-- The offset of a die's reading of TIME from the package's cycle count, before it is bounded to 8 ns (R76).
DESIGN CHOICE (log 10). -/
opaque skew : Nat → Nat

/-- The key a package reset makes is not the one before it (R142): the generation of the device key.
DESIGN CHOICE (log 72). -/
opaque deviceKey : Nat → BitVec 512

/-- The hash of a line address that picks the slice on the home die (R129); the spec gives no function.
DESIGN CHOICE (log 71). -/
opaque slice : Nat → Nat

/-- The hash of a line address that picks the set on the home die (R129); the spec gives no function.
DESIGN CHOICE (log 98). -/
opaque cacheSet : Nat → Nat

end Sys2Proof.Config
end

