-- ==== Sys2Proof/Machine/State.lean ====
section
/-! DEFINITION. The machine state as plain data, its reset value, and the reasons a step can stop. -/

namespace Sys2Proof.Machine

/-- Why a step stops with a fault. -/
inductive Fault where
  /-- Raised by `step` when the head of the agenda names a hart that the machine does not hold (safe: no
  agent of the part could take that turn). -/
  | noSuchHart (uid : Nat)
  deriving DecidableEq, Repr

/-- Why a step is refused. -/
inductive Refusal where
  /-- Raised by an arm of `exec` whose instruction has no meaning yet (safe). -/
  | notModelled (mnemonic : String)
  deriving DecidableEq, Repr

/-! ### Registers of a hart -/

/-- A vector, mask or tile register at its greatest length, 65,536 bits (R60); a hart of shorter VLEN uses the
low VLEN bits and keeps the rest zero. DESIGN CHOICE (log 70). -/
abbrev VBits := BitVec 65536

/-- The scalar file. -/
structure Scalars where
  /-- x0 to x63, copy A of x56 to x63 (R59); x0 is held as zero. -/
  x : Vector Word 64
  /-- Copy B of x56 to x63 (R59). -/
  xb : Vector Word 8
  /-- Poison marks of `x`, one per register (R387). -/
  px : BitVec 64
  /-- Poison marks of `xb` (R387). -/
  pxb : BitVec 8
  deriving DecidableEq, Repr

/-- The vector, mask and tile files (R60) with their poison marks (R387), the tile latches (R256) and the
residue flags of result-stationary accumulators (R456). Poison is kept per bit: the marks of an element are
the bits the element was written at. DEDUCED (log 16). -/
structure VFile where
  /-- v0 to v63. -/
  v : Vector VBits 64
  /-- m0 to m7. -/
  m : Vector VBits 8
  /-- w0 to w3. -/
  w : Vector VBits 4
  /-- TD0 to TD3, the descriptor latches of the tile registers. -/
  td : Vector (BitVec 32) 4
  /-- Poison of v0 to v63. -/
  pv : Vector VBits 64
  /-- Poison of m0 to m7. -/
  pm : Vector VBits 8
  /-- Poison of w0 to w3. -/
  pw : Vector VBits 4
  /-- Residue flags of the accumulators held in w0 to w3. -/
  fw : Vector VBits 4
  deriving DecidableEq, Repr

/-- The fields of MODE (R69). -/
structure ModeReg where
  st : BitVec 3
  dtgt : BitVec 3
  drow : BitVec 7
  chn : Bool
  deriving DecidableEq, Repr

/-- The fields of ASHAPE (R70). -/
structure AShape where
  rows : BitVec 8
  cols : BitVec 8
  pk : BitVec 2
  cpos : BitVec 4
  clen : BitVec 4
  deriving DecidableEq, Repr

/-- The fields of FXM (R71). -/
structure Fxm where
  sel : BitVec 3
  rm : BitVec 3
  acc : BitVec 6
  deriving DecidableEq, Repr

/-- The vector and array control registers. -/
structure VCtl where
  /-- VL (R65), 0 to 65,536. -/
  vl : BitVec 17
  /-- VTYPE (R66): bits 8:0 and VILL in bit 63. -/
  vtype : Word
  /-- VMT.SP (R67). -/
  vmt : BitVec 2
  /-- VES (R68). -/
  ves : BitVec 17
  mode : ModeReg
  ashape : AShape
  fxm : Fxm
  /-- SFTH.TH (R73). -/
  sfth : BitVec 32
  /-- RSEED (R74). -/
  rseed : BitVec 64
  /-- The format table f0 to f15 (R87, R109). -/
  ft : Vector (BitVec 32) 16
  deriving DecidableEq, Repr

/-- The registers of one hardware loop (R79), with the pending values of LB and LE. -/
structure LoopRegs where
  lc : Word
  lb : Word
  le : Word
  lbP : Option Word
  leP : Option Word
  deriving DecidableEq, Repr

/-- The user-level completion interrupt registers (R78, R80). -/
structure UiRegs where
  uivec : Word
  uipc : Word
  en : Bool
  act : Bool
  pend : Bool
  deriving DecidableEq, Repr

/-- The trap registers (R82). -/
structure TrapRegs where
  tvec : Word
  tpc : Word
  code : BitVec 16
  ppriv : Bool
  puia : Bool
  tval : Word
  tscr : Word
  deriving DecidableEq, Repr

/-- PHS (R75), with the cycle from which a held acquire may retire. -/
structure PhsReg where
  pcnt : BitVec 32
  lrs : BitVec 3
  las : BitVec 3
  pubp : Bool
  hold : Bool
  /-- The cycle from which the held acquire retires: the first that lies 8 ns past its snapshot (R275, R373). -/
  holdUntil : Nat
  /-- What the held acquire does at its retirement besides PCNT: 0 nothing, else it ends the wait of a `bar.sync` of this
  level (R354). -/
  holdKind : Nat
  deriving DecidableEq, Repr

/-! ### Consistency -/

/-- The key under which a granule of device memory was last written (R138, R139). -/
inductive KeyTag where
  | device
  | material (k : BitVec 512)
  deriving DecidableEq, Repr

/-- A place from which a release was performed (R271): device, die, core and the hart itself. -/
structure Place where
  dev : Nat
  die : Nat
  core : Nat
  uid : Nat
  deriving DecidableEq, Repr

/-- One publication of a write (R277, R278). -/
structure Pub where
  scope : Scope
  place : Place
  deriving DecidableEq, Repr

/-- One byte write that has been performed, in coherence order (R279). -/
structure WRec where
  wid : Nat
  /-- Where the byte lies (see `Loc`). -/
  loc : Nat
  byte : Byte
  pois : Bool
  key : KeyTag
  /-- An atomic or DEV write (R278, second condition). -/
  strong : Bool
  pubs : List Pub
  /-- A write of the Bolter to a reservation record or a pool descriptor, which no release publishes (R303). -/
  quiet : Bool := false
  deriving DecidableEq, Repr

/-- One byte write of a hart (R277): unpublished, or performed at the home. -/
structure OwnByte where
  wid : Nat
  loc : Nat
  /-- The address in its space's form that the hart wrote by (R459). -/
  va : Nat
  byte : Byte
  pois : Bool
  key : KeyTag
  /-- The access that wrote it: the number of its first byte (R181, R184). -/
  acc : Nat
  /-- Performed at its home (by a release, or by an atomic, R184). -/
  done : Bool
  /-- In the overlay (R280). -/
  ov : Bool
  deriving DecidableEq, Repr

/-- One byte of a snapshot (R278). A byte that is not listed has the value of the last zero fill. -/
structure SnapByte where
  loc : Nat
  wid : Nat
  byte : Byte
  pois : Bool
  key : KeyTag
  deriving DecidableEq, Repr

/-- A write to PEER or HOST space that waits for a release of SYSTEM scope to publish it (R288). Its WRITE packet leaves
at the element (R369). -/
structure RemoteWrite where
  /-- true for a HOST window, false for a PEER entry. -/
  host : Bool
  /-- Peer or window index. -/
  idx : Nat
  off : Nat
  bytes : List Byte
  /-- Its bytes come from a poisoned element (R386). -/
  pois : Bool
  /-- A release has signed it (R459). -/
  signed : Bool
  /-- The remote side has acknowledged it (R274, R369). -/
  acked : Bool
  /-- The number of its request within the instruction that makes it. -/
  req : Nat
  deriving DecidableEq, Repr

/-- What follows the performing of a release. -/
inductive RelThen where
  | nothing
  | arrive (level gen : Nat)
  | hartEnd
  deriving DecidableEq, Repr

/-- A release that has retired and is not yet performed (R274). -/
structure PendRel where
  scope : Scope
  /-- The published set: writes by number. -/
  set : List Nat
  /-- PEER and HOST writes published at SYSTEM scope (R288). -/
  remote : List RemoteWrite
  after : RelThen
  /-- The phase signature handed to the comparator (R460). -/
  sig : BitVec 64
  /-- The cycle at which the release retired. -/
  since : Nat
  /-- Under redundant execution: the signatures agreed (R460). -/
  agreed : Bool
  /-- The pin list when the release retired: these pins go when it is performed (R299). -/
  pins : List (Nat × Bool)
  deriving DecidableEq, Repr

/-! ### The Bolter slot -/

/-- The Bolter state of a hart (R299, R300). -/
structure Bolter where
  /-- BSTAT.V. -/
  v : Bool
  /-- Copy of the sequence-head descriptor. -/
  desc : BitVec 512
  /-- Projection columns 0 to 15. -/
  cols : Vector (BitVec 256) 16
  /-- Pin list: descriptor address and write flag W. -/
  pins : List (Nat × Bool)
  deriving DecidableEq, Repr

/-! ### The hart -/

/-- Where a hart stands in its life (R30, R45, R49). -/
inductive Life where
  /-- No hart: the focus after package reset. -/
  | absent
  /-- Placed and running (or waiting at an instruction). -/
  | placed
  /-- Stopped after `yield` retired; waits for the rest of its instance (R49). -/
  | yielded
  /-- Stopped at a cycle; the switch of R52 has not ended. -/
  | stopped (forced : Bool) (at_ : Nat)
  /-- In the shadow bank: its registers leave by the background engine (R53). -/
  | leaving (forced : Bool) (at_ : Nat)
  /-- Checked and staged in the shadow bank of a scalar context that another hart still holds (R52, R85). -/
  | staged
  /-- Saved: holds no lanes. -/
  | saved
  /-- Its end has begun, and its release is not yet performed (R58). -/
  | ending
  /-- Ended (R58). -/
  | ended
  /-- Stopped by the kill of its context (R449) or by a double trap (R403). -/
  | killed
  deriving DecidableEq, Repr

/-- What a sleeping hart waits for (R330, R354, R356, R357, R265). -/
inductive WaitKind where
  | strmw (port : Nat)
  /-- The destination, the ring header's address, whether the deadline is poisoned, and the deadline (0 for none). -/
  | crwait (xd : XReg) (ea : Nat) (pd : Bool) (deadline : Nat)
  /-- The level, the generation, and whether a `bar.sync` waits. -/
  | barWait (level : Nat) (gen : BitVec 32) (sync : Bool)
  | arriveAgain (level : Nat) (gen : BitVec 32)
  | mrecv (xd : XReg)
  | mcast (targets : List Nat) (value : Word)
  | tmwait (xd : XReg) (entry : Nat) (pd : Bool)
  /-- The destination, the deadline, and the cycle in which the wait began. -/
  | sleep (xd : XReg) (deadline since : Nat)
  | chain (join : Bool) (len pos : Nat)
  | portRoom (port : Nat)
  | remote (req : Nat)
  | twin
  deriving DecidableEq, Repr

/-- The identity and placement of a hart. -/
structure HartId where
  /-- The model's name for the hart. -/
  uid : Nat
  /-- Context; 0 for system software that belongs to no context. -/
  ctx : Nat
  /-- Launch (0 for none). -/
  launch : Nat
  /-- Flat index F (R44). -/
  flat : Nat
  /-- Gang instance within the launch (R38). -/
  ginst : Nat
  /-- Device of the hart (R23). -/
  dev : Nat
  /-- Die index d. -/
  die : Nat
  /-- Core index within the die. -/
  core : Nat
  /-- Hart number h on its core. -/
  hnum : Nat
  /-- Partition code: 0 P1 to 3 P8 (R30). -/
  part : BitVec 2
  /-- VLEN = 8,192 · 2^vk (R31). -/
  vk : BitVec 2
  /-- This hart is the invisible redundant partner (R57). -/
  partner : Bool
  deriving DecidableEq, Repr

/-- The dynamic status of a hart. -/
structure HartStat where
  life : Life
  /-- HSTAT.YREQ (R49, R77). -/
  yreq : Bool
  /-- HSTAT.RED. -/
  red : Bool
  /-- HSTAT.PRIV. -/
  priv : Bool
  /-- Set by an entry that R146 checks: the TVAL of the untargeted-branch trap (R414). -/
  entry : Option Word
  /-- The release of the present instruction has been made, and the rest of it waits (R275, R354, R356). -/
  half : Bool
  /-- No instruction of a trap handler has retired since trap entry (R403). -/
  fresh : Bool
  /-- The hart runs a trap handler entered from PRIV = 0 (R404). -/
  inHandler : Bool
  /-- A stop waits for the next boundary (R404, R413, R253): true when it is forced, false for the save of an instance
  that a `yield` offered (R51). -/
  stopDue : Option Bool
  /-- A completion delivery is due before the next instruction (R332). -/
  uiDue : Bool
  /-- Cycle of the latest completion signal (R357). -/
  uiAt : Nat
  /-- Asleep in a wait. -/
  asleep : Option WaitKind
  /-- TIME-like nanosecond count at which the hart last retired an instruction (R480). -/
  lastRetire : Nat
  /-- Instructions retired. -/
  retired : Nat
  /-- Watchdog stage reached, 0 to 2 (R480, R481), and when. -/
  wdStage : Nat
  wdSince : Nat
  /-- Cycle at which YREQ was set (R49). -/
  yreqAt : Nat
  /-- Offset of its image in the save area of its context (R84, R350). -/
  img : Option Nat
  /-- The image is to be written with FLAGS.HUNG (R482). -/
  hung : Bool
  /-- TIME at the cycle the hart stopped (R84). -/
  stopTime : Nat
  /-- Valid bits of v0–v63, m0–m7, w0–w3 during an inward transfer (R53). -/
  valid : BitVec 76
  /-- First cycle in which the hart may issue (R52). -/
  issueFrom : Nat
  /-- Cycles that the outward transfer of one register takes of the hart whose bank this one was exchanged with; 0 for none
  (R53, R54). -/
  outCyc : Nat
  /-- The line of code that control is in, and its copy that passed the line checks (R147). -/
  line : Option (Word × BitVec 512)
  /-- The line of the last member of the convoy at issue, and its copy (R147, R158). -/
  ahead : Option (Word × BitVec 512)
  deriving DecidableEq, Repr

/-- A convoy in flight (R156, R159). -/
structure ConvoyRun where
  /-- Code address of the slot after the last member. -/
  nextPc : Word
  /-- Code address of the last member (its end check, R190). -/
  lastPc : Word
  /-- Members that drew stochastically (R101). -/
  draws : Nat
  /-- Members of the convoy. -/
  count : Nat
  deriving DecidableEq, Repr

/-- The state of an array operation that takes time (R252, R262, R265). -/
structure ArrayRun where
  /-- Cycle at which ENTERING or the running drain began. -/
  since : Option Nat
  /-- The drain under way is an `mdrain` into this register and entry from this pair. -/
  drain : Option (VReg × TReg × FEnt)
  /-- A collective chain form has been issued: true for `achain`. -/
  chain : Option (Bool × Nat × Nat)
  /-- Members of the chain by hart, CPOS ascending (R264). -/
  peers : List Nat
  /-- Number of chained products this hart has completed, and whether its rows have been read (R267, R268). -/
  prodNo : Nat
  /-- The chained product in progress: VD, FC, NR and packing, integer accumulation. -/
  prod : Option (VReg × FEnt × Nat × Nat × Bool)
  /-- The PE work of the convoy at issue has begun: the cycle c0 of R262, and VES then (R257, R262). -/
  began : Option (Nat × Nat)
  /-- The cycles in which its stream rows from that VES on have entered (R262, R268). -/
  entered : List Nat
  deriving DecidableEq, Repr

/-- A soft error of the array that residue checks find (R454, R455): output row, element, and whether the
recompute fails as well. The list is the environment's; the array instructions consume it. DESIGN CHOICE (log 41). -/
structure SoftError where
  row : Nat
  col : Nat
  again : Bool
  deriving DecidableEq, Repr

/-- A hart (R52, R59 to R82). -/
structure Hart where
  id : HartId
  st : HartStat
  /-- The program counter, in ENTRY layout (R40). -/
  pc : Word
  sc : Scalars
  vf : VFile
  vc : VCtl
  loop0 : LoopRegs
  loop1 : LoopRegs
  ui : UiRegs
  trap : TrapRegs
  phs : PhsReg
  /-- The hart's writes (R277, R280), newest first. -/
  own : List OwnByte
  /-- The snapshot (R278), by location. -/
  snap : List SnapByte
  /-- Copies whose completion the hart has observed: their writes join its snapshots and releases (R286). -/
  obs : List Nat
  /-- PEER and HOST writes not yet published (R288). -/
  rwrites : List RemoteWrite
  /-- Releases retired and not performed, oldest first (R274). -/
  pend : List PendRel
  bolter : Bolter
  /-- The mailbox (R356), oldest first. -/
  mbox : List (Word)
  convoy : Option ConvoyRun
  arr : ArrayRun
  soft : List SoftError
  /-- Requests of the present instruction to PEER or HOST space: the number of the first, and the element the
  instruction started from (R217, R369). -/
  rreq : Option (Nat × Nat)
  /-- Set when the hart has performed an acquire since each strong access of the overlap records (R440): the
  number of acquires with their scope and place in the strong order. -/
  acqAt : List (Scope × Nat)
  /-- The releases the hart has performed: their scopes and places in the phase order (R283). -/
  relAt : List (Scope × Nat)
  /-- The convoy that the front end has gathered (R158): the code address and the instruction of each member. -/
  gathered : List (Word × Instr)
  deriving DecidableEq, Repr

/-! ### Contexts -/

/-- The state of a tile handle (R125, R127). -/
inductive TileSt where
  | allocated
  | freeing
  deriving DecidableEq, Repr

/-- A tile (R123 to R127); handles that are not listed are free. -/
structure Tile where
  h : Nat
  st : TileSt
  /-- The 64-bit tile descriptor. -/
  desc : Word
  /-- The format descriptor recorded at allocation. -/
  fmt : BitVec 32
  /-- Size Z in bytes (R124). -/
  size : Nat
  /-- The slices it spans: die and cores. -/
  die : Nat
  cores : List Nat
  /-- Banks taken in each slice. -/
  banks : Nat
  deriving DecidableEq, Repr

/-- A residency entry (R132). -/
structure ResEnt where
  e : Nat
  base : Nat
  lines : Nat
  full : Bool
  /-- The lines that it pins, by home location over 128 (R133). -/
  pins : List Nat
  deriving DecidableEq, Repr

/-- A token slot (R345); slots that are not listed hold generation 0 and status none. -/
structure TokenSlot where
  slot : Nat
  gen : Nat
  ok : Bool
  deriving DecidableEq, Repr

/-- A timetable hold on one line (R333): the launch and the die that placed it, its virtual address, and the line by home
location over 128. -/
structure Hold where
  launch : Nat
  die : Nat
  va : Nat
  line : Nat
  deriving DecidableEq, Repr

/-- A space held in a save area (R350): offset and length, and the launch instance it serves. -/
structure SaveSpan where
  off : Nat
  len : Nat
  launch : Nat
  ginst : Nat
  /-- The instance state that lies in it has been written, with free values of this number (R349). -/
  wrote : Option Nat
  deriving DecidableEq, Repr

/-- A context (R367). -/
structure Ctx where
  num : Nat
  dev : Nat
  ptroot : Nat
  save : Nat
  savesz : Nat
  peert : Nat
  hwint : Nat
  npeer : Nat
  nhwin : Nat
  kslot : Nat
  /-- VLCAP.K (R81). -/
  vlk : BitVec 2
  tiles : List Tile
  res : List ResEnt
  tokens : List TokenSlot
  holds : List Hold
  /-- Counters of `tmcnt` (R340): started, settled, misses, late, rejected. -/
  tmcnt : Vector Word 5
  spans : List SaveSpan
  /-- Instances, by launch and number, whose save the area could not hold: no victims until a restore or discard (R350). -/
  saveRefused : List (Nat × Nat)
  /-- The kill under way: the cycle it started (R448). -/
  kill : Option Nat
  deriving DecidableEq, Repr

/-! ### Launches -/

/-- A level entry (R42). -/
structure Level where
  dom : Nat
  scope : Nat
  gang : Bool
  count : Nat
  deriving DecidableEq, Repr

/-- The state of a gang instance (R38, R347). -/
inductive InstSt where
  | never
  | placed (order : Nat)
  | saved (order : Nat) (since : Nat) (refused : Bool)
  | ended
  deriving DecidableEq, Repr

/-- A gang instance of a launch: its first flat index and number of harts. -/
structure GInst where
  first : Nat
  n : Nat
  st : InstSt
  deriving DecidableEq, Repr

/-- A barrier of one level instance (R353), with the records of counted `bar.sync` forms (R354). -/
structure Barrier where
  level : Nat
  inst : Nat
  gen : BitVec 32
  /-- Flat indices that have arrived in the present generation; a partner counts 2^32 above its hart and is not
  counted into the generation. -/
  arrived : List Nat
  /-- Of those, the harts whose release has been performed. -/
  performed : List Nat
  /-- Counted `bar.sync` forms: flat index, as for `arrived`, and generation. -/
  syncs : List (Nat × BitVec 32)
  deriving DecidableEq, Repr

/-- A launch that has been taken (R39, R343). -/
structure Launch where
  lid : Nat
  ctx : Nat
  dev : Nat
  queue : Nat
  entry : Word
  prio : Nat
  red : Bool
  ydl : Nat
  arg : Word
  stkbase : Word
  stksz : Nat
  vlreq : Nat
  /-- The format table at entry (R43, R44). -/
  ft : Vector (BitVec 32) 16
  ttptr : Nat
  deps : List (BitVec 32)
  doneTok : BitVec 32
  levels : List Level
  /-- Lanes per hart and VLEN code, fixed when its first instance is placed (R33, R55). -/
  grant : Option (Nat × BitVec 2)
  /-- Gang instances (R38). -/
  insts : List GInst
  /-- Time (ns) at which the launch became ready (R46). -/
  readyAt : Option Nat
  /-- Flat indices of harts that have ended. -/
  ended : List Nat
  barriers : List Barrier
  deriving DecidableEq, Repr

/-- A queue (R341, R344): header address and pause. -/
structure Queue where
  q : Nat
  hdr : Nat
  ctx : Nat
  paused : Bool
  deriving DecidableEq, Repr

/-- A device (R23): its queues, the round-robin pointer and the reservations of R348. -/
structure Device where
  idx : Nat
  queues : List Queue
  rr : Nat
  /-- Candidates (launch, gang instance), each with the scalar contexts reserved for it: die, core, hart number, lanes. -/
  resv : List ((Nat × Nat) × List (Nat × Nat × Nat × Nat))
  /-- Cycle of the last placement round. -/
  lastRound : Nat
  deriving DecidableEq, Repr

/-! ### The Millrace -/

/-- A timetable entry as read (R334). -/
structure TTEnt where
  mark : Nat
  dline : Nat
  obj : Word
  dst : Word
  lines : Nat
  act : Nat
  tt : BitVec 8
  hidx : Nat
  deriving DecidableEq, Repr

/-- The state of one action (R334 to R337). -/
inductive ActSt where
  | due
  | rejected
  | started
  | settled
  | faulted
  | late
  deriving DecidableEq, Repr

/-- The marker state of one hart (R336, R337). -/
structure Marker where
  flat : Nat
  marker : Option Nat
  pass : Nat
  /-- Entries of the present pass whose window has closed; true when by a passing check. -/
  closed : List (Nat × Bool)
  deriving DecidableEq, Repr

/-- The work of one die's Millrace for one launch. -/
structure Mill where
  launch : Nat
  die : Nat
  /-- Passes read: pass number and entries (R335). -/
  passes : List (Nat × List TTEnt)
  /-- Actions: pass, entry, and state. -/
  acts : List (Nat × Nat × ActSt)
  markers : List Marker
  /-- A wish to read the timetable of this pass (set by `tmark`). -/
  wantRead : List Nat
  /-- Copies of FETCH entries: pass, entry, copy number. -/
  fetches : List (Nat × Nat × Nat)
  deriving DecidableEq, Repr

/-! ### Streams -/

/-- The state of a stream command (R315). -/
inductive CmdSt where
  | accepted
  /-- Started; the elements below `pos` are copied. -/
  | running (pos : Nat)
  /-- Finished at element `e` with fault code (0: complete) and address; its record waits for the append. -/
  | finished (e : Nat) (code : Nat) (faddr : Word)
  deriving DecidableEq, Repr

/-- A stream command accepted at a port (R317, R324). -/
structure Cmd where
  /-- The copy's number: its writes are listed under it. -/
  cid : Nat
  /-- The launch of the hart that issued it. -/
  launch : Nat
  /-- The 128-byte descriptor. -/
  desc : BitVec 1024
  st : CmdSt
  /-- The vector port's register operand and index group, and G and the index elements at issue (R322). -/
  vr : Nat
  vi : Option Nat
  g : Nat
  idx : List Nat
  /-- What the issuing hart held at the `strm`, for `view` (R285, R319). -/
  ov : List OwnByte
  snap : List SnapByte
  /-- Tile handles that the command held when it was accepted (R127). -/
  tiles : List Nat
  /-- The bytes of the present element that have been read, when its writes are still to be made. -/
  got : Option (List Byte)
  /-- Numbers of the requests to a remote home that the present element waits for. -/
  rids : List Nat
  /-- Byte writes made by the copy, in element order (location, byte, key). -/
  writes : List (Nat × Byte × KeyTag)
  /-- Locations the copy reads, and those it writes, target by target in the order of the reads (R285). -/
  src : List Nat
  dst : List Nat
  /-- FETCH of a timetable entry: launch, die, pass and entry. -/
  fetch : Option (Nat × Nat × Nat × Nat)
  /-- Bytes of the copy that a broken program wrote or read (R285): their values are undefined. -/
  broken : List Nat
  deriving DecidableEq, Repr

/-- A port (R315): context, flat index and number, and the die whose dispatcher holds it. Number 16 is the vector port;
a FETCH of the Millrace runs on a port of its own, whose number is 32 above that of its copy (R334). DEDUCED (log 42). -/
structure Port where
  ctx : Nat
  flat : Nat
  port : Nat
  die : Nat
  cmds : List Cmd
  deriving DecidableEq, Repr

/-- The writes of a copy whose record has been appended: which numbered writes it made (R286, R329). -/
structure CopyRec where
  cid : Nat
  ctx : Nat
  launch : Nat
  flat : Nat
  port : Nat
  wids : List Nat
  src : List Nat
  dst : List Nat
  /-- The ring slot that carries its record (home location), for the observation by `crpop` (R331). -/
  slot : Option Nat
  deriving DecidableEq, Repr

/-! ### Cores, Weirs and clusters -/

/-- A structural test under way (R463). -/
structure TestRun where
  kind : Nat
  bank : Nat
  since : Nat
  deriving DecidableEq, Repr

/-- A core; cores that are not listed are in their reset state. -/
structure Core where
  die : Nat
  core : Nat
  /-- Granted rows (R360), a multiple of 8. -/
  gr : Nat
  /-- Rows granted at a boundary that take effect at a cycle: (cycle, new GR). -/
  grNext : List (Nat × Nat)
  /-- Request cycle. -/
  req : Option Nat
  /-- Last PE cycle. -/
  lastPe : Nat
  /-- Cycle from which the core releases. -/
  rel : Option Nat
  /-- Cycle since which no hart is placed or staged. -/
  idleSince : Nat
  fenced : Bool
  test : Option TestRun
  /-- Kinds that the next idle time runs first, after a divergence or a save timeout (R462, R483). -/
  testFirst : List Nat
  /-- Nothing is placed before those tests have run (R483). -/
  blocked : Bool
  /-- Overdue kinds recorded, with the time of the record (R467). -/
  overdue : List (Nat × Nat)
  /-- Retired banks (R466). -/
  retired : BitVec 64
  /-- Banks of the slice that have passed a test, with the TIME of the last pass (R467). -/
  bankPass : List (Nat × Nat)
  deriving DecidableEq, Repr

/-- A cluster's Weir (R359, R360, R478). -/
structure Weir where
  die : Nat
  clus : Nat
  budget : Nat
  /-- Limited to 8 rows per step (R478), since a time. -/
  slow : Option Nat
  fenced : Bool
  deriving DecidableEq, Repr

/-! ### Translation and fetch -/

/-- A TLB entry: a leaf (R118). -/
structure TlbEnt where
  die : Nat
  core : Nat
  ctx : Nat
  /-- Virtual base and size of the page. -/
  va : Nat
  size : Nat
  pa : Nat
  w : Bool
  x : Bool
  dev : Bool
  ksel : Bool
  deriving DecidableEq, Repr

/-- A walk-cache entry of a die: a pointer to the table of level `lvl` that covers the addresses from `va` on (R118). -/
structure WalkEnt where
  die : Nat
  ctx : Nat
  lvl : Nat
  va : Nat
  tab : Nat
  deriving DecidableEq, Repr

/-- A line in an instruction cache (R147, R150). -/
structure ILine where
  die : Nat
  core : Nat
  ctx : Nat
  line : Nat
  bits : BitVec 512
  deriving DecidableEq, Repr

/-! ### Errors -/

/-- An event record before its append (R391); SEQ is given at the append. -/
structure EvRec where
  time : Nat
  src : BitVec 16
  cause : BitVec 16
  sev : BitVec 8
  asp : BitVec 8
  ctx : BitVec 16
  hart : BitVec 32
  count : Nat
  addr : Word
  data : List Byte
  /-- Device whose event area takes the record (R396). -/
  dev : Nat
  deriving DecidableEq, Repr

/-- An event source (R392, R393): next SEQ and the open CORRECTED record with its SEQ. -/
structure Source where
  src : BitVec 16
  seq : Nat
  open_ : Option (EvRec × Nat)
  fenced : Bool
  deriving DecidableEq, Repr

/-- A record of the overlap check (R440). -/
structure OvlRec where
  line : Nat
  lo : Nat
  len : Nat
  ctx : Nat
  flat : Nat
  party : Nat
  at_ : Nat
  deriving DecidableEq, Repr

/-! ### Links, clocks, ports and paths -/

/-- One direction of a die boundary, at its receiving side (R469 to R473). -/
structure Hop where
  die : Nat
  edge : Nat
  /-- Spare 64 and 65: the lane each one carries. -/
  spare0 : Option Nat
  spare1 : Option Nat
  /-- Bad lanes judged so far. -/
  bad : List Nat
  /-- Bad lanes that wait for the repair, with the cycle of the judgement. -/
  waiting : List (Nat × Nat)
  /-- Consecutive replays of one group. -/
  replays : Nat
  /-- The replay under way ends at this cycle. -/
  replayUntil : Nat
  /-- Reduced width: false the low half, true the high half. -/
  half : Option Bool
  /-- The hop carries nothing until this cycle. -/
  busyUntil : Nat
  deriving DecidableEq, Repr

/-- A die's clock (R475, R476): step 0 is 1.2 GHz, 1 is 1.0, 2 is 0.8. -/
structure DieClock where
  die : Nat
  step : Nat
  /-- A requested change (true: lower), and the die and edge of a hop whose link change delayed it. -/
  want : Option (Bool × Option (Nat × Nat))
  /-- The pause ends at this nanosecond. -/
  pause : Option Nat
  deriving DecidableEq, Repr

/-- An Ethernet port (R362, R485): 0 to 31 scale-out, 32 command. -/
structure EthPort where
  port : Nat
  down : Bool
  discarded : Nat
  deriving DecidableEq, Repr

/-- A request that left by a path and is not acknowledged or answered. -/
structure OutReq where
  seq : BitVec 32
  op : BitVec 8
  /-- The request number an issuer waits on. -/
  rid : Nat
  ctx : Nat
  /-- Context, address and payload of the packet, kept for retransmission. -/
  rctx : BitVec 16
  addr : Word
  payload : List Byte
  /-- The payload carries poisoned data (R386). -/
  pois : Bool
  /-- Acknowledged; a request with a response stays until the response comes. -/
  acked : Bool
  deriving DecidableEq, Repr

/-- A Mbostiha path (R365, R366). -/
structure Path where
  port : Nat
  num : BitVec 32
  addr6 : BitVec 128
  /-- Sender: next SEQ, unacknowledged requests, timeout (µs), timeouts without progress, the nanosecond since which the
  timeout runs, rate in Mb/s. -/
  txSeq : BitVec 32
  out : List OutReq
  timeout : Nat
  tries : Nat
  since : Nat
  rate : Nat
  lastCnp : Nat
  /-- Receiver: next SEQ expected, held packets, arrivals not acknowledged, stored responses: the data, or none with the
  code of a refusal. -/
  rxNext : BitVec 32
  held : List Packet
  unacked : Nat
  lastArrival : Nat
  stored : List (BitVec 32 × Option (List Byte) × Nat)
  /-- Writes of the remote party that no release of it has published (R288), newest first. -/
  rxw : List OwnByte
  /-- The places of the remote party's releases in the phase order (R283). -/
  relAt : List Nat
  lastCnpSent : Nat
  failed : Bool
  deriving DecidableEq, Repr

/-- A packet sent by the package, oldest first in `sent` (R363). -/
structure SentPkt where
  /-- Local port, and the remote IPv6 address. -/
  port : Nat
  addr6 : BitVec 128
  /-- UDP source and destination port. -/
  srcPort : BitVec 16
  dstPort : BitVec 16
  /-- ECT(0) in the IPv6 traffic class. -/
  ect : Bool
  ver : BitVec 8
  op : BitVec 8
  flags : BitVec 16
  path : BitVec 32
  seq : BitVec 32
  ack : BitVec 32
  ctx : BitVec 16
  len : BitVec 16
  addr : Word
  payload : List Byte
  /-- The payload carries poisoned data (R386). -/
  pois : Bool
  deriving DecidableEq, Repr

/-- An answer to a remote request (R364): data, or a fault code. -/
structure RemoteAns where
  rid : Nat
  data : Option (List Byte)
  deriving DecidableEq, Repr

/-! ### Memory -/

/-- A refresh account of one HBM channel (R136). -/
structure Refresh where
  stack : Nat
  ch : Nat
  owed : Nat
  deriving DecidableEq, Repr

/-- The comparison state of a redundant pair (R458 to R461), named by the visible hart. -/
structure Pair where
  uid : Nat
  partner : Nat
  /-- A request waiting at the comparison point: from the partner?, its operands, since when. -/
  req : Option (Bool × List Nat × Nat)
  /-- The pair carries out an action once: the visible hart as it was when the requests met. The partner takes over what
  the action changes. -/
  joint : Option Hart
  deriving DecidableEq, Repr

/-- An entry of the key table of a stack's controller (R141): slot 1 to 1,023 and material; slot 0 is the device
key. -/
structure KeyEnt where
  stack : Nat
  slot : Nat
  material : BitVec 512
  deriving DecidableEq, Repr

/-- The memory system. -/
structure Mem where
  /-- The bytes performed at their homes (see `Loc`), in canonical form: addresses strictly rise and no entry
  is zero; an unlisted byte reads as zero (R142). -/
  cells : List Host.Cell
  /-- The performed writes in coherence order (R279), the latest first. -/
  log : List WRec
  /-- The key each written granule was last written under; an unlisted granule has its zero-fill bit set
  (R140). Granule g of stack memory is location g · 64. -/
  keyOf : List (Nat × KeyTag)
  /-- Poisoned granules (R387), as a read at the home finds them. -/
  pois : List Nat
  /-- Of those, the granules that the part itself has marked (R390, R446): every read finds them poisoned. -/
  hwPois : List Nat
  /-- The next write number. -/
  nextWid : Nat
  /-- The count of strong accesses, releases and acquires: the phase order (R272). -/
  phase : Nat
  keys : List KeyEnt
  /-- Package resets so far: the generation of the device keys (R142). -/
  keyGen : Nat
  tlb : List TlbEnt
  /-- The walk caches of the dies (R118, R119). -/
  wcache : List WalkEnt
  ilines : List ILine
  ovl : List OvlRec
  refresh : List Refresh
  deriving DecidableEq, Repr

/-! ### The whole machine -/

/-- The device modes (R23). -/
inductive DMode where
  | one | half | die
  deriving DecidableEq, Repr

/-- The package: fuses, mode, settings and counters. -/
structure Pkg where
  /-- DHARV.HDIE. -/
  hdie : Nat
  /-- Dies whose stacked SRAM die is fitted (order code 2T or 1T-S). -/
  fitted : BitVec 64
  /-- Dies whose stacked SRAM die is fused off. -/
  fusedOff : BitVec 64
  mode : DMode
  /-- DMODE.CHG: the cycle at which the mode change began. -/
  chg : Option Nat
  /-- DMODE.MERR. -/
  merr : Bool
  /-- Reset setting of the mode: none, or a code (R26). -/
  setMode : Option (BitVec 2)
  /-- Overlap check setting (R440). -/
  setOvl : Bool
  /-- WDP in nanoseconds (R480). -/
  wdp : Nat
  /-- The host's IPv6 address (R362). -/
  hostAddr : BitVec 128
  /-- The last FATAL records held in the memory bridge of the lowest-numbered quad (R398), newest last. -/
  fatal : List (List Byte)
  /-- A FATAL event awaits the package reset. -/
  fatalAt : Option Nat
  /-- The row budgets have been halved since this nanosecond (R477). -/
  halvedAt : Option Nat
  /-- Time (ns) of the last notice of R397 per device. -/
  notified : List (Nat × Nat)
  deriving DecidableEq, Repr

/-- The turn of one agent: how many cycles pass before it and who acts. -/
inductive Who where
  | run (uid : Nat)
  | event (i : Instr)
  deriving DecidableEq, Repr

/-- DESIGN CHOICE (log 3). -/
structure Turn where
  dt : Nat
  who : Who
  deriving DecidableEq, Repr

/-- The state of the whole machine. -/
structure State where
  /-- The hart whose turn it is. -/
  hart : Hart
  /-- The other harts the machine holds, saved ones included. -/
  others : List Hart
  /-- Which agents act next; when empty, the focus hart takes its turn after one cycle. -/
  agenda : List Turn
  /-- Cycles of the 1.2 GHz core clock since package reset. -/
  cycle : Nat
  /-- The counter that free values are drawn with (the model's own). -/
  free : Nat
  /-- The next number for a hart, launch, copy or remote request (the model's own). -/
  fresh : Nat
  pkg : Pkg
  mem : Mem
  ctxs : List Ctx
  launches : List Launch
  devices : List Device
  mills : List Mill
  ports : List Port
  copies : List CopyRec
  cores : List Core
  weirs : List Weir
  sources : List Source
  hops : List Hop
  clocks : List DieClock
  eth : List EthPort
  paths : List Path
  /-- Packets sent and not yet taken by the network. -/
  sent : List SentPkt
  answers : List RemoteAns
  pairs : List Pair
  deriving DecidableEq, Repr

/-! ### Reset -/

/-- The format table at package reset and at context creation with FTPTR = 0 (R90). -/
def resetFt : Vector (BitVec 32) 16 :=
  #v[0x1043FAF1, 0x1043F8F1, 0x1040794B, 0x10083869, 0x1040784B, 0x002000E1, 0x00A003E1, 0x06280080,
     0x00280100, 0x002001E1, 0x100BF810, 0, 0, 0, 0, 0]

/-- The BF16 descriptor that every tile latch holds at context creation (R256). -/
def resetLatch : BitVec 32 := 0x1043F8F1

def LoopRegs.reset : LoopRegs := { lc := 0, lb := 0, le := 0, lbP := none, leP := none }

/-- The scalar file with every register zero (R44). -/
def Scalars.reset : Scalars :=
  { x := Vector.replicate 64 0, xb := Vector.replicate 8 0, px := 0, pxb := 0 }

/-- The vector, mask and tile files of R83: zero, but m0 all ones. -/
def VFile.reset : VFile :=
  { v := Vector.replicate 64 0, m := (Vector.replicate 8 0).set 0 (BitVec.allOnes 65536),
    w := Vector.replicate 4 0, td := Vector.replicate 4 resetLatch,
    pv := Vector.replicate 64 0, pm := Vector.replicate 8 0, pw := Vector.replicate 4 0,
    fw := Vector.replicate 4 0 }

/-- The control registers at their reset columns (R65 to R74). -/
def VCtl.reset : VCtl :=
  { vl := 0, vtype := 0, vmt := 0, ves := 0,
    mode := { st := 0, dtgt := 0, drow := 0, chn := false },
    ashape := { rows := 0, cols := 0, pk := 0, cpos := 0, clen := 0 },
    fxm := { sel := 0, rm := 0, acc := 0 }, sfth := 0xC2AF0000, rseed := 0, ft := resetFt }

def Bolter.reset : Bolter := { v := false, desc := 0, cols := Vector.replicate 16 0, pins := [] }

/-- The register state of a hart at context creation (R83), under a name that no placement has given.
DESIGN CHOICE (log 2). -/
def Hart.reset : Hart :=
  { id := { uid := 0, ctx := 0, launch := 0, flat := 0, ginst := 0, dev := 0, die := 0, core := 0, hnum := 0,
            part := 0, vk := 0, partner := false },
    st := { life := .absent, yreq := false, red := false, priv := false, entry := none, half := false,
            fresh := false, inHandler := false, stopDue := none, uiDue := false, uiAt := 0, asleep := none,
            lastRetire := 0, retired := 0, wdStage := 0, wdSince := 0, yreqAt := 0, img := none, hung := false,
            stopTime := 0, valid := BitVec.allOnes 76, issueFrom := 0, outCyc := 0, line := none,
            ahead := none },
    pc := 0, sc := .reset, vf := .reset, vc := .reset, loop0 := .reset, loop1 := .reset,
    ui := { uivec := 0, uipc := 0, en := false, act := false, pend := false },
    trap := { tvec := 0, tpc := 0, code := 0, ppriv := false, puia := false, tval := 0, tscr := 0 },
    phs := { pcnt := 0, lrs := 0, las := 0, pubp := false, hold := false, holdUntil := 0, holdKind := 0 },
    own := [], snap := [], obs := [], rwrites := [], pend := [], bolter := .reset, mbox := [],
    convoy := none,
    arr := { since := none, drain := none, chain := none, peers := [], prodNo := 0, prod := none, began := none, entered := [] },
    soft := [], rreq := none, acqAt := [], relAt := [], gathered := [] }

/-- Memory after package reset: every granule zero-filled, slots 1 to 1,023 empty (R142). -/
def Mem.reset : Mem :=
  { cells := [], log := [], keyOf := [], pois := [], hwPois := [], nextWid := 0, phase := 0, keys := [], keyGen := 1,
    tlb := [], wcache := [], ilines := [], ovl := [], refresh := [] }

/-- The package after its first reset with no board setting made: mode ONE, overlap check off, WDP 100 ms
(R26, R440, R480). The harvested die and the stacked dies are fuses (R18, R21). DESIGN CHOICE (log 1). -/
def Pkg.reset : Pkg :=
  { hdie := 63, fitted := BitVec.allOnes 64, fusedOff := 0, mode := .one, chg := none, merr := false,
    setMode := none, setOvl := false, wdp := 100000000, hostAddr := 0, fatal := [], fatalAt := none, halvedAt := none,
    notified := [] }

/-- The machine right after package reset, before the event area is written (see `State.reset`). -/
def State.bare : State :=
  { hart := .reset, others := [], agenda := [], cycle := 0, free := 0, fresh := 1, pkg := .reset, mem := .reset,
    ctxs := [], launches := [], devices := [], mills := [], ports := [], copies := [], cores := [], weirs := [],
    sources := [], hops := [], clocks := [], eth := [], paths := [], sent := [], answers := [], pairs := [] }

/-- A byte that the device itself has written with the device key, as a strong write. -/
def devRec (wid loc : Nat) (b : Byte) : WRec :=
  { wid := wid, loc := loc, byte := b, pois := false, key := .device, strong := true, pubs := [] }

/-- The machine right after package reset (R142): the event area of device 0 holds BASE and LOGN (R395), at
device physical address 0x1FFFF000000 in ONE mode, which is offset 0xFFFF80000 of stack 0 (R24). -/
def State.reset : State :=
  { State.bare with
    mem := { Mem.reset with
      cells := [(0xFFFF80002, 0x80), (0xFFFF80003, 0xFF), (0xFFFF80004, 0xFF), (0xFFFF80005, 0x01),
                (0xFFFF80008, 0x11)],
      log := [devRec 4 0xFFFF80008 0x11, devRec 3 0xFFFF80005 0x01, devRec 2 0xFFFF80004 0xFF,
              devRec 1 0xFFFF80003 0xFF, devRec 0 0xFFFF80002 0x80],
      keyOf := [(0x3FFFE000, .device)], nextWid := 5, phase := 5 } }

end Sys2Proof.Machine
end

