-- ==== Sys2Proof/Machine/Formats.lean ====
section
/-! DEFINITION. Format descriptors, exact decoding, rounding, encoding and block scales (R87 to R100). -/

namespace Sys2Proof.Machine

/-! ### Descriptors (R87, R88) -/

/-- The fields of a descriptor. -/
structure Fmt where
  s : Nat
  ew : Nat
  fw : Nat
  bias : Nat
  spv : Nat
  ovf : Nat
  blk : Nat
  sck : Nat
  sub : Bool
  deriving DecidableEq, Repr

def parseFmt (d : BitVec 32) : Fmt :=
  let v := d.toNat
  { s := bits v 0 0, ew := bits v 4 1, fw := bits v 10 5, bias := bits v 18 11, spv := bits v 21 19,
    ovf := bits v 23 22, blk := bits v 25 24, sck := bits v 27 26, sub := v.testBit 28 }

/-- The element width n. -/
def Fmt.n (f : Fmt) : Nat := f.s + f.ew + f.fw

/-- The entry is an integer format. -/
def Fmt.isInt (f : Fmt) : Bool := f.spv == 4 || f.spv == 5

/-- Block length in elements, 0 for none. -/
def Fmt.blkLen (f : Fmt) : Nat := match f.blk with | 0 => 0 | 1 => 16 | 2 => 32 | _ => 64

/-- The validity conditions of R88. -/
def fmtValid (d : BitVec 32) : Bool :=
  let f := parseFmt d
  d.toNat / 2 ^ 29 == 0 && decide (f.ew ≤ 8) && decide (f.fw ≤ 31)
  && (f.n == 4 || f.n == 8 || f.n == 16 || f.n == 32)
  && decide (f.spv ≤ 5) && f.ovf != 3 && f.sck != 3 && (f.blk != 0 || f.sck == 0)
  && (if f.isInt then f.ew == 0 && f.bias == 0 && !f.sub && (f.ovf == 0 || f.ovf == 2) && (f.s == (if f.spv = 4 then 1 else 0))
      else decide (1 ≤ f.ew) && (f.ovf == 0 || f.ovf == 1) && (f.spv != 0 || (decide (2 ≤ f.ew) && decide (1 ≤ f.fw)))
        && (f.spv != 3 || f.s == 1) && !(f.ovf == 1 && f.spv == 2))
  && (f.blk == 0 || f.n == 4 || f.n == 8)
  && (f.sck != 1 || (f.spv == 5 && f.fw == 4 && f.ovf == 0))

/-- The FP32 layout of f0 (R90), in which array partials are kept (R102). -/
def fp32 : Fmt := parseFmt 0x1043FAF1

/-- The FP8 E4M3 layout of R90. -/
def e4m3 : Fmt := parseFmt 0x10083869

/-! ### Wide values (R91) -/

/-- A wide value. A finite non-zero value is (−1)^s · m · 2^e with m ≠ 0; with `st`, its magnitude lies strictly
between m · 2^e and (m + 1) · 2^e, which is how an inexact quotient, root or special function is held before its one
rounding. -/
inductive WVal where
  | zero (s : Bool)
  | fin (s : Bool) (m : Nat) (e : Int) (st : Bool)
  | inf (s : Bool)
  | nan (quiet : Bool)
  deriving DecidableEq, Repr

/-- `exact(v)` of R91. -/
def exactInt (v : Int) : WVal := if v = 0 then .zero false else .fin (decide (v < 0)) v.natAbs 0 false

/-- `fin(s, m, x)`; a zero significand gives a zero. -/
def mkFin (s : Bool) (m : Nat) (e : Int) : WVal := if m = 0 then .zero s else .fin s m e false

/-- `fdecode` of R91. -/
def fdecode (f : Fmt) (c : Nat) : WVal :=
  let n := f.n
  if f.spv = 4 then exactInt (sextInt n c)
  else if f.spv = 5 then exactInt (Int.ofNat (c % 2 ^ n))
  else
    let s := f.s == 1 && c.testBit (n - 1)
    let e := (c >>> f.fw) % 2 ^ f.ew
    let m := c % 2 ^ f.fw
    let top := 2 ^ f.ew - 1
    if f.spv = 0 ∧ e = top then (if m = 0 then .inf s else .nan (m.testBit (f.fw - 1)))
    else if f.spv = 1 ∧ e = top ∧ m = 2 ^ f.fw - 1 then .nan true
    else if f.spv = 3 ∧ c % 2 ^ n = 2 ^ (n - 1) then .nan true
    else if e = 0 then
      if f.fw = 0 then (if f.sub then .fin s 1 (-(f.bias : Int)) false else .zero s)
      else if m ≠ 0 ∧ f.sub = true then .fin s m (1 - (f.bias : Int) - f.fw) false
      else .zero s
    else .fin s (2 ^ f.fw + m) ((e : Int) - f.bias - f.fw) false

/-! ### Rounding (R100) -/

/-- `rnd(x, rm, s)` for x = m · 2^(e − u) (with the sticky mark of R91's values), and whether x is an integer. -/
def rndAt (s : Bool) (m : Nat) (e u : Int) (st : Bool) (rm : Nat) (draw : Nat) : Nat × Bool :=
  if u ≤ e then
    let i := m <<< (e - u).toNat
    let up := st && ((rm == 2 && s) || (rm == 3 && !s))
    (if up then i + 1 else i, !st)
  else
    let sh := (u - e).toNat
    let i := m >>> sh
    let r := m % 2 ^ sh
    let half := 2 ^ (sh - 1)
    let frac := r != 0 || st
    let gt := decide (half < r) || (r == half && st)
    let tie := r == half && !st
    let up := match rm with
      | 0 => gt || (tie && i % 2 == 1)
      | 1 => false
      | 2 => frac && s
      | 3 => frac && !s
      | 4 => gt || tie
      | _ => decide (2 ^ 16 ≤ (r <<< 16) >>> sh + draw)
    (if up then i + 1 else i, !frac)

/-! ### Flags (R97) -/

/-- The classes raised, bit c − 1 for class c of R71. -/
abbrev Flags := BitVec 6

def fINVALID : Flags := 1
def fDIVZERO : Flags := 2
def fOVERFLOW : Flags := 4
def fUNDERFLOW : Flags := 8
def fINEXACT : Flags := 16
def fSATURATION : Flags := 32

/-! ### Encoding (R95, R96) -/

/-- The code of a sign, exponent field and fraction. -/
def fmtCode (f : Fmt) (s : Bool) (ef m : Nat) : Nat :=
  (if s ∧ f.s = 1 then 2 ^ (f.ew + f.fw) else 0) + ef * 2 ^ f.fw + m

/-- `smallest(d)` of R95. -/
def smallest (f : Fmt) (s : Bool) : Nat :=
  if f.fw = 0 ∧ f.sub = true then (if s ∧ f.s = 1 then 2 ^ (f.ew + f.fw) else 0)
  else if f.spv = 3 then 0
  else if s ∧ f.s = 1 then 2 ^ (f.ew + f.fw) else 0

/-- emax and fmax of R95. -/
def maxFin (f : Fmt) : Int × Nat :=
  let b : Int := f.bias
  let t : Int := 2 ^ f.ew
  match f.spv with
  | 0 => (t - 2 - b, 2 ^ f.fw - 1)
  | 1 => if f.fw = 0 then (t - 2 - b, 0) else (t - 1 - b, 2 ^ f.fw - 2)
  | _ => (t - 1 - b, 2 ^ f.fw - 1)

/-- The code of the largest finite value with a sign. -/
def maxCode (f : Fmt) (s : Bool) : Nat :=
  let (ex, m) := maxFin f
  fmtCode f s (ex + f.bias).toNat m

/-- The canonical NaN of R92; a format without NaN has none, and R96 gives what is written instead. -/
def canonNan (f : Fmt) : Nat :=
  match f.spv with
  | 0 => fmtCode f false (2 ^ f.ew - 1) (2 ^ (f.fw - 1))
  | 1 => fmtCode f false (2 ^ f.ew - 1) (2 ^ f.fw - 1)
  | 3 => 2 ^ (f.n - 1)
  | _ => 0

/-- The overflow row of R96. -/
def overflowEnc (f : Fmt) (s : Bool) (rm : Nat) : Nat × Flags :=
  if f.ovf = 0 ∨ f.spv = 2 then (maxCode f s, fSATURATION ||| fINEXACT)
  else if f.spv = 0 then
    if rm = 1 ∨ (rm = 2 ∧ s = false) ∨ (rm = 3 ∧ s = true) then (maxCode f s, fOVERFLOW ||| fINEXACT)
    else (fmtCode f s (2 ^ f.ew - 1) 0, fOVERFLOW ||| fINEXACT)
  else (canonNan f, fOVERFLOW ||| fINEXACT)

/-- Range of the codes of an integer entry. -/
def intRange (f : Fmt) : Int × Int :=
  if f.spv = 4 then (-(2 ^ (f.n - 1)), 2 ^ (f.n - 1) - 1) else (0, 2 ^ f.n - 1)

/-- The code of an integer that fits n bits. -/
def intCode (n : Nat) (q : Int) : Nat := (BitVec.ofInt n q).toNat

/-- Encodes an integer into an integer entry (R95): in range, wrapped with no flag, or saturated. -/
def encInt (f : Fmt) (q : Int) : Nat × Flags :=
  let (lo, hi) := intRange f
  if lo ≤ q ∧ q ≤ hi then (intCode f.n q, 0)
  else if f.ovf = 2 then (intCode f.n q, 0)
  else (intCode f.n (if q < lo then lo else hi), fSATURATION ||| fINEXACT)

/-- `fencode_finite` of R95, for floating targets. -/
def encFinite (f : Fmt) (s : Bool) (m : Nat) (e : Int) (st : Bool) (rm draw : Nat) : Nat × Flags :=
  if f.s = 0 ∧ s = true then (smallest f s, fSATURATION ||| fINEXACT)
  else
    let zless := f.fw == 0 && f.sub
    let emin : Int := if zless then -(f.bias : Int) else 1 - f.bias
    let lg : Int := e + Nat.log2 m
    if lg < emin ∧ (f.sub = false ∨ f.fw = 0) then (smallest f s, fUNDERFLOW ||| fINEXACT)
    else
      let x := if lg < emin then emin else lg
      let (q0, ex) := rndAt s m e (x - f.fw) st rm draw
      let (q, x) := if q0 = 2 ^ (f.fw + 1) then (q0 / 2, x + 1) else (q0, x)
      let (mx, fm) := maxFin f
      let top := 2 ^ f.fw + fm
      let past := if mx ≤ x then decide (top < q <<< (x - mx).toNat) else decide (top <<< (mx - x).toNat < q)
      if past then overflowEnc f s rm
      else
        let fl := if ex then 0 else if lg < emin then fINEXACT ||| fUNDERFLOW else fINEXACT
        if q = 0 then (if f.spv = 3 then 0 else fmtCode f s 0 0, fl)
        else if q < 2 ^ f.fw then (fmtCode f s 0 q, fl)
        else (fmtCode f s (x + f.bias).toNat (q - 2 ^ f.fw), fl)

/-- Encodes a wide value with a rounding mode (R95, R96). DESIGN CHOICE (log 83). -/
def fencode (f : Fmt) (w : WVal) (rm draw : Nat) : Nat × Flags :=
  if f.isInt then
    match w with
    | .zero _ => (0, 0)
    | .nan _ => (0, fINVALID)
    | .inf s =>
      if f.ovf = 2 then (0, fINVALID)
      else (intCode f.n (if s then (intRange f).1 else (intRange f).2), fSATURATION)
    | .fin s m e st =>
      let (q, ex) := rndAt s m e 0 st rm draw
      let (c, fl) := encInt f (if s then -(q : Int) else q)
      (c, fl ||| (if ex then 0 else fINEXACT))
  else
    match w with
    | .zero s => (smallest f (s && f.s == 1), if f.fw = 0 ∧ f.sub = true then fINEXACT else 0)
    | .nan q =>
      if f.spv = 2 then (0, fINVALID)
      else (canonNan f, if q then 0 else fINVALID)
    | .inf s =>
      if f.s = 0 ∧ s = true then (smallest f s, fSATURATION)
      else if f.ovf = 0 ∨ f.spv = 2 then (maxCode f s, fSATURATION)
      else if f.spv = 0 then (fmtCode f s (2 ^ f.ew - 1) 0, 0)
      else (canonNan f, fINVALID)
    | .fin s m e st => encFinite f s m e st rm draw

/-! ### Block scales (R93, R94) -/

/-- What a scale byte decodes to: NaN, zero, or the factor m · 2^e. -/
inductive Scale where
  | nan
  | zero
  | mul (m : Nat) (e : Int)
  deriving DecidableEq, Repr

def decodeScale (f : Fmt) (c : Nat) : Scale :=
  match f.sck with
  | 0 => if c = 255 then .nan else .mul 1 ((c : Int) - 127)
  | 1 => if c % 64 = 63 then .nan else .mul 1 ((c % 64 : Nat) - (31 : Int))
  | _ => match fdecode e4m3 (c % 128) with
    | .fin _ m e _ => .mul m e
    | .zero _ => .zero
    | _ => .nan

/-- Twice the magnitudes of types 1 and the magnitudes of type 3 (R93). -/
def typedMags : List Nat := [0, 1, 2, 3, 4, 6, 8, 12]

/-- The value of a 4-bit element code of type t before scaling (R93). -/
def typedVal (t k : Nat) : WVal :=
  let s := k.testBit 3; let m := k % 8
  match t with
  | 0 => exactInt (sextInt 4 k)
  | 1 => if m = 0 then .zero (s && k != 8) else .fin s (typedMags.getD m 0) (-1) false
  | 2 => if m = 0 then .zero (s && k != 8) else .fin s 1 ((m : Int) - 7) false
  | _ => if m = 0 then .zero (s && k != 8) else .fin s (typedMags.getD m 0) 0 false

/-- The value of an element code before its scale is applied. -/
def blockElem (f : Fmt) (scale code : Nat) : WVal :=
  if f.sck = 1 then typedVal (scale / 64) code else fdecode f code

/-- The value of an element of a block-scaled entry (R93). -/
def scaledVal (f : Fmt) (scale code : Nat) : WVal :=
  match decodeScale f scale with
  | .nan => .nan true
  | .zero => .zero false
  | .mul m e => match blockElem f scale code with
    | .fin s k x st => .fin s (k * m) (x + e) st
    | w => w

/-- The magnitude of a finite value as (m, e). -/
def magOf : WVal → Option (Nat × Int)
  | .fin _ m e _ => some (m, e)
  | .zero _ => some (0, 0)
  | _ => none

/-- Compares m · 2^e with k · 2^x. -/
def magLt (m : Nat) (e : Int) (k : Nat) (x : Int) : Bool :=
  if e ≤ x then decide (m < k <<< (x - e).toNat) else decide (m <<< (e - x).toNat < k)

/-- The largest magnitude of a list of finite values. -/
def magMax (l : List WVal) : Nat × Int :=
  l.foldl (fun a w => match magOf w with
    | some (m, e) => if m ≠ 0 ∧ (a.1 = 0 ∨ magLt a.1 a.2 m e) then (m, e) else a
    | none => a) (0, 0)

/-- floor(log2(maxfin)) of an element format, or the figure of R99 under a typed scale. -/
def emxOf (f : Fmt) (t : Nat) : Int :=
  if f.sck = 1 then (match t with | 0 => 2 | 1 => 2 | 2 => 0 | _ => 3)
  else if f.isInt then Nat.log2 ((intRange f).2).toNat
  else (maxFin f).1 + (if (2 ^ f.fw + (maxFin f).2) < 2 ^ f.fw then -1 else 0)

/-- Clamps an integer and gives it as a number. -/
def clampNat (v lo hi : Int) : Nat := (if v < lo then lo else if hi < v then hi else v).toNat

/-- (m · 2^e) / (k · 2^x) with the sticky mark. -/
def ratio (s : Bool) (m : Nat) (e : Int) (k : Nat) (x : Int) : WVal :=
  let n := m <<< 1024
  let q := n / k
  if q = 0 then .zero s else .fin s q (e - x - 1024) (n % k != 0)

/-- The scale byte of a block whose largest magnitude is (m, e) (R99), with no NaN or infinity among its elements. -/
def blockScale (f : Fmt) (t : Nat) (m : Nat) (e : Int) : Nat :=
  let xx : Int := if m = 0 then -127 else e + Nat.log2 m - emxOf f t
  match f.sck with
  | 0 => clampNat (xx + 127) 0 254
  | 1 => t * 64 + clampNat (xx + 31) 0 62
  | _ =>
    if m = 0 then 1
    else
      let (k, x) := if f.isInt then (((intRange f).2).toNat, (0 : Int)) else
        (2 ^ f.fw + (maxFin f).2, (maxFin f).1 - f.fw)
      let c := (fencode e4m3 (ratio false m e k x) 3 0).1
      if c = 0 then 1 else c

/-- The NaN scale byte (R93), with the type of a typed scale. -/
def nanScale (f : Fmt) (t : Nat) : Nat :=
  match f.sck with | 0 => 255 | 1 => t * 64 + 63 | _ => 127

/-- value / scale (R99). -/
def unscale (w : WVal) (sc : Scale) : WVal :=
  match w, sc with
  | .fin s m e _, .mul k x => ratio s m e k x
  | w, _ => w

/-- The value set of a typed element as quarters of 2^-7 … : magnitude in units of 2^-7, by code magnitude. -/
def typedUnits (t m : Nat) : Nat :=
  match t with
  | 0 => m * 128
  | 1 => typedMags.getD m 0 * 64
  | 2 => if m = 0 then 0 else 2 ^ m
  | _ => typedMags.getD m 0 * 128

/-- Encodes a value into a typed 4-bit element (R99): the nearest value of the type's set under rm, and on an RNE
tie the code with bit [0] clear. DESIGN CHOICE (log 83). -/
def encTyped (t : Nat) (w : WVal) (rm draw : Nat) : Nat × Flags :=
  match w with
  | .fin s m e st =>
    let top := if t = 0 ∧ s = true then 8 else 7
    -- the magnitude in units of 2^-7, as i with remainder
    let (i, exi) := rndAt s m e (-7) st 1 0
    let j := forN (top + 1) 0 (fun k a => if typedUnits t k ≤ i then k else a)
    let code := fun (k : Nat) => if t = 0 then intCode 4 (if s then -(k : Int) else k)
      else if k = 0 then 0 else (if s then 8 else 0) + k
    if j = top then
      if i = typedUnits t top ∧ exi = true then (code top, 0) else (code top, fSATURATION ||| fINEXACT)
    else
      let lo := typedUnits t j; let hi := typedUnits t (j + 1)
      if i = lo ∧ exi = true then (code j, 0)
      else
        let d2 := 2 * (i - lo); let w2 := hi - lo
        let gt := decide (w2 < d2) || (d2 == w2 && !exi)
        let tie := d2 == w2 && exi
        let up := match rm with
          | 0 => gt || (tie && j % 2 == 1)
          | 1 => false
          | 2 => s
          | 3 => !s
          | 4 => gt || tie
          | _ =>
            let p := (rndAt s m e (-30) st 1 0).1 - lo <<< 23
            decide (2 ^ 16 ≤ (p <<< 16) / (w2 <<< 23) + draw)
        (code (if up then j + 1 else j), fINEXACT)
  | _ => (0, 0)

/-- Encodes one element of a block under its scale (R99). -/
def encBlockElem (f : Fmt) (t scale : Nat) (w : WVal) (rm draw : Nat) : Nat × Flags :=
  match w with
  | .zero s => if f.sck = 1 then (0, 0) else fencode { f with ovf := 0 } (.zero s) rm draw
  | w =>
    let v := unscale w (decodeScale f scale)
    if f.sck = 1 then encTyped t v rm draw else fencode { f with ovf := 0 } v rm draw

end Sys2Proof.Machine
end

