-- ==== Sys2Proof/Machine/Flags.lean ====
section
/-! DEFINITION. The exact operations on wide values with the classes they raise, comparisons, classes of codes, and
the accrual of flags in FXM and m7 (R71, R72, R97, R230 to R236). -/

namespace Sys2Proof.Machine

/-! ### Exact operations (R230) -/

/-- A signalling NaN operand raises INVALID. -/
def snanFlag : WVal → Flags
  | .nan false => fINVALID
  | _ => 0

def isNan : WVal → Bool
  | .nan _ => true
  | _ => false

def negW : WVal → WVal
  | .zero s => .zero (!s)
  | .fin s m e st => .fin (!s) m e st
  | .inf s => .inf (!s)
  | w => w

/-- The signed integer m · 2^(e − x) for x ≤ e. -/
def scaleTo (s : Bool) (m : Nat) (e x : Int) : Int :=
  let v : Int := (m <<< (e - x).toNat : Nat)
  if s then -v else v

/-- The exact sum; `rdn` gives the sign of an exact zero (R230). -/
def addW (rdn : Bool) (a b : WVal) : WVal × Flags :=
  let f := snanFlag a ||| snanFlag b
  match a, b with
  | .nan _, _ => (.nan true, f)
  | _, .nan _ => (.nan true, f)
  | .inf s, .inf t => if s = t then (.inf s, f) else (.nan true, f ||| fINVALID)
  | .inf s, _ => (.inf s, f)
  | _, .inf s => (.inf s, f)
  | .zero s, .zero t => (.zero (if s = t then s else rdn), f)
  | .zero _, w => (w, f)
  | w, .zero _ => (w, f)
  | .fin s m e _, .fin t k x _ =>
    let lo := if e ≤ x then e else x
    let v := scaleTo s m e lo + scaleTo t k x lo
    if v = 0 then (.zero rdn, f) else (.fin (decide (v < 0)) v.natAbs lo false, f)

/-- The exact product. -/
def mulW (a b : WVal) : WVal × Flags :=
  let f := snanFlag a ||| snanFlag b
  match a, b with
  | .nan _, _ => (.nan true, f)
  | _, .nan _ => (.nan true, f)
  | .inf _, .zero _ => (.nan true, f ||| fINVALID)
  | .zero _, .inf _ => (.nan true, f ||| fINVALID)
  | .inf s, .inf t => (.inf (s != t), f)
  | .inf s, .fin t _ _ _ => (.inf (s != t), f)
  | .fin s _ _ _, .inf t => (.inf (s != t), f)
  | .zero s, .zero t => (.zero (s != t), f)
  | .zero s, .fin t _ _ _ => (.zero (s != t), f)
  | .fin s _ _ _, .zero t => (.zero (s != t), f)
  | .fin s m e _, .fin t k x _ => (.fin (s != t) (m * k) (e + x) false, f)

/-- The exact quotient, held with its sticky mark. -/
def divW (a b : WVal) : WVal × Flags :=
  let f := snanFlag a ||| snanFlag b
  match a, b with
  | .nan _, _ => (.nan true, f)
  | _, .nan _ => (.nan true, f)
  | .inf _, .inf _ => (.nan true, f ||| fINVALID)
  | .zero _, .zero _ => (.nan true, f ||| fINVALID)
  | .inf s, .zero t => (.inf (s != t), f)
  | .inf s, .fin t _ _ _ => (.inf (s != t), f)
  | .zero s, .inf t => (.zero (s != t), f)
  | .fin s _ _ _, .inf t => (.zero (s != t), f)
  | .fin s _ _ _, .zero t => (.inf (s != t), f ||| fDIVZERO)
  | .zero s, .fin t _ _ _ => (.zero (s != t), f)
  | .fin s m e _, .fin t k x _ => (ratio (s != t) m e k x, f)

/-- a · b + c with one rounding to follow. -/
def fmaW (rdn : Bool) (a b c : WVal) : WVal × Flags :=
  let (p, f) := mulW a b
  let (r, g) := addW rdn p c
  (r, f ||| g)

/-- w · 2^−k. -/
def halveW (k : Nat) : WVal → WVal
  | .fin s m e st => .fin s m (e - k) st
  | w => w

/-! ### Order (R235) -/

/-- The exact signed comparison of two values that are no NaN: −1, 0 or 1. -/
def cmpW (a b : WVal) : Int :=
  match a, b with
  | .inf s, .inf t => if s = t then 0 else if s then -1 else 1
  | .inf s, _ => if s then -1 else 1
  | _, .inf s => if s then 1 else -1
  | .zero _, .zero _ => 0
  | .zero _, .fin t _ _ _ => if t then 1 else -1
  | .fin s _ _ _, .zero _ => if s then -1 else 1
  | .fin s m e _, .fin t k x _ =>
    let lo := if e ≤ x then e else x
    let v := scaleTo s m e lo - scaleTo t k x lo
    if v < 0 then -1 else if v = 0 then 0 else 1
  | _, _ => 0

/-- a precedes b in the order of R235, in which −0 is less than +0. -/
def lessW (a b : WVal) : Bool :=
  match a, b with
  | .zero s, .zero t => s && !t
  | a, b => cmpW a b == -1

/-- The lesser (`mx` false) or greater of two values (R235). -/
def minMaxW (mx : Bool) (a b : WVal) : WVal × Flags :=
  let f := snanFlag a ||| snanFlag b
  match a, b with
  | .nan _, .nan _ => (.nan true, f)
  | .nan _, w => (w, f)
  | w, .nan _ => (w, f)
  | a, b => (if lessW a b then (if mx then b else a) else (if mx then a else b), f)

/-- The compares of R235: 0 eq, 1 ne, 2 lt, 3 le, 4 gt, 5 ge. -/
def compareW (op : Nat) (a b : WVal) : Bool × Flags :=
  if isNan a || isNan b then (op == 1, if op ≤ 1 then snanFlag a ||| snanFlag b else fINVALID)
  else
    let c := cmpW a b
    (match op with
     | 0 => c == 0 | 1 => c != 0 | 2 => c == -1 | 3 => c != 1 | 4 => c == 1 | _ => c != -1, 0)

/-! ### Signs and classes of codes (R234) -/

/-- The sign bit of a code, 0 for an entry with S = 0. -/
def signBit (f : Fmt) (c : Nat) : Bool := f.s == 1 && c.testBit (f.n - 1)

/-- abs(a) with a sign. -/
def withSign (s : Bool) : WVal → WVal
  | .zero _ => .zero s
  | .fin _ m e st => .fin s m e st
  | .inf _ => .inf s
  | w => w

/-- The class index of a code (R234). -/
def classOf (f : Fmt) (c : Nat) : Nat :=
  let s := signBit f c
  match fdecode f c with
  | .nan q => if q then 9 else 8
  | .inf _ => if s then 0 else 7
  | .zero _ => if f.isInt then 4 else if s then 3 else 4
  | .fin neg m e _ =>
    if f.isInt then (if neg then 1 else 6)
    else
      let sub := !(f.fw == 0 && f.sub) && decide (e + Nat.log2 m < 1 - (f.bias : Int))
      if s then (if sub then 2 else 1) else (if sub then 5 else 6)

/-! ### Accrual (R71, R72) -/

/-- Adds classes to FXM.ACC. -/
def accrue (h : Hart) (f : Flags) : Hart :=
  if f = 0 then h else { h with vc := { h.vc with fxm := { h.vc.fxm with acc := h.vc.fxm.acc ||| f } } }

/-- Raises classes for element i: FXM.ACC, and m7 bit i when SEL names one of them. -/
def raise (h : Hart) (i : Nat) (f : Flags) : Hart :=
  if f = 0 then h
  else
    let h1 := accrue h f
    let sel := h.vc.fxm.sel.toNat
    if sel ≠ 0 ∧ f.getLsbD (sel - 1) = true then
      { h1 with vf := { h1.vf with m := h1.vf.m.set 7 (h1.vf.m[7] ||| BitVec.twoPow 65536 i) } }
    else h1

end Sys2Proof.Machine
end

