-- ==== Sys2Proof/Machine/Memory.lean ====
section
/-! DEFINITION. Memory: cells in canonical form, the physical map, keys and poison of granules, snapshots, overlays,
releases and acquires, strong accesses and translation. -/

namespace Sys2Proof.Machine

/-! ### Cells -/

/-- The byte of an address; an unlisted address reads as zero (R142). -/
def cellGet : List Host.Cell → Nat → Byte
  | [], _ => 0
  | (x, b) :: r, a => if a < x then 0 else if a = x then b else cellGet r a

/-- Writes a byte and keeps the canonical form: a zero removes the entry. -/
def cellSet : List Host.Cell → Nat → Byte → List Host.Cell
  | [], a, v => if v = 0 then [] else [(a, v)]
  | (x, b) :: r, a, v =>
    if a < x then (if v = 0 then (x, b) :: r else (a, v) :: (x, b) :: r)
    else if a = x then (if v = 0 then r else (a, v) :: r)
    else (x, b) :: cellSet r a v

/-- Every address lies above `lo`, addresses strictly rise and no byte is zero. -/
def cellsAbove : Option Nat → List Host.Cell → Bool
  | _, [] => true
  | lo, (x, b) :: r => (match lo with | none => true | some l => decide (l < x)) && (b != 0) && cellsAbove (some x) r

/-- The memory is in canonical form. -/
def Mem.wf (m : Mem) : Bool := cellsAbove none m.cells

/-- Removes every cell whose address satisfies `p`. -/
def cellDrop (p : Nat → Bool) (l : List Host.Cell) : List Host.Cell := l.filter (fun c => !p c.1)

/-! ### Locations and the physical map -/

/-- The location of byte `off` of a stack (R24). -/
def stackLoc (stack off : Nat) : Nat := stack * 2 ^ 36 + off

/-- The location of byte `off` of a tile (R113, R124). DESIGN CHOICE (log 73). -/
def tileLoc (ctx h off : Nat) : Nat := 2 ^ 64 + ctx * 2 ^ 52 + h * 2 ^ 40 + off

/-- The location lies in TILE space. -/
def isTile (loc : Nat) : Bool := decide (2 ^ 64 ≤ loc)

/-- The valid device physical addresses of the mode (R24). -/
def paLimit : DMode → Nat
  | .one => 2 ^ 41
  | .half => 2 ^ 40
  | .die => 2 ^ 35

/-- The place of a device physical address (R24); none beyond the valid range. -/
def physLoc (p : Pkg) (dev pa : Nat) : Option Nat :=
  if pa < paLimit p.mode then
    some (match p.mode with
    | .one => stackLoc ((bits pa 16 12) ^^^ (bits pa 21 17)) ((pa >>> 17) * 4096 + pa % 4096)
    | .half => stackLoc (16 * dev + ((bits pa 15 12) ^^^ (bits pa 19 16))) ((pa >>> 16) * 4096 + pa % 4096)
    | .die =>
      let row := dev / 8; let col := dev % 8
      stackLoc (2 * (4 * (row / 2) + col / 2) + row % 2) (pa + (col % 2) * 2 ^ 35))
  else none

/-- The device physical address of a byte of stack memory on its device: the inverse of `physLoc`. -/
def locPa (p : Pkg) (loc : Nat) : Nat :=
  let st := loc / 2 ^ 36; let off := loc % 2 ^ 36; let blk := off / 4096
  match p.mode with
  | .one => blk * 2 ^ 17 + (st ^^^ (blk % 32)) * 4096 + off % 4096
  | .half => blk * 2 ^ 16 + ((st % 16) ^^^ (blk % 16)) * 4096 + off % 4096
  | .die => off % 2 ^ 35

/-- The device that owns a byte of stack memory (R24). -/
def locDev (p : Pkg) (loc : Nat) : Nat :=
  let st := loc / 2 ^ 36
  match p.mode with
  | .one => 0
  | .half => st / 16
  | .die => let q := st / 2; 8 * (2 * (q / 4) + st % 2) + 2 * (q % 4) + loc % 2 ^ 36 / 2 ^ 35

/-- The stacks whose controllers serve a device (R24). -/
def stacksOf (p : Pkg) (dev : Nat) : List Nat :=
  match p.mode with
  | .one => List.range 32
  | .half => List.range' (16 * dev) 16
  | .die => let row := dev / 8; [2 * (4 * (row / 2) + dev % 8 / 2) + row % 2]

/-- The die is live (R18). -/
def dieLive (p : Pkg) (d : Nat) : Bool := decide (d < 64) && d != p.hdie

/-- The device of a die in the present mode (R23). -/
def devOfDie (p : Pkg) (d : Nat) : Nat :=
  match p.mode with
  | .one => 0
  | .half => d / 32
  | .die => d

/-- The device that holds a stack; none for a stack split in DIE mode (R23, R396). -/
def devOfStack (p : Pkg) (st : Nat) : Option Nat :=
  match p.mode with
  | .one => some 0
  | .half => some (st / 16)
  | .die => none

/-- The home die of a byte of stack memory (R129). -/
def homeDieStack (p : Pkg) (loc : Nat) : Nat :=
  let st := loc / 2 ^ 36; let off := loc % 2 ^ 36
  let q := st / 2; let row := 2 * (q / 4) + st % 2
  match p.mode with
  | .die => 8 * row + 2 * (q % 4) + off / 2 ^ 35
  | _ =>
    let d := 8 * row + 2 * (q % 4) + bits off 7 7
    if d = p.hdie then 8 * row + 2 * (q % 4) + (1 - bits off 7 7) else d

/-- The context with a number. -/
def findCtx (s : State) (c : Nat) : Option Ctx := s.ctxs.find? (fun x => x.num == c)

/-- The tile of a context's handle. -/
def findTile (s : State) (c h : Nat) : Option Tile :=
  match findCtx s c with
  | none => none
  | some x => x.tiles.find? (fun t => t.h == h)

/-- The home die of a byte (R270). -/
def homeDie (s : State) (loc : Nat) : Nat :=
  if isTile loc then
    let r := loc - 2 ^ 64
    match findTile s (r / 2 ^ 52) (r / 2 ^ 40 % 4096) with
    | some t => t.die
    | none => 0
  else homeDieStack s.pkg loc

/-- The core whose slice holds a byte, on its home die (R124, R129). -/
def homeCore (s : State) (loc : Nat) : Nat :=
  if isTile loc then
    let r := loc - 2 ^ 64
    match findTile s (r / 2 ^ 52) (r / 2 ^ 40 % 4096) with
    | some t => t.cores.getD (r % 2 ^ 40 / 4096 % max 1 t.cores.length) 0
    | none => 0
  else Config.slice (loc / 128) % 32

/-! ### Keys and granules -/

/-- The granule of a location (R138). -/
def granule (loc : Nat) : Nat := loc / 64

/-- The tag of a device's key: the part makes a key of its own at each package reset (R142). -/
def keyOfGran (m : Mem) (g : Nat) : Option KeyTag := (m.keyOf.find? (fun p => p.1 == g)).map (·.2)

def setKeyOf (m : Mem) (g : Nat) (k : KeyTag) : Mem :=
  { m with keyOf := (g, k) :: m.keyOf.filter (fun p => p.1 != g) }

/-- The byte a read at the home under key `k` finds (R139, R140): undefined under another key than the one of the
granule. -/
def homeByte (s : State) (k : KeyTag) (loc : Nat) : Byte :=
  if isTile loc then cellGet s.mem.cells loc
  else match keyOfGran s.mem (granule loc) with
    | none => 0
    | some k' => if k' = k then cellGet s.mem.cells loc else Config.freeBits 8 s.free loc

/-- `n` bytes at the home. -/
def homeBytes (s : State) (k : KeyTag) (loc n : Nat) : List Byte :=
  (List.range n).map (fun i => homeByte s k (loc + i))

/-- Some granule of the range is poisoned at the home. -/
def homePois (m : Mem) (loc n : Nat) : Bool :=
  m.pois.any (fun g => decide (granule loc ≤ g) && decide (g ≤ granule (loc + n - 1)))

/-- Writes one byte into its granule under key `k`. A granule last written under another key keeps nothing: its
other bytes become undefined (R139). -/
def putHomeByte (s : State) (k : KeyTag) (loc : Nat) (b : Byte) : State :=
  if isTile loc then { s with mem := { s.mem with cells := cellSet s.mem.cells loc b } }
  else
    let g := granule loc
    let m := match keyOfGran s.mem g with
      | none => setKeyOf s.mem g k
      | some k' =>
        if k' = k then s.mem
        else
          let cs := forN 64 s.mem.cells (fun i c => cellSet c (64 * g + i) (Config.freeBits 8 s.free (64 * g + i)))
          setKeyOf { s.mem with cells := cs } g k
    { s with mem := { m with cells := cellSet m.cells loc b } }

/-- Marks or clears the granule marks of a write (R388): poisoned data marks every granule it touches; clean data
covering a whole granule clears its mark. -/
def markPois (m : Mem) (loc n : Nat) (pois : Bool) : Mem :=
  let gs := (List.range' (granule loc) (granule (loc + n - 1) + 1 - granule loc))
  if n = 0 then m
  else if pois then { m with pois := gs.filter (fun g => !m.pois.contains g) ++ m.pois }
  else
    let whole := gs.filter (fun g => decide (loc ≤ 64 * g) && decide (64 * g + 64 ≤ loc + n))
    { m with pois := m.pois.filter (fun g => !whole.contains g),
             hwPois := m.hwPois.filter (fun g => !whole.contains g) }

/-- Writes bytes at their home. -/
def putHome (s : State) (k : KeyTag) (loc : Nat) (bs : List Byte) (pois : Bool) : State :=
  let s1 := (bs.zipIdx).foldl (fun st p => putHomeByte st k (loc + p.2) p.1) s
  { s1 with mem := markPois s1.mem loc bs.length pois }

/-- Adds performed writes to the coherence order (R279), with their publications. DEDUCED (log 74). -/
def logBytes (m : Mem) (k : KeyTag) (loc : Nat) (bs : List Byte) (pois strong : Bool) (pubs : List Pub)
    (quiet : Bool := false) : Mem :=
  (bs.zipIdx).foldl (fun m p =>
    { m with nextWid := m.nextWid + 1,
             log := { wid := m.nextWid, loc := loc + p.2, byte := p.1, pois := pois, key := k, strong := strong,
                      pubs := pubs, quiet := quiet } :: m.log }) m

/-- A strong write of no hart (an engine, the command unit, a remote party): performed at the home, with its place
in the phase order (R282). -/
def strongPut (s : State) (k : KeyTag) (loc : Nat) (bs : List Byte) (pubs : List Pub := []) : State :=
  let s1 := putHome s k loc bs false
  { s1 with mem := { logBytes s1.mem k loc bs false true pubs with phase := s1.mem.phase + 1 } }

/-! ### Device physical memory, with the device key -/

/-- Reads `n` bytes of device physical memory with the device key (R139); none beyond the valid range or when a
granule is poisoned. -/
def devRead (s : State) (dev pa n : Nat) : Option (List Byte) :=
  if (List.range n).all (fun i => match physLoc s.pkg dev (pa + i) with
      | some l => !homePois s.mem l 1
      | none => false) then
    some ((List.range n).map (fun i => match physLoc s.pkg dev (pa + i) with
      | some l => homeByte s .device l
      | none => 0))
  else none

/-- Cuts the `n` bytes from an address at the granules: the offset and the length of each piece. `k` bounds the pieces. -/
def granPieces : Nat → Nat → Nat → Nat → List (Nat × Nat)
  | 0, _, _, _ => []
  | k + 1, pa, off, n =>
    if n = 0 then []
    else
      let m := min n (64 - (pa + off) % 64)
      (off, m) :: granPieces k pa (off + m) (n - m)

/-- Writes bytes of device physical memory by strong writes with the device key, one for each granule (R282, R388). -/
def devWrite (s : State) (dev pa : Nat) (bs : List Byte) : State :=
  (granPieces (bs.length / 64 + 2) pa 0 bs.length).foldl (fun st p => match physLoc st.pkg dev (pa + p.1) with
    | some l => strongPut st .device l ((bs.drop p.1).take p.2)
    | none => st) s

/-! ### The view of a hart (R280) -/

/-- The hart's overlay byte. -/
def ovByte (h : Hart) (loc : Nat) : Option OwnByte := h.own.find? (fun o => o.ov && o.loc == loc)

/-- The snapshot byte. -/
def snapByte (h : Hart) (loc : Nat) : Option SnapByte := h.snap.find? (fun o => o.loc == loc)

/-- The byte a plain load of the hart returns under key `k` (R280, R139). -/
def viewByte (s : State) (h : Hart) (k : KeyTag) (loc : Nat) : Byte :=
  match ovByte h loc with
  | some o => o.byte
  | none =>
    let other := !isTile loc && (match keyOfGran s.mem (granule loc) with | none => false | some k' => k' != k)
    if other then Config.freeBits 8 s.free loc
    else match snapByte h loc with
      | some b => if isTile loc || b.key = k then b.byte else Config.freeBits 8 s.free loc
      | none => 0

/-- The writes of the hart's overlay in a granule, the latest first. -/
def granOwn (h : Hart) (g : Nat) : List OwnByte := h.own.filter (fun o => o.ov && granule o.loc == g)

/-- Clean bytes of a list, the latest first, cover the whole granule since its last poisoned byte (R388). -/
def ownClean (l : List OwnByte) (g : Nat) : Bool :=
  let es := (l.filter (fun o => granule o.loc == g)).takeWhile (fun o => !o.pois)
  (List.range 64).all (fun i => es.any (fun o => o.loc % 64 == i))

/-- Clean data of the hart cover the whole granule since its last poisoned write to it (R388). -/
def granClean (h : Hart) (g : Nat) : Bool := ownClean (granOwn h g) g

/-- The hart sees the granule poisoned (R388): a poisoned write marks it whatever its other bytes held, and only clean
data over the whole of it clear the mark. -/
def viewPoisG (s : State) (h : Hart) (g : Nat) : Bool :=
  (s.mem.hwPois.contains g || (granOwn h g).any (·.pois) || h.snap.any (fun b => b.pois && granule b.loc == g))
  && !granClean h g

def viewPois (s : State) (h : Hart) (loc n : Nat) : Bool :=
  (List.range' (granule loc) (granule (loc + n - 1) + 1 - granule loc)).any (viewPoisG s h)

def viewBytes (s : State) (h : Hart) (k : KeyTag) (loc n : Nat) : List Byte :=
  (List.range n).map (fun i => viewByte s h k (loc + i))

/-- A write of the focus hart joins its unpublished writes (R277, R280). -/
def ownStore (s : State) (k : KeyTag) (loc va : Nat) (bs : List Byte) (pois : Bool) : State :=
  let h := s.hart
  let (own, w) := (bs.zipIdx).foldl (fun (a : List OwnByte × Nat) p =>
    ({ wid := a.2, loc := loc + p.2, va := va + p.2, byte := p.1, pois := pois, key := k, acc := s.mem.nextWid,
       done := false, ov := true } :: a.1,
      a.2 + 1)) (h.own, s.mem.nextWid)
  { s with hart := { h with own := own }, mem := { s.mem with nextWid := w } }

/-! ### Scopes -/

/-- The cluster of a core (R264). -/
def clusOf (core : Nat) : Nat := core / 8

def Hart.place (h : Hart) : Place := { dev := h.id.dev, die := h.id.die, core := h.id.core, uid := h.id.uid }

/-- Two places share an instance of a scope (R271). A hart shares every instance with itself, wherever it runs: `p` is
the place at which a release was performed. -/
def share (sc : Scope) (p q : Place) : Bool :=
  p.uid == q.uid ||
  match sc with
  | .hart => false
  | .core => p.die == q.die && p.core == q.core
  | .cluster => p.die == q.die && clusOf p.core == clusOf q.core
  | .die => p.die == q.die
  | .device => p.dev == q.dev
  | .system => true

def scopeNum : Scope → Nat
  | .hart => 0 | .core => 1 | .cluster => 2 | .die => 3 | .device => 4 | .system => 5

def numScope (n : Nat) : Scope :=
  match n with
  | 0 => .hart | 1 => .core | 2 => .cluster | 3 => .die | 4 => .device | _ => .system

/-- The narrower of two scopes. -/
def minScope (a b : Scope) : Scope := if scopeNum a ≤ scopeNum b then a else b

/-- The scope's instance around a place contains the home of a byte, which counts as its die (R271). -/
def containsHome (s : State) (sc : Scope) (p : Place) (loc : Nat) : Bool :=
  match sc with
  | .hart | .core | .cluster => false
  | .die => homeDie s loc == p.die
  | .device => devOfDie s.pkg (homeDie s loc) == p.dev
  | .system => true

/-- A performed write is visible to an acquire at scope `sc` by a party at `p` that has observed the writes `ob`
(R278, R286). DEDUCED (log 57). -/
def visible (s : State) (sc : Scope) (p : Place) (ob : List Nat) (w : WRec) : Bool :=
  w.pubs.any (fun e => share (minScope e.scope sc) e.place p)
  || (w.strong && containsHome s sc p w.loc)
  || ob.contains w.wid

/-- The numbers of the writes of the copies a hart has observed. -/
def obsWids (s : State) (h : Hart) : List Nat :=
  (s.copies.filter (fun c => h.obs.contains c.cid)).flatMap (·.wids)

/-- Clean writes of a list, the latest first, cover the whole granule since its last poisoned write (R388). -/
def logClean (l : List WRec) (g : Nat) : Bool :=
  let es := (l.filter (fun w => granule w.loc == g)).takeWhile (fun w => !w.pois)
  (List.range 64).all (fun i => es.any (fun w => w.loc % 64 == i))

/-- A snapshot that orders the writes `l` finds a granule poisoned: a poisoned write among them that no clean data over
the whole granule follow, or a mark at the home on a granule that the snapshot reads (R387, R388). DEDUCED (log 78). -/
def snapMark (m : Mem) (l : List WRec) (g : Nat) : Bool :=
  m.pois.contains g || (l.any (fun w => w.pois && granule w.loc == g) && !logClean l g)

/-- The snapshot of an acquire (R278): for each byte, the latest visible write in coherence order. -/
def takeSnap (s : State) (sc : Scope) (h : Hart) : List SnapByte :=
  let ob := obsWids s h
  let l := s.mem.log.filter (visible s sc h.place ob)
  let bad := ((l.map (fun w => granule w.loc)).eraseDups).filter (snapMark s.mem l)
  l.foldl (fun acc w =>
    if acc.any (fun b => b.loc == w.loc) then acc
    else { loc := w.loc, wid := w.wid, byte := w.byte, pois := bad.contains (granule w.loc), key := w.key } :: acc) []

/-- A write of the hart stays in its overlay over an acquire unless a performed release has published it or the
snapshot orders it (R280). A partner's performed writes leave, because its releases publish nothing (R291). -/
def staysOv (s : State) (sc : Scope) (h : Hart) (o : OwnByte) : Bool :=
  !(o.done && (h.id.partner || s.mem.log.any (fun w => w.wid == o.wid &&
    (!w.pubs.isEmpty || visible s sc h.place [] w))))

/-- The copies of a hart whose writes a release that the acquire sees has published: their completion, which another
hart has observed, is observed through it (R331). -/
def toldOf (s : State) (sc : Scope) (h : Hart) : List Nat :=
  (s.copies.filter (fun c => c.launch == h.id.launch && c.flat == h.id.flat && c.ctx == h.id.ctx && !h.obs.contains c.cid
    && s.mem.log.any (fun w => c.wids.contains w.wid && visible s sc h.place [] w))).map (·.cid)

/-- The acquire's effect on a hart: a fresh snapshot, and the overlay keeps only writes no release has performed
(R280). -/
def acquireHart (s : State) (sc : Scope) (h : Hart) : Hart :=
  { h with snap := takeSnap s sc h,
           obs := toldOf s sc h ++ h.obs,
           own := h.own.map (fun o => { o with ov := o.ov && staysOv s sc h o }),
           acqAt := (sc, s.mem.phase) :: h.acqAt,
           phs := { h.phs with las := BitVec.ofNat 3 (scopeNum sc) } }

/-- The published set of a hart (R277): its own writes, the writes its snapshot returns, and the writes of observed
copies. -/
def publishedSet (s : State) (h : Hart) : List Nat :=
  h.own.map (·.wid) ++ h.snap.map (·.wid) ++ obsWids s h

/-- Clears the marks of granules that clean data have covered (R388). -/
def clearPois (m : Mem) (gs : List Nat) : Mem :=
  { m with pois := m.pois.filter (fun g => !gs.contains g), hwPois := m.hwPois.filter (fun g => !gs.contains g) }

/-- Performs the writes of `set` that the hart has made and not yet performed, at their homes, in program order
(R274, R279). Clean data that they lay over a whole granule clear its mark (R388). -/
def performOwn (s : State) (h : Hart) (set : List Nat) (strong : Bool) : State × Hart :=
  let todo := h.own.filter (fun o => !o.done && set.contains o.wid)
  let gs := (todo.map (fun o => granule o.loc)).eraseDups
  let s1 := todo.reverse.foldl (fun st o =>
    let st1 := putHome st o.key o.loc [o.byte] o.pois
    { st1 with mem := { st1.mem with log :=
        { wid := o.wid, loc := o.loc, byte := o.byte, pois := o.pois, key := o.key, strong := strong, pubs := [] }
          :: st1.mem.log } }) s
  let s2 := { s1 with mem := clearPois s1.mem (gs.filter (ownClean todo)) }
  (s2, { h with own := h.own.map (fun o => if set.contains o.wid then { o with done := true } else o) })

/-- Adds a publication to the writes of a set. -/
def publish (m : Mem) (set : List Nat) (p : Pub) : Mem :=
  let l := updWhere (fun w => set.contains w.wid && !w.quiet && !w.pubs.contains p) (fun w => { w with pubs := p :: w.pubs }) m.log
  { m with log := l }

/-! ### Translation -/

/-- The outcome of a walk or of a translation: a trap code of R400 or a leaf. -/
inductive Walk where
  | fault (code : Nat)
  | leaf (va size pa : Nat) (w x dev ksel : Bool)
  deriving DecidableEq, Repr

/-- One level of a walk (R115 to R117). `lvl` is the level and `tab` the table's address. DESIGN CHOICE (log 80). -/
def walkLevel (s : State) (dev va : Nat) : Nat → Nat → Walk
  | lvl, tab =>
    let idx := match lvl with
      | 3 => bits va 47 39
      | 2 => bits va 38 30
      | 1 => bits va 29 21
      | _ => bits va 20 16
    match devRead s dev (tab + 8 * idx) 8 with
    | none => .fault 0x000B          -- a poisoned entry is malformed (R428)
    | some bs =>
      let e := leNat bs
      let pa := (bits e 47 8) <<< 8
      let leaf := e.testBit 1
      if !e.testBit 0 then .fault 0x000A
      else if bits e 7 6 ≠ 0 ∨ bits e 63 48 ≠ 0 then .fault 0x000B
      else if leaf then
        let size := match lvl with | 2 => 2 ^ 30 | 1 => 2 ^ 21 | _ => 2 ^ 16
        if lvl = 3 then .fault 0x000B
        else if pa % size ≠ 0 then .fault 0x000B
        else if paLimit s.pkg.mode < pa + size then .fault 0x000D
        else .leaf (va / size * size) size pa (e.testBit 2) (e.testBit 3) (e.testBit 4) (e.testBit 5)
      else match lvl with
        | 0 => .fault 0x000B
        | l + 1 =>
          let sz := if l = 0 then 256 else 4096
          if pa % sz ≠ 0 then .fault 0x000B
          else if paLimit s.pkg.mode < pa + sz then .fault 0x000D
          else walkLevel s dev va l pa

/-- A walk of a context's table from its root (R115). -/
def walk (s : State) (c : Ctx) (va : Nat) : Walk := walkLevel s c.dev va 3 c.ptroot

/-- The addresses that a table of a level covers (R115). -/
def tabSpan (lvl : Nat) : Nat :=
  match lvl with
  | 0 => 2 ^ 21
  | 1 => 2 ^ 30
  | 2 => 2 ^ 39
  | _ => 2 ^ 48

/-- The lowest table that a die's walk cache names for an address (R118). -/
def cachedTab (m : Mem) (die ctx va : Nat) : Option WalkEnt :=
  [0, 1, 2].findSome? (fun lvl => m.wcache.find? (fun e => e.die == die && e.ctx == ctx && e.lvl == lvl
    && e.va == va / tabSpan lvl * tabSpan lvl))

/-- A walk by one of a die's walkers: from the table that the walk cache names, which stays in use after the entries above
it have changed (R118, R119), and otherwise from the root. -/
def walkFrom (s : State) (c : Ctx) (die va : Nat) : Walk :=
  match cachedTab s.mem die c.num va with
  | some e => walkLevel s c.dev va e.lvl e.tab
  | none => walk s c va

/-- Translates a virtual address for an access from a core (R118, R119): an entry of the core's TLB where there is
one, and otherwise a walk. A number that names no context has no table, and every page of it is unmapped.
DESIGN CHOICE (log 79). -/
def translate (s : State) (die core ctx va : Nat) : Walk :=
  match findCtx s ctx with
  | none => .fault 0x000A
  | some c =>
    match s.mem.tlb.find? (fun e => e.die == die && e.core == core && e.ctx == ctx
        && decide (e.va ≤ va) && decide (va < e.va + e.size)) with
    | some e => .leaf e.va e.size e.pa e.w e.x e.dev e.ksel
    | none => walkFrom s c die va

/-- How an access uses a page. -/
inductive Use where
  | read | write | fetch
  deriving DecidableEq, Repr

/-- A translated access: its location, its key, and whether the page is DEV. -/
structure Acc where
  loc : Nat
  key : KeyTag
  dev : Bool
  deriving DecidableEq, Repr

/-- What a check of an access answers. -/
inductive Chk where
  | fault (code : Nat)
  | ok (a : Acc)
  deriving DecidableEq, Repr

/-- The key that a slot selects at the controller of a byte (R139, R141); none when the slot is empty there. -/
def slotKey (s : State) (slot loc : Nat) : Option KeyTag :=
  (s.mem.keys.find? (fun k => k.stack == loc / 2 ^ 36 && k.slot == slot)).map (fun k => .material k.material)

/-- Checks a GLOBAL access at a virtual address (R117, R139, R141): translation, permission, physical range, key. -/
def checkGlobal (s : State) (die core ctx va : Nat) (u : Use) : Chk :=
  match translate s die core ctx va with
  | .fault c => .fault c
  | .leaf lva size pa w x dev ksel =>
    if (u = .write && !w) || (u = .fetch && !x) then .fault 0x000C
    else match findCtx s ctx with
      | none => .fault 0x000A
      | some c =>
        match physLoc s.pkg c.dev (pa + (va - lva) % size) with
        | none => .fault 0x000D
        | some loc =>
          if ksel then .ok { loc := loc, key := .device, dev := dev }
          else match slotKey s c.kslot loc with
            | none => .fault 0x0010
            | some k => .ok { loc := loc, key := k, dev := dev }

/-- Checks a TILE access of `n` bytes (R127, R128). -/
def checkTile (s : State) (ctx addr n : Nat) : Chk :=
  let h := bits addr 51 40; let off := addr % 2 ^ 40
  match findTile s ctx h with
  | none => .fault 0x000E
  | some t =>
    if t.st = .freeing then .fault 0x000E
    else if t.size < off + n then .fault 0x000F
    else .ok { loc := tileLoc ctx h off, key := .device, dev := false }

end Sys2Proof.Machine
end

