-- ==== Sys2Proof/Machine/Events.lean ====
section
/-! DEFINITION. Time, event sources and event records: open records, appends, counters, notices (R383 to R399). -/

namespace Sys2Proof.Machine

/-! ### Time -/

/-- Nanoseconds since package reset, as the package counts them (R7, R76). -/
def nsNow (s : State) : Nat := s.cycle * 5 / 6

/-- How far a die's TIME lies behind the package's count, at most 8 ns (R76). DESIGN CHOICE (log 10). -/
def skewOf (die : Nat) : Nat := Config.skew die % 9

/-- TIME of a die in a cycle: 0 at the package reset, and never behind by more than 8 ns (R10, R76). -/
def timeAt (die cycle : Nat) : Nat := cycle * 5 / 6 - skewOf die

/-- TIME as a hart on a die reads it (R76). -/
def timeOn (s : State) (die : Nat) : Nat := timeAt die s.cycle

/-! ### Sources -/

/-- SRC of a core (R383). -/
def srcCore (die core : Nat) : BitVec 16 := BitVec.ofNat 16 (die * 64 + core)

/-- SRC of a unit of a kind at a place (R383). -/
def srcOf (kind place unit : Nat) : BitVec 16 := BitVec.ofNat 16 (kind * 4096 + place * 64 + unit)

/-- The live device of lowest index (R396). -/
def lowestDev (p : Pkg) : Nat :=
  match p.mode with
  | .die => if p.hdie = 0 then 1 else 0
  | _ => 0

/-- The device whose event area takes an event that names no context (R396). -/
def devOfSrc (p : Pkg) (src : BitVec 16) : Nat :=
  let kind := src.toNat / 4096; let place := src.toNat / 64 % 64
  match kind with
  | 0 | 1 | 2 | 3 | 9 => devOfDie p place
  | 4 => place
  | 5 | 6 => (devOfStack p place).getD (lowestDev p)
  | 7 =>
    if place = p.hdie then lowestDev p
    else
      let other := match src.toNat % 64 with
        | 0 => place + 1 | 1 => place + 8 | 2 => place - 1 | _ => place - 8
      if other ≠ p.hdie ∧ devOfDie p other ≠ devOfDie p place then lowestDev p else devOfDie p place
  | _ => lowestDev p

/-- The base of a device's event area (R395). -/
def evArea (p : Pkg) : Nat := paLimit p.mode - 2 ^ 24

def findSrc (s : State) (src : BitVec 16) : Source :=
  (s.sources.find? (fun x => x.src == src)).getD { src := src, seq := 0, open_ := none, fenced := false }

def setSrc (s : State) (x : Source) : State :=
  let l := upsert (fun y => y.src == x.src) x (fun _ => x) s.sources
  { s with sources := l }

/-! ### Records -/

/-- The 64 bytes of a record (R391). -/
def evBytes (e : EvRec) (seq : Nat) : List Byte :=
  natLe 8 seq ++ natLe 8 e.time ++ natLe 2 e.src.toNat ++ natLe 2 e.cause.toNat ++ natLe 1 e.sev.toNat
  ++ natLe 1 e.asp.toNat ++ natLe 2 e.ctx.toNat ++ natLe 4 e.hart.toNat ++ natLe 4 e.count
  ++ natLe 8 e.addr.toNat ++ slice e.data 0 16 ++ natLe 8 0

/-- Reads a little-endian field of the event area. -/
def areaGet (s : State) (dev off n : Nat) : Nat :=
  match devRead s dev (evArea s.pkg + off) n with
  | some bs => leNat bs
  | none => 0

def areaPut (s : State) (dev off n v : Nat) : State := devWrite s dev (evArea s.pkg + off) (natLe n v)

/-- A data packet: a request or a response, and not an acknowledgement, a congestion notice or a refusal (R363, R366). -/
def dataOp (op : BitVec 8) : Bool := op != 6 && op != 7 && op != 9

/-- A packet as it leaves (R363): the UDP source port from PATH, and ECT(0) on data packets. -/
def packet (port : Nat) (addr6 : BitVec 128) (path : BitVec 32) (op : BitVec 8) (flags : BitVec 16) (seq ack : BitVec 32)
    (ctx : BitVec 16) (addr : Word) (payload : List Byte) (pois : Bool) : SentPkt :=
  { port := port, addr6 := addr6, srcPort := 0xC000 + BitVec.ofNat 16 (path.toNat % 0x4000), dstPort := 0x1B5E,
    ect := dataOp op, ver := 1, op := op, flags := flags, path := path, seq := seq, ack := ack, ctx := ctx,
    len := BitVec.ofNat 16 payload.length, addr := addr, payload := payload, pois := pois }

/-- The 32-byte header of a packet (R363). -/
def SentPkt.header (p : SentPkt) : List Byte :=
  natLe 1 p.ver.toNat ++ natLe 1 p.op.toNat ++ natLe 2 p.flags.toNat ++ natLe 4 p.path.toNat ++ natLe 4 p.seq.toNat
    ++ natLe 4 p.ack.toNat ++ natLe 2 p.ctx.toNat ++ natLe 2 p.len.toNat ++ natLe 4 0 ++ natLe 8 p.addr.toNat

/-- Sends the notice of a new HEAD to the host (R397), unless the command port is down (R487). -/
def notify (s : State) (dev head : Nat) (sev : Nat) : State :=
  let a := areaGet s dev 0x28 8
  let last := (s.pkg.notified.find? (fun p => p.1 == dev)).map (·.2)
  let due := decide (1 ≤ sev) || (match last with | none => true | some t => decide (t + 100000 ≤ nsNow s))
  if a = 0 || !due then s
  else
    let pk := { s.pkg with notified := (dev, nsNow s) :: s.pkg.notified.filter (fun p => p.1 != dev) }
    let s1 := { s with pkg := pk }
    if (s.eth.find? (fun e => e.port == 32)).any (·.down) then s1
    else
      let pkt := packet 32 s1.pkg.hostAddr 0 3 0 0 0 0xFFFF (BitVec.ofNat 64 a) (natLe 8 head) false
      { s1 with sent := s1.sent ++ [pkt] }

/-- Appends a record to its device's event ring, or drops it and counts it in LOST (R396); then tells the host. -/
def appendRec (s : State) (e : EvRec) (seq : Nat) : State :=
  if s.pkg.fatalAt.isSome then s                       -- no record follows a FATAL one (R398)
  else
    let head := areaGet s e.dev 0x10 8; let tail := areaGet s e.dev 0x18 8
    if (head + 2 ^ 64 - tail) % 2 ^ 64 = 2 ^ 17 then areaPut s e.dev 0x20 8 ((areaGet s e.dev 0x20 8 + 1) % 2 ^ 64)
    else
      let s1 := devWrite s e.dev (evArea s.pkg + 0x800000 + 64 * (head % 2 ^ 17)) (evBytes e seq)
      let s2 := areaPut s1 e.dev 0x10 8 ((head + 1) % 2 ^ 64)
      let s3 := areaPut s2 e.dev (0x100000 + 32 * e.src.toNat + 24) 4 (seq % 2 ^ 32)
      notify s3 e.dev ((head + 1) % 2 ^ 64) (e.sev.toNat % 4)

/-- Closes a source's open record (R393). -/
def closeOpen (s : State) (src : BitVec 16) : State :=
  let x := findSrc s src
  match x.open_ with
  | none => s
  | some (e, seq) => appendRec (setSrc s { x with open_ := none }) e seq

/-- Two events agree in every field from SRC to DATA (R393). -/
def evEqual (a b : EvRec) : Bool :=
  a.src == b.src && a.cause == b.cause && a.sev == b.sev && a.asp == b.asp && a.ctx == b.ctx && a.hart == b.hart
  && a.addr == b.addr && a.data == b.data

/-- Adds an occurrence to the counter table, stopping at 0xFFFFFFFF (R395). -/
def countEv (s : State) (e : EvRec) : State :=
  let off := 0x100000 + 32 * e.src.toNat + 4 * (e.sev.toNat % 4)
  let v := areaGet s e.dev off 4
  if v = 0xFFFFFFFF then s else areaPut s e.dev off 4 (v + 1)

/-- Records an event (R391 to R393). A FATAL record is kept in the memory bridge and the package awaits its
reset (R398). -/
def recordEv (s : State) (e : EvRec) : State :=
  if s.pkg.fatalAt.isSome then s
  else
    let s1 := countEv s e
    let x := findSrc s1 e.src
    if e.sev.toNat % 4 = 0 then
      match x.open_ with
      | some (o, seq) =>
        if evEqual o e && decide (e.time < o.time + 1000000) then
          let o' := { o with count := o.count + 1 }
          let s2 := setSrc s1 { x with open_ := some (o', seq) }
          if o'.count = 0xFFFFFFFF then closeOpen s2 e.src else s2
        else
          let s2 := closeOpen s1 e.src
          let y := findSrc s2 e.src
          setSrc s2 { y with seq := y.seq + 1, open_ := some (e, y.seq) }
      | none => setSrc s1 { x with seq := x.seq + 1, open_ := some (e, x.seq) }
    else
      let s2 := closeOpen s1 e.src
      let y := findSrc s2 e.src
      let s3 := appendRec (setSrc s2 { y with seq := y.seq + 1 }) e y.seq
      if e.sev.toNat % 4 = 3 then
        let pk := { s3.pkg with fatal := (s3.pkg.fatal ++ [evBytes e y.seq]).drop ((s3.pkg.fatal.length + 1) - 16),
                                fatalAt := some s3.cycle }
        { s3 with pkg := pk }
      else s3

/-- An event, from its parts. `ctx` and `hart` set CTXV and HARTV, `addr` with its form sets ADDRV (R391). -/
def mkEv (s : State) (src : BitVec 16) (cause sev : Nat) (ctx hart : Option Nat) (addr : Option (Nat × Nat))
    (data : List Byte) (defer : Bool := false) : EvRec :=
  let die := if src.toNat / 4096 ≤ 3 || src.toNat / 4096 = 7 || src.toNat / 4096 = 9 then src.toNat / 64 % 64 else 0
  { time := timeOn s die, src := src, cause := BitVec.ofNat 16 cause,
    sev := BitVec.ofNat 8 (sev + 4 * b2n ctx.isSome + 8 * b2n addr.isSome + 16 * b2n defer + 32 * b2n hart.isSome),
    asp := BitVec.ofNat 8 ((addr.map (·.1)).getD 0), ctx := BitVec.ofNat 16 (ctx.getD 0),
    hart := BitVec.ofNat 32 (hart.getD 0), count := 1, addr := BitVec.ofNat 64 ((addr.map (·.2)).getD 0),
    data := slice data 0 16,
    dev := match ctx with
      | some c => (match findCtx s c with | some x => x.dev | none => devOfSrc s.pkg src)
      | none => devOfSrc s.pkg src }

/-- Records an event from its parts. -/
def event (s : State) (src : BitVec 16) (cause sev : Nat) (ctx hart : Option Nat) (addr : Option (Nat × Nat))
    (data : List Byte) (defer : Bool := false) : State :=
  recordEv s (mkEv s src cause sev ctx hart addr data defer)

/-- Sets a unit's fence (R384): no work and no data use it until package reset. -/
def fenceSrc (s : State) (src : BitVec 16) : State :=
  let x := findSrc s src
  areaPut (setSrc s { x with fenced := true }) (devOfSrc s.pkg src) (0x100000 + 32 * src.toNat + 16) 4 1

end Sys2Proof.Machine
end

