-- ==== Sys2Proof/Machine/Kill.lean ====
section
/-! DEFINITION. Harts by name, cores, save-area space, tokens, and the start of a kill (R345, R350, R385, R448,
R449). -/

namespace Sys2Proof.Machine

/-! ### Harts by name -/

/-- Every hart the machine holds. -/
def allHarts (s : State) : List Hart := s.hart :: s.others

def findHart (s : State) (uid : Nat) : Option Hart := (allHarts s).find? (fun h => h.id.uid == uid)

/-- Applies `f` to every hart. -/
def mapHarts (s : State) (f : Hart → Hart) : State := { s with hart := f s.hart, others := s.others.map f }

/-- Applies `f` to one hart. -/
def modHart (s : State) (uid : Nat) (f : Hart → Hart) : State :=
  mapHarts s (fun h => if h.id.uid = uid then f h else h)

/-- Makes a hart the focus. -/
def focus (s : State) (uid : Nat) : State :=
  if s.hart.id.uid = uid then s
  else match s.others.find? (fun h => h.id.uid == uid) with
    | none => s
    | some h =>
      let rest := s.others.filter (fun x => x.id.uid != uid)
      { s with hart := h, others := if s.hart.st.life = .absent then rest else s.hart :: rest }

/-- Runs `f` with a hart as the focus, and then gives the focus back; for no hart of the machine, nothing happens.
DEDUCED (log 61). -/
def withHart (s : State) (uid : Nat) (f : State → State) : State :=
  if (findHart s uid).isSome then focus (f (focus s uid)) s.hart.id.uid else s

/-- The hart holds lanes of a core (R30, R50): it is placed, waits after `yield`, or has not left yet. -/
def Hart.onCore (h : Hart) : Bool :=
  match h.st.life with
  | .placed | .yielded | .ending | .stopped _ _ | .leaving _ _ => true
  | _ => false

/-- VLEN of a hart (R31). -/
def Hart.vlen (h : Hart) : Nat := 8192 * 2 ^ h.id.vk.toNat

/-- Lanes of a hart (R30). -/
def Hart.lanes (h : Hart) : Nat := 32 / 2 ^ h.id.part.toNat

/-- SRC of the hart's core. -/
def Hart.src (h : Hart) : BitVec 16 := srcCore h.id.die h.id.core

/-! ### Cores and Weirs -/

/-- The reset state of a core. DESIGN CHOICE (log 18). -/
def coreDflt (die core : Nat) : Core :=
  { die := die, core := core, gr := 0, grNext := [], req := none, lastPe := 0, rel := none, idleSince := 0,
    fenced := false, test := none, testFirst := [], blocked := false, overdue := [], retired := 0, bankPass := [] }

def findCore (s : State) (die core : Nat) : Core :=
  (s.cores.find? (fun c => c.die == die && c.core == core)).getD (coreDflt die core)

def modCore (s : State) (die core : Nat) (f : Core → Core) : State :=
  let l := upsert (fun c => c.die == die && c.core == core) (coreDflt die core) f s.cores
  { s with cores := l }

/-- The reset state of a Weir: the cluster's full budget (R359). DESIGN CHOICE (log 18). -/
def weirDflt (die clus : Nat) : Weir :=
  { die := die, clus := clus, budget := 512, slow := none, fenced := false }

def findWeir (s : State) (die clus : Nat) : Weir :=
  (s.weirs.find? (fun c => c.die == die && c.clus == clus)).getD (weirDflt die clus)

def modWeir (s : State) (die clus : Nat) (f : Weir → Weir) : State :=
  let l := upsert (fun c => c.die == die && c.clus == clus) (weirDflt die clus) f s.weirs
  { s with weirs := l }

/-! ### Contexts and launches -/

def modCtx (s : State) (c : Nat) (f : Ctx → Ctx) : State :=
  let l := updWhere (fun x => x.num == c) f s.ctxs
  { s with ctxs := l }

def findLaunch (s : State) (lid : Nat) : Option Launch := s.launches.find? (fun l => l.lid == lid)

def modLaunch (s : State) (lid : Nat) (f : Launch → Launch) : State :=
  let l := updWhere (fun x => x.lid == lid) f s.launches
  { s with launches := l }

def devDflt (idx : Nat) : Device := { idx := idx, queues := [], rr := 0, resv := [], lastRound := 0 }

def findDev (s : State) (idx : Nat) : Device := (s.devices.find? (fun d => d.idx == idx)).getD (devDflt idx)

def modDev (s : State) (idx : Nat) (f : Device → Device) : State :=
  let l := upsert (fun d => d.idx == idx) (devDflt idx) f s.devices
  { s with devices := l }

/-- Writes a token slot with a generation and a status (R345). Token 0 means none. -/
def signalToken (s : State) (c : Nat) (tok : BitVec 32) (ok : Bool) : State :=
  if tok = 0 then s
  else modCtx s c (fun x =>
    let e : TokenSlot := { slot := tok.toNat % 4096, gen := tok.toNat / 4096, ok := ok }
    { x with tokens := e :: x.tokens.filter (fun t => t.slot != e.slot) })

/-- The status a token has: none while its slot holds another generation (R345). -/
def tokenStatus (x : Ctx) (tok : BitVec 32) : Option Bool :=
  match x.tokens.find? (fun t => t.slot == tok.toNat % 4096) with
  | none => none
  | some t => if t.gen = tok.toNat / 4096 then some t.ok else none

/-! ### Save-area space (R350) -/

/-- Bytes of a saved image (R84). -/
def imageBytes (vlen : Nat) : Nat := 4096 + 76 * (vlen / 8)

/-- The first offset, on a 4 KiB boundary, at which `len` bytes are free. -/
def firstFit (x : Ctx) (len : Nat) : Option Nat :=
  let cands := 0 :: x.spans.map (fun p => roundUp (p.off + p.len) 4096)
  let ok := fun o => decide (o + len ≤ x.savesz) && x.spans.all (fun p => decide (o + len ≤ p.off) || decide (p.off + p.len ≤ o))
  (cands.filter ok).foldl (fun m o => match m with | none => some o | some b => some (min b o)) none

/-- A hart takes up its scalar context and lanes. -/
def Hart.takes (h : Hart) : Bool := h.onCore || h.st.life == .staged

/-- The harts of a gang instance that take up lanes, by ascending flat index. -/
def instHarts (s : State) (lid gi : Nat) : List Hart :=
  sortBy (fun a b => decide (a.id.flat ≤ b.id.flat))
    ((allHarts s).filter (fun h => h.id.launch == lid && h.id.ginst == gi && h.takes))

/-- Holds the space that saving a gang instance needs: an image for each hart and 4,096 bytes of state; none when
it does not fit (R350). -/
def holdSave (s : State) (lid gi : Nat) : Option State :=
  match findLaunch s lid with
  | none => none
  | some l =>
    let hs := instHarts s lid gi
    let need := (4096, none) :: hs.map (fun h => (imageBytes h.vlen, some h.id.uid))
    need.foldl (fun (a : Option State) p => match a with
      | none => none
      | some st => match findCtx st l.ctx with
        | none => none
        | some x => match firstFit x p.1 with
          | none => none
          | some o =>
            let st1 := modCtx st l.ctx (fun x => { x with spans := x.spans ++ [{ off := o, len := p.1, launch := lid, ginst := gi, wrote := none }] })
            some (match p.2 with
              | none => st1
              | some u => modHart st1 u (fun h => { h with st := { h.st with img := some o } }))) (some s)

/-- Frees the space of a gang instance (R350) and lets its context offer victims again. -/
def freeSave (s : State) (ctx lid gi : Nat) : State :=
  modCtx s ctx (fun x => { x with spans := x.spans.filter (fun p => !(p.launch == lid && p.ginst == gi)), saveRefused := [] })

/-- Records that the save of an instance does not fit its area (R350). -/
def saveRefusedEv (s : State) (ctx lid gi : Nat) : State :=
  match findCtx s ctx with
  | none => s
  | some x =>
    let s1 := event s (srcOf 4 x.dev 0) 0x0205 0 (some ctx) none none []
    modCtx s1 ctx (fun x => { x with saveRefused := (lid, gi) :: x.saveRefused })

/-- The hart runs, or is staged to run. -/
def Hart.live (h : Hart) : Bool := h.st.life == .placed || h.st.life == .staged

/-- Asks every hart of a gang instance to stop at its next boundary, as forced (R49). -/
def forceStop (s : State) (lid gi : Nat) : State :=
  mapHarts s (fun h => if h.id.launch = lid ∧ h.id.ginst = gi ∧ h.live = true
    then { h with st := { h.st with yreq := true, stopDue := some true } } else h)

/-! ### The end of a launch -/

/-- The end of a launch releases its holds and its timetable (R333). -/
def millEnd (s : State) (ctx lid : Nat) : State :=
  let s1 := modCtx s ctx (fun c => { c with holds := c.holds.filter (fun h => h.launch != lid) })
  let ms := s1.mills.filter (fun m => m.launch != lid)
  { s1 with mills := ms }

/-- Removes the harts of a launch that has left the machine. -/
def dropHarts (s : State) (lid : Nat) : State :=
  let gone := ((allHarts s).filter (fun h => h.id.launch == lid)).map (·.id.uid)
  { s with hart := if s.hart.id.launch = lid then Hart.reset else s.hart,
           others := s.others.filter (fun h => h.id.launch != lid), pairs := s.pairs.filter (fun p => !gone.contains p.uid) }

/-- A launch leaves the machine: its save-area space, its timetable and its harts go. -/
def dropLaunch (s : State) (l : Launch) : State :=
  let s1 := (List.range l.insts.length).foldl (fun st gi => freeSave st l.ctx l.lid gi) (millEnd s l.ctx l.lid)
  let s2 := dropHarts s1 l.lid
  { s2 with launches := s2.launches.filter (fun x => x.lid != l.lid) }

/-! ### Kill (R448, R449) -/

/-- What a kill does to one hart: zero length, no further instruction, no release; its unpublished writes and its
pending releases are discarded (R449). -/
def killHart (h : Hart) : Hart :=
  { h with st := { h.st with life := .killed, asleep := none, stopDue := none, uiDue := false },
           convoy := none, pend := [], rwrites := [], rreq := none,
           own := h.own.filter (·.done),
           phs := { h.phs with pubp := false, hold := false },
           arr := { h.arr with since := none, chain := none, prod := none, began := none, entered := [] } }

/-- A save that the kill stops leaves its image undefined (R449). DESIGN CHOICE (log 75). -/
def scrambleImage (s : State) (h : Hart) : State :=
  match h.st.life, h.st.img, findCtx s h.id.ctx with
  | .stopped _ _, some o, some x | .leaving _ _, some o, some x =>
    devWrite s x.dev (x.save + o) ((List.range (imageBytes h.vlen)).map (fun i => Config.freeBits 8 s.free (x.save + o + i)))
  | _, _, _ => s

/-- The hart is stopped by the kill of a context; one whose watchdog reached stage 2 in its save is saved first (R482). -/
def killable (c : Nat) (h : Hart) : Bool :=
  h.id.ctx == c && h.st.life != .absent && h.st.life != .ended && !(h.st.hung && h.onCore)

/-- The start of a kill, after its CONTAINED record (R448): queues unbound, launches never placed discarded with
their tokens failed, saved instances no longer candidates, harts stopped. A context already being killed starts
nothing further (R399). -/
def killStart (s : State) (c : Nat) : State :=
  match findCtx s c with
  | none => s
  | some x =>
    if x.kill.isSome then s
    else
      let s1 := modCtx s c (fun x => { x with kill := some s.cycle })
      let ds := s1.devices.map (fun d =>
        let mine := fun (r : (Nat × Nat) × List (Nat × Nat × Nat × Nat)) => s.launches.any (fun l => l.ctx == c && l.lid == r.1.1)
        { d with queues := d.queues.filter (fun q => q.ctx != c), resv := d.resv.filter (fun r => !mine r) })
      let s2 := { s1 with devices := ds }
      let s3 := (s2.launches.filter (fun l => l.ctx == c)).foldl (fun st l => signalToken st c l.doneTok false) s2
      let ls := (s3.launches.filter (fun l => !(l.ctx == c && l.insts.all (fun i => i.st == .never)))).map
        (fun l => if l.ctx = c then { l with insts := l.insts.map (fun i => { i with st := .ended }) } else l)
      let s4 := { s3 with launches := ls }
      let hit := (allHarts s4).filter (killable c)
      let s5 := hit.foldl (fun st h =>
        let st1 := scrambleImage st h
        if h.onCore then modCore st1 h.id.die h.id.core (fun k => { k with idleSince := s.cycle }) else st1) s4
      mapHarts s5 (fun h => if killable c h then killHart h else h)

/-- A CONTAINED event and the kill it starts (R384, R399). -/
def containedKill (s : State) (src : BitVec 16) (cause : Nat) (ctx : Nat) (hart : Option Nat)
    (addr : Option (Nat × Nat)) (data : List Byte) : State :=
  killStart (event s src cause 1 (some ctx) hart addr data) ctx

/-- Consumption of poison kills the hart's context with 0x0420 (R389). -/
def poisonKill (s : State) : State :=
  let h := s.hart
  if h.id.ctx = 0 then
    event s h.src 0x0420 3 none none (some (3, h.pc.toNat)) []
  else containedKill s h.src 0x0420 h.id.ctx (some h.id.flat) (some (3, h.pc.toNat)) []

/-- The stop of an instance that a save has begun, or the hold of its space (R350). -/
def saveBegun (s : State) (lid gi : Nat) : Bool := s.ctxs.any (fun c => c.spans.any (fun p => p.launch == lid && p.ginst == gi))

/-- A hart that is staged on a fenced core leaves again: its registers go from the shadow bank to its image. -/
def unstage (die core now time : Nat) (h : Hart) : Hart :=
  if h.st.life = .staged ∧ h.id.die = die ∧ h.id.core = core then
    { h with st := { h.st with life := .leaving true now, stopDue := none, stopTime := time } } else h

/-- Fences a core (R384). The instances with a hart on it are saved as forced when their state is intact; one context after
another is killed when it may not be, or when the save area cannot hold them (R385, R350). -/
def fenceCore (s : State) (die core : Nat) (intact : Bool) (cause : Nat) : State :=
  let src := srcCore die core
  let s1 := fenceSrc (modCore s die core (fun c => { c with fenced := true })) src
  let hs := (allHarts s1).filter (fun h => h.id.die == die && h.id.core == core && h.takes && h.st.life != .ending)
  let is := (hs.map (fun h => (h.id.ctx, h.id.launch, h.id.ginst))).eraseDups
  let s2 := if !intact then s1 else is.foldl (fun st i =>
    if saveBegun st i.2.1 i.2.2 then forceStop st i.2.1 i.2.2
    else match holdSave st i.2.1 i.2.2 with
      | some st1 => forceStop st1 i.2.1 i.2.2
      | none => saveRefusedEv st i.1 i.2.1 i.2.2) s1
  let lost := is.filter (fun i => !intact || !saveBegun s2 i.2.1 i.2.2)
  let s3 := ((lost.map (·.1)).eraseDups).foldl (fun st c => containedKill st src cause c none none []) s2
  mapHarts s3 (unstage die core s.cycle (timeOn s3 die))

end Sys2Proof.Machine
end

