-- ==== Sys2Proof/Machine/Remote.lean ====
section
/-! DEFINITION. Peer and host window entries, paths, and the packets a hart or an engine sends (R114, R363 to R369). -/

namespace Sys2Proof.Machine

/-- A usable peer or host window entry (R368). -/
structure RemEnt where
  addr6 : BitVec 128
  len : Nat
  port : Nat
  dev : Bool
  /-- Remote context of a peer entry; 0xFFFF for a window. -/
  rctx : BitVec 16
  /-- Base in host memory of a window; 0 for a peer. -/
  rbase : Nat
  deriving DecidableEq, Repr

/-- Reads an entry with the device key; none when it is invalid (R114, R368). An entry that cannot be read, and one whose
port number is above 32, count as invalid. DESIGN CHOICE (log 84). -/
def remEntry (s : State) (c : Ctx) (host : Bool) (idx : Nat) : Option RemEnt :=
  if (if host then c.nhwin else c.npeer) ≤ idx then none
  else match devRead s c.dev ((if host then c.hwint else c.peert) + 32 * idx) 32 with
    | none => none
    | some b =>
      let l := fld b 16 8; let r := fld b 24 8
      let port := if host then 32 else bits l 53 48
      if !l.testBit 55 || bits l 63 56 ≠ 0 || (!host && r / 65536 ≠ 0) || 32 < port then none
      else some { addr6 := BitVec.ofNat 128 (fld b 0 16), len := bits l 47 0, port := port, dev := l.testBit 54,
                  rctx := if host then 0xFFFF else BitVec.ofNat 16 r, rbase := if host then r else 0 }

/-- A new path to a remote address, its SEQ starting at 0 (R365, R486). -/
def newPath (s : State) (port : Nat) (addr6 : BitVec 128) : Path :=
  { port := port, num := BitVec.ofNat 32 s.fresh, addr6 := addr6, txSeq := 0, out := [], timeout := 100, tries := 0, since := 0,
    rate := if port = 32 then 1600000 else 800000, lastCnp := 0, rxNext := 0, held := [], unacked := 0,
    lastArrival := 0, stored := [], rxw := [], relAt := [], lastCnpSent := 0, failed := false }

/-- Sends one request on the path of a port and remote address, opening a path when there is none (R365). The
issuer waits on `rid`. -/
def sendReq (s : State) (port : Nat) (addr6 : BitVec 128) (op : BitVec 8) (rctx : BitVec 16) (addr : Word)
    (payload : List Byte) (pois : Bool) (rid ctx : Nat) : State :=
  let is := fun p : Path => p.port == port && p.addr6 == addr6 && !p.failed
  let old := s.paths.find? is
  let p := old.getD (newPath s port addr6)
  let req : OutReq := { seq := p.txSeq, op := op, rid := rid, ctx := ctx, rctx := rctx, addr := addr, payload := payload,
                        pois := pois, acked := false }
  let p1 := { p with txSeq := p.txSeq + 1, out := p.out ++ [req], since := if p.out.all (·.acked) then nsNow s else p.since }
  let pkt := packet port addr6 p.num op 0 p.txSeq (p.rxNext - 1) rctx addr payload pois
  let ps := if old.isSome then updWhere is (fun _ => p1) s.paths else s.paths ++ [p1]
  { s with paths := ps, sent := s.sent ++ [pkt], fresh := s.fresh + 1 }

/-- The answer to a request, when it has arrived. -/
def answerOf (s : State) (rid : Nat) : Option RemoteAns := s.answers.find? (fun a => a.rid == rid)

/-- A request number is still unacknowledged on some path. -/
def ridOut (s : State) (rid : Nat) : Bool := s.paths.any (fun p => !p.failed && p.out.any (fun o => o.rid == rid))

end Sys2Proof.Machine
end

