-- ==== Sys2Proof/Machine/Ops.lean ====
section
/-! DEFINITION. The shared operations of a hart: registers, traps, transfer and retirement, the fate of an access,
loads, stores, strong accesses, releases, acquires and pins. -/

namespace Sys2Proof.Machine

/-- The outcome of a meaning. -/
abbrev Out := Host.Outcome State Fault Refusal

/-! ### Code addresses (R40, R146, R160) -/

/-- LINE of a code address. -/
def lineOf (pc : Word) : Word := pc >>> 6

/-- SLOT of a code address. -/
def slotOf (pc : Word) : Nat := pc.toNat % 8

/-- The code address of a line and slot. -/
def codeAddr (line : Word) (slot : Nat) : Word := (line <<< 6) + BitVec.ofNat 64 slot

/-- The next slot: slot + 1 of the same line, or slot 0 of the following line after slot 4. -/
def nextSlot (pc : Word) : Word := if slotOf pc < 4 then pc + 1 else codeAddr (lineOf pc + 1) 0

/-- Bits [63:48] of an address are not all zero. -/
def wide (a : Word) : Bool := a >>> 48 != 0

/-- The target of a line-relative transfer (R160). -/
def target (pc : Word) (imm : BitVec 32) (slot : Slot) : Word := codeAddr (lineOf pc + imm.signExtend 64) slot.val

/-- `FAIL(c)` (R125). -/
def failCode (c : Nat) : Word := 0xFFFFFFFFFFFFF000 + BitVec.ofNat 64 c

/-! ### Scalar registers (R59, R387) -/

/-- The value of a scalar register: x0 is zero, and x56 to x63 name copy B while ACT is 1. -/
def getX (h : Hart) (r : XReg) : Word :=
  if r.val = 0 then 0
  else if h.ui.act && decide (56 ≤ r.val) then h.sc.xb.toList.getD (r.val - 56) 0
  else h.sc.x[r.val]

/-- The poison mark of a scalar register; x0 is never poisoned. -/
def poisX (h : Hart) (r : XReg) : Bool :=
  if r.val = 0 then false
  else if h.ui.act && decide (56 ≤ r.val) then h.sc.pxb.getLsbD (r.val - 56)
  else h.sc.px.getLsbD r.val

/-- Writes a scalar register and its poison mark; a write to x0 is discarded. -/
def setXH (h : Hart) (r : XReg) (v : Word) (p : Bool := false) : Hart :=
  if r.val = 0 then h
  else if h.ui.act && decide (56 ≤ r.val) then
    { h with sc := { h.sc with xb := h.sc.xb.setIfInBounds (r.val - 56) v,
                               pxb := putBits h.sc.pxb (r.val - 56) 1 (b2n p) } }
  else { h with sc := { h.sc with x := h.sc.x.set r.val v, px := putBits h.sc.px r.val 1 (b2n p) } }

/-- Changes the focus hart. -/
def State.onHart (s : State) (f : Hart → Hart) : State := { s with hart := f s.hart }

def State.x (s : State) (r : XReg) : Word := getX s.hart r

def State.setX (s : State) (r : XReg) (v : Word) (p : Bool := false) : State := s.onHart (fun h => setXH h r v p)

/-- The odd register of a pair (R178). -/
def oddOf (r : XReg) : XReg := ⟨r.val / 2 * 2 + 1, by omega⟩

/-! ### Traps (R401, R403) -/

/-- A double trap (R403): the hart stops and its context is killed; a hart of no context makes it FATAL. -/
def doubleTrap (s : State) : State :=
  let h := s.hart; let tv := h.trap.tvec.toNat
  let s0 := s.onHart (fun h => { h with st := { h.st with life := .killed, asleep := none } })
  if h.id.ctx = 0 then event s0 h.src 0x001D 3 none none (some (3, tv)) []
  else containedKill s0 h.src 0x001D h.id.ctx (some h.id.flat) (some (3, tv)) []

/-- The register changes of `take_trap` (R401). -/
def trapEntry (h : Hart) (code : Nat) (val pc : Word) : Hart :=
  { h with
    trap := { h.trap with code := BitVec.ofNat 16 code, ppriv := h.st.priv, puia := h.ui.act, tval := val, tpc := pc },
    ui := { h.ui with act := true },
    st := { h.st with priv := true, fresh := true, inHandler := h.st.inHandler || !h.st.priv, entry := some 0,
                      asleep := none, half := false },
    pc := h.trap.tvec, convoy := none, rreq := none, gathered := [],
    arr := { h.arr with chain := none, began := none, entered := [] } }

/-- Takes a trap at a restart point. -/
def takeTrapAt (s : State) (code : Nat) (val pc : Word) : State :=
  if s.hart.st.fresh && pc == s.hart.trap.tvec then doubleTrap s
  else s.onHart (fun h => trapEntry h code val pc)

/-- Takes a trap at the present instruction. -/
def takeTrap (s : State) (code : Nat) (val : Word) : State := takeTrapAt s code val s.hart.pc

/-- The return from a trap (R195): pc from TPC with no TGT check, PRIV and ACT as before the trap. A forced stop that
waited for this boundary is then due (R404). -/
def trapReturn (h : Hart) : Hart :=
  { h with
    pc := h.trap.tpc,
    ui := { h.ui with act := h.trap.puia },
    st := { h.st with priv := h.trap.ppriv, inHandler := h.st.inHandler && h.trap.ppriv, entry := none,
                      fresh := false } }

/-! ### Retirement, loops and transfer (R146, R186, R190) -/

/-- The marks of a retirement: the handler is no longer fresh (R403) and the watchdog restarts (R480). -/
def retireMarks (now : Nat) (h : Hart) : Hart :=
  { h with st := { h.st with fresh := false, lastRetire := now, retired := h.st.retired + 1, asleep := none,
                             wdStage := 0, half := false },
           rreq := none }

/-- The end check of one loop at a code address (R190): none when it is not made, else the loop registers after it
and the slot it goes back to. The pending values take effect at this boundary (R79). -/
def loopEnd (l : LoopRegs) (pc : Word) : Option (LoopRegs × Option Word) :=
  if l.lc = 0 ∨ pc ≠ l.le then none
  else
    let l1 : LoopRegs := { l with lb := l.lbP.getD l.lb, le := l.leP.getD l.le, lbP := none, leP := none }
    if 1 < l.lc.toNat then some ({ l1 with lc := l.lc - 1 }, some l1.lb) else some ({ l1 with lc := 0 }, none)

/-- What the end checks of an instruction's slot decide. -/
inductive EndRes where
  | falls (h : Hart)
  | back (h : Hart) (t : Word)
  deriving DecidableEq, Repr

/-- The end checks: loop 1 first, and loop 0 only when loop 1 falls through (R190). DEDUCED (log 56). -/
def endCheck (h : Hart) (pc : Word) : EndRes :=
  match loopEnd h.loop1 pc with
  | some (l, some t) => .back { h with loop1 := l } t
  | r =>
    let h1 := match r with | some (l, none) => { h with loop1 := l } | _ => h
    match loopEnd h1.loop0 pc with
    | some (l, some t) => .back { h1 with loop0 := l } t
    | some (l, none) => .falls { h1 with loop0 := l }
    | none => .falls h1

/-- Retires the instruction at `last` (for a convoy, its last member) and continues in sequence or loops back.
`s0` is the state before the instruction, in which a loop-back out of the address range traps (R186). -/
def retireAt (s0 s : State) (last : Word) : State :=
  match endCheck s.hart last with
  | .falls h =>
    { s with hart := retireMarks (nsNow s) { h with pc := nextSlot last, st := { h.st with entry := none } } }
  | .back h t =>
    if wide t then takeTrap s0 0x0008 t
    else { s with hart := retireMarks (nsNow s) { h with pc := t, st := { h.st with entry := some last } } }

/-- Retires the present instruction. -/
def retire (s0 s : State) : State := retireAt s0 s s.hart.pc

/-- Retires a member of class SOLO: its convoy completes, and VES is 0 (R68, R156). -/
def retireSolo (s0 s : State) : State := retire s0 (s.onHart (fun h => { h with vc := { h.vc with ves := 0 } }))

/-- `goto(t)` by a transferring instruction, whose range check has passed (R186). The TGT check follows at the slot
entered. -/
def transfer (s : State) (t : Word) : State :=
  { s with hart := retireMarks (nsNow s) { s.hart with pc := t, st := { s.hart.st with entry := some s.hart.pc } } }

/-- Puts the hart to sleep in a wait; the instruction has not retired. -/
def asleepOn (s : State) (k : WaitKind) : State := s.onHart (fun h => { h with st := { h.st with asleep := some k } })

/-- Consumption of poison at issue (R389): kills the context when one of the registers is poisoned. -/
def consume (s : State) (rs : List XReg) (k : State → State) : State :=
  if rs.any (poisX s.hart) then poisonKill s else k s

/-! ### Memory traps -/

/-- Records 0x0501 at the controller that refused a request for its key (R447). -/
def noKeyEvent (s : State) (ctx : Nat) (va : Nat) : State :=
  match findCtx s ctx with
  | none => s
  | some c =>
    match walk s c va with
    | .leaf lva size pa _ _ _ _ => match physLoc s.pkg c.dev (pa + (va - lva) % size) with
      | some loc => event s (srcOf 5 (loc / 2 ^ 36) 0) 0x0501 0 (some ctx) none (some (0, va)) []
      | none => s
    | .fault _ => s

/-- Takes the trap of a memory access (R416). -/
def memTrap (s : State) (code : Nat) (ea : Word) : State :=
  takeTrap (if code = 0x0010 then noKeyEvent s s.hart.id.ctx ea.toNat else s) code ea

/-- The fault code of a completion record for a trap code (R327). -/
def faultCode (trap : Nat) : Nat :=
  match trap with
  | 0x08 => 1 | 0x09 => 6 | 0x0A => 2 | 0x0B => 3 | 0x0C => 4 | 0x0D => 5 | 0x0E => 7 | 0x0F => 8 | 0x10 => 10
  | _ => 11

/-! ### Plain accesses of the focus hart (R179, R280, R285) -/

/-- The location is in the destination, or for a write also in the source, of a copy whose completion the hart has
not observed (R285). -/
def copyRaces (s : State) (loc : Nat) (write : Bool) : Bool :=
  let h := s.hart
  s.ports.any (fun p => p.flat == h.id.flat && p.ctx == h.id.ctx &&
    p.cmds.any (fun c => c.launch == h.id.launch && c.fetch.isNone && (c.dst.contains loc || (write && c.src.contains loc))))
  || s.copies.any (fun c => c.launch == h.id.launch && c.flat == h.id.flat && c.ctx == h.id.ctx
    && !h.obs.contains c.cid && (c.dst.contains loc || (write && c.src.contains loc)))

/-- The destination bytes of a copy that a race on one of its bytes leaves undefined: the byte itself, and those that
take it as their source (R285). -/
def racedDst (src dst : List Nat) (loc : Nat) : List Nat :=
  dst.filter (· == loc) ++ (dst.zipIdx.filter (fun p => src.getD (p.2 % max 1 src.length) loc == loc && src.contains loc)).map (·.1)

/-- Makes the bytes of performed writes undefined. -/
def breakBytes (s : State) (wids locs : List Nat) : State :=
  let hit := fun (w : WRec) => wids.contains w.wid && locs.contains w.loc
  let cells := locs.foldl (fun c l =>
    if (s.mem.log.find? (fun w => w.loc == l)).any hit then cellSet c l (Config.freeBits 8 s.free l) else c) s.mem.cells
  let log := s.mem.log.map (fun w => if hit w then { w with byte := Config.freeBits 8 s.free w.loc } else w)
  { s with mem := { s.mem with cells := cells, log := log } }

/-- A raced byte makes bytes of the copies it belongs to undefined, whether they have been appended or not (R285). -/
def breakCopies (s : State) (loc : Nat) : State :=
  let mine := fun (p : Port) (c : Cmd) => p.flat == s.hart.id.flat && p.ctx == s.hart.id.ctx && c.launch == s.hart.id.launch
  let ps := s.ports.map (fun p =>
    let cs := updWhere (mine p) (fun c => { c with broken := c.src.filter (· == loc) ++ racedDst c.src c.dst loc ++ c.broken }) p.cmds
    { p with cmds := cs })
  let done := s.copies.filter (fun c => c.launch == s.hart.id.launch && c.flat == s.hart.id.flat
    && c.ctx == s.hart.id.ctx && !s.hart.obs.contains c.cid)
  done.foldl (fun st c => breakBytes st c.wids (racedDst c.src c.dst loc)) { s with ports := ps }

/-- The bytes of a list at some places, left open. -/
def freeAt (free loc : Nat) (c : List Nat) (bs : List Byte) : List Byte :=
  if c.isEmpty then bs
  else (List.range bs.length).map (fun i => if c.contains i then Config.freeBits 8 free (loc + i) else bs.getD i 0)

/-- A race of a strong access with copies at some bytes of its range: they are undefined, there and in the copies (R285). -/
def breakRange (s : State) (loc : Nat) (c : List Nat) (old : List Byte) : State × List Byte :=
  (c.foldl (fun st i => breakCopies st (loc + i)) s, freeAt s.free loc c old)

/-- Reads `n` bytes as a plain load: the bytes, their poison, and the state after any race with a copy, whose bytes
the hart's view then holds undefined. -/
def plainRead (s : State) (k : KeyTag) (loc n : Nat) : State × List Byte × Bool :=
  let raced := (List.range n).filter (fun i => copyRaces s (loc + i) false)
  if raced.isEmpty then (s, viewBytes s s.hart k loc n, viewPois s s.hart loc n)
  else
    let s1 := raced.foldl (fun st i =>
      ownStore (breakCopies st (loc + i)) k (loc + i) 0 [Config.freeBits 8 s.free (loc + i)] false) s
    (s1, viewBytes s1 s1.hart k loc n, viewPois s1 s1.hart loc n)

/-- Writes bytes as a plain store. -/
def plainWrite (s : State) (k : KeyTag) (loc va : Nat) (bs : List Byte) (pois : Bool) : State :=
  let raced := (List.range bs.length).filter (fun i => copyRaces s (loc + i) true)
  if raced.isEmpty then ownStore s k loc va bs pois
  else
    let s1 := raced.foldl (fun st i => breakCopies st (loc + i)) s
    ownStore s1 k loc va (freeAt s.free loc raced bs) pois

/-- The checks of a scalar access (R178), or of one GLOBAL element: address, alignment, then the faults of R117. -/
def globalCheck (s : State) (h : Hart) (ea : Word) (align : Nat) (u : Use) : Chk :=
  if wide ea then .fault 0x0008
  else if ea.toNat % align ≠ 0 then .fault 0x0009
  else checkGlobal s h.id.die h.id.core h.id.ctx ea.toNat u

/-! ### Releases (R274) -/

/-- The barrier of a launch level instance. -/
def modBarrier (s : State) (lid level inst : Nat) (f : Barrier → Barrier) : State :=
  let d : Barrier := { level := level, inst := inst, gen := 0, arrived := [], performed := [], syncs := [] }
  modLaunch s lid (fun l => { l with barriers := upsert (fun b => b.level == level && b.inst == inst) d f l.barriers })

/-- Harts in one instance of a level: the product of the counts up to it (R36). -/
def levelSize (l : Launch) (n : Nat) : Nat := ((l.levels.take (n + 1)).map (·.count)).foldl (· * ·) 1

/-- The launch of the focus hart. -/
def myLaunch (s : State) : Option Launch := findLaunch s s.hart.id.launch

/-- Whether a hart's instance of a scope spans more than one die (R275). -/
def spansDies (s : State) (sc : Scope) : Bool :=
  match sc with
  | .hart | .core | .cluster | .die => false
  | .device => s.pkg.mode != .die
  | .system => true

/-- A strong write at the home that joins no hart's writes; no release publishes it when it is `quiet` (R303). -/
def strongLay (s : State) (k : KeyTag) (loc : Nat) (bs : List Byte) (pois : Bool) (quiet : Bool := false) : State :=
  let s1 := putHome s k loc bs pois
  { s1 with mem := { logBytes s1.mem k loc bs pois true [] quiet with phase := s1.mem.phase + 1 } }

/-- A strong write of the focus hart: at the home, and per byte among the hart's own writes (R184, R277). -/
def strongWrite (s : State) (k : KeyTag) (loc : Nat) (bs : List Byte) (pois : Bool) (quiet : Bool := false) : State :=
  let n := s.mem.nextWid
  let own := (bs.zipIdx).foldl (fun (a : List OwnByte) p =>
    { wid := n + p.2, loc := loc + p.2, va := 0, byte := p.1, pois := pois, key := k, acc := n, done := true, ov := true } :: a) s.hart.own
  (strongLay s k loc bs pois quiet).onHart (fun h => { h with own := own })

/-- A strong access that reads only. -/
def strongTick (s : State) : State := { s with mem := { s.mem with phase := s.mem.phase + 1 } }

/-! ### Strong accesses (R282 to R284, R440) -/

/-- The parties of R270 beside the harts: the Bolter, the Millrace and the rings of a die, whose structures are accessed
whole; a copy; and the remote party of a path. -/
def engineParty (die : Nat) : Nat := 2 ^ 48 + die
def copyParty (cid : Nat) : Nat := 2 ^ 64 + cid
def pathParty (q : Path) : Nat := 2 ^ 128 + q.port * 2 ^ 32 + q.num.toNat

/-- The parties of a kept strong access and of a new one are ordered: the first party has since performed a release,
and the new party then an acquire that sees it (R283). A copy is ordered before a hart that has observed it, and a remote
party by its release and an acquire of SYSTEM scope. -/
def orderedBy (s : State) (r : OvlRec) (h : Hart) : Bool :=
  if 2 ^ 128 ≤ r.party then
    s.paths.any (fun q => pathParty q == r.party && q.relAt.any (fun e => decide (r.at_ < e) &&
      h.acqAt.any (fun a => a.1 == .system && decide (e ≤ a.2))))
  else if 2 ^ 64 ≤ r.party then h.obs.contains (r.party - 2 ^ 64)
  else match findHart s r.party with
  | none => true
  | some p => p.relAt.any (fun e => decide (r.at_ < e.2) &&
      h.acqAt.any (fun q => decide (e.2 ≤ q.2) && share (minScope e.1 q.1) p.place h.place))

/-- The kept access overlaps the range but does not equal it. -/
def ovlDiffers (r : OvlRec) (loc n : Nat) : Bool :=
  let a := r.line * 128 + r.lo
  decide (a < loc + n) && decide (loc < a + r.len) && !(a == loc && r.len == n)

/-- The overlap check of R440: the record that makes it fire. -/
def ovlFires (s : State) (h : Hart) (loc n : Nat) : Option OvlRec :=
  if !s.pkg.setOvl then none
  else match s.mem.ovl.find? (fun r => r.line == loc / 128) with
    | none => none
    | some r =>
      if r.party != h.id.uid && ovlDiffers r loc n
        && !h.acqAt.any (fun q => containsHome s q.1 h.place loc && decide (r.at_ ≤ q.2)) then some r else none

/-- The bytes of a range that overlap an unordered strong access of another range (R283). -/
def racedBytes (s : State) (h : Hart) (loc n : Nat) : List Nat :=
  let rs := s.mem.ovl.filter (fun r => r.party != h.id.uid && ovlDiffers r loc n && !orderedBy s r h)
  (List.range n).filter (fun i => rs.any (fun r =>
    decide (r.line * 128 + r.lo ≤ loc + i) && decide (loc + i < r.line * 128 + r.lo + r.len)))

/-- Keeps the record of a strong access. -/
def keepOvl (s : State) (h : Hart) (loc n : Nat) : State :=
  let r : OvlRec := { line := loc / 128, lo := loc % 128, len := n, ctx := h.id.ctx, flat := h.id.flat,
                      party := h.id.uid, at_ := s.mem.phase }
  { s with mem := { s.mem with ovl := r :: s.mem.ovl } }

/-- The last two strong writes of a byte: those of the accesses that overlap there. -/
def lastStrong (m : Mem) (loc : Nat) : List Nat :=
  ((m.log.filter (fun w => w.strong && w.loc == loc)).take 2).map (·.wid)

/-- Makes a byte undefined (R283): at the home, in the coherence order, and in the overlays of the harts that wrote it. -/
def scrambleByte (s : State) (k : KeyTag) (loc : Nat) : State :=
  let b := Config.freeBits 8 s.free loc
  let ws := lastStrong s.mem loc
  let s1 := putHome s k loc [b] false
  let log := s1.mem.log.map (fun w => if ws.contains w.wid then { w with byte := b } else w)
  mapHarts { s1 with mem := { s1.mem with log := log } } (fun h =>
    { h with own := h.own.map (fun o => if ws.contains o.wid then { o with byte := b } else o) })

/-- Makes the raced bytes of a range undefined (R283). DESIGN CHOICE (log 86). -/
def scramble (s : State) (k : KeyTag) (loc : Nat) (is : List Nat) : State :=
  is.foldl (fun st i => scrambleByte st k (loc + i)) s

/-- The hart's stores that a strong access to a range performs first (R184): those to its bytes, each whole (R181), and
with them the earlier ones that they overlay, in program order (R279). DEDUCED (log 87). -/
def earlierStores (own : List OwnByte) (loc n : Nat) : List Nat :=
  let todo := own.filter (fun o => !o.done)
  let hit := ((todo.map (·.acc)).eraseDups).foldl (fun (hit : List OwnByte) a =>
    let g := todo.filter (fun o => o.acc == a)
    if g.any (fun o => (decide (loc ≤ o.loc) && decide (o.loc < loc + n)) || hit.any (fun x => x.loc == o.loc)) then g ++ hit
    else hit) []
  hit.map (·.wid)

/-- The trap and the event of R440. -/
def ovlTrap (s : State) (ea : Word) (r : OvlRec) : State :=
  let h := s.hart
  let s1 := event s h.src 0x0404 0 (some h.id.ctx) (some h.id.flat) (some (0, ea.toNat))
    (natLe 2 r.ctx ++ natLe 2 0 ++ natLe 4 r.flat)
  takeTrap s1 0x001C ea

/-- A strong access of the focus hart that reads `n` bytes at their home and may write them: the hart's own earlier
stores to them are performed first, in the same step (R184). Answers the state, the old bytes and their poison. -/
def strongAccess (s : State) (a : Acc) (n : Nat) (f : Nat → Option (List Byte)) (pois : Bool) :
    State × List Byte × Bool :=
  let raced := racedBytes s s.hart a.loc n
  let (s1, h1) := performOwn s s.hart (earlierStores s.hart.own a.loc n) true
  let s2 := scramble (keepOvl { s1 with hart := h1 } h1 a.loc n) a.key a.loc raced
  let p := homePois s2.mem a.loc n
  let old := homeBytes s2 a.key a.loc n
  let c := (List.range n).filter (fun i => copyRaces s (a.loc + i) (f (leNat old)).isSome)
  let (s3, old) := if c.isEmpty then (s2, old) else breakRange s2 a.loc c old
  match f (leNat old) with
  | none => (strongTick s3, old, p)
  | some bs =>
    (scramble (strongWrite s3 a.key a.loc (freeAt s.free a.loc c bs) (pois || p)) a.key a.loc raced, old, p)

/-- A scalar or element access to a DEV page (R121, R180): performed once at the home. -/
def devLoad (s : State) (a : Acc) (n : Nat) : State × List Byte × Bool := strongAccess s a n (fun _ => none) false

def devStore (s : State) (a : Acc) (bs : List Byte) (pois : Bool) : State :=
  (strongAccess s a bs.length (fun _ => some bs) pois).1

/-! ### Pins and free lists (R297 to R299) -/

/-- A 16-byte strong access to a page descriptor by the Bolter: where its bytes 0x10 to 0x1F lie (R297). -/
def pinPlace (s : State) (h : Hart) (desc : Nat) : Chk :=
  match globalCheck s h (BitVec.ofNat 64 (desc + 16)) 16 .write with
  | .fault c => .fault c
  | .ok a => if a.dev then .fault 0 else .ok a

/-- `push(desc, h)` of R298, with the head's location already checked: strong accesses to the head, LINK and the head. -/
def pushFree (s : State) (desc : Nat) (d head : Acc) : State :=
  let r := strongAccess s head 8 (fun _ => none) false
  let s1 := strongWrite r.1 d.key (d.loc + 8) r.2.1 r.2.2
  (strongAccess s1 head 8 (fun _ => some (natLe 8 desc)) false).1

/-- Records 0x0405 (R439). -/
def pinEvent (s : State) (desc link code : Nat) (kind : Nat) : State :=
  event s s.hart.src 0x0405 0 (some s.hart.id.ctx) none (some (0, desc)) (natLe 8 link ++ natLe 2 code ++ natLe 1 kind)

/-- The fault code of a pin release: the spec gives none for a DEV page (R439). -/
def pinCode (s : State) (c : Nat) : Nat := if c = 0 then (Config.freeBits 16 s.free 0x405).toNat else faultCode c

/-- The parts of bytes 0x10 to 0x1F of a page descriptor (R297). -/
def pdRef (v : Nat) : Nat := bits v 31 0
def pdSpin (v : Nat) : Nat := bits v 47 32
def pdStat (v : Nat) : Nat := bits v 63 48
def pdLink (v : Nat) : Nat := bits v 127 64

/-- STAT[15:2] is reserved and zero: a unit rejects a descriptor in which it is not (R11, R297). -/
def pdBad (v : Nat) : Bool := pdStat v != pdStat v % 4

/-- Bytes 0x10 to 0x1F of a page descriptor from their parts. -/
def pdBytes (ref spin stat link : Nat) : List Byte := natLe 4 ref ++ natLe 2 spin ++ natLe 2 stat ++ natLe 8 link

/-- Releases one pin of the focus hart (R299, R438, R439). DEDUCED (log 100). -/
def unpin (s : State) (desc : Nat) : State :=
  match pinPlace s s.hart desc with
  | .fault c => pinEvent s desc 0 (pinCode s c) 1
  | .ok a =>
    if homePois s.mem a.loc 16 then pinEvent s desc 0 9 1
    else if pdBad (leNat (homeBytes s a.key a.loc 16)) then pinEvent s desc 0 (pinCode s 0) 1
    else
      let last := fun v => decide (pdSpin v ≤ 1) && (pdStat v).testBit 1
      let head := fun v => globalCheck s s.hart (BitVec.ofNat 64 (pdLink v)) 8 .write
      let r := strongAccess s a 16 (fun v =>
        let stat := if last v then (match head v with | .fault _ => 2 | .ok _ => 0) else pdStat v
        some (pdBytes (pdRef v) (pdSpin v - 1) stat (pdLink v))) false
      let v := leNat r.2.1
      if last v then
        match head v with
        | .fault c => pinEvent r.1 desc (pdLink v) (faultCode c) 0
        | .ok hd => pushFree r.1 desc a hd
      else r.1

/-- Releases the pins that a boundary drops: for an acquire those with W = 0, for a performed release those that the
list held when it retired (R299). The partner of a redundant pair holds no pin of its own (R461). DEDUCED (log 28). -/
def dropPins (s : State) (drops : Nat × Bool → Bool) : State :=
  let go := s.hart.bolter.pins.filter drops
  let keep := s.hart.bolter.pins.filter (fun p => !drops p)
  let s1 := if s.hart.id.partner then s else go.foldl (fun st p => unpin st p.1) s
  s1.onHart (fun h => { h with bolter := { h.bolter with pins := keep } })

/-- How a barrier knows a hart: a partner's entries lie apart, since a redundant pair counts as one (R353). -/
def barKey (h : Hart) : Nat := h.id.flat + (if h.id.partner then 2 ^ 32 else 0)

/-- Ends the generation of a barrier once every hart has arrived and every arriving hart's release is performed
(R353). -/
def barrierEnd (s : State) (lid level inst : Nat) : State :=
  match findLaunch s lid with
  | none => s
  | some l =>
    match l.barriers.find? (fun b => b.level == level && b.inst == inst) with
    | none => s
    | some b =>
      let vis := b.arrived.filter (fun f => decide (f < 2 ^ 32))
      if vis.length = levelSize l level ∧ vis.all b.performed.contains = true then
        modBarrier s lid level inst (fun b => { b with gen := b.gen + 1, arrived := [], performed := [] })
      else s

/-- What follows a performed release: a barrier arrival counts as performed (R353); a hart's end is complete
(R58). -/
def releaseThen (s : State) (a : RelThen) : State :=
  match a with
  | .nothing => s
  | .arrive level inst =>
    if s.hart.id.partner then s
    else
      let lid := s.hart.id.launch
      barrierEnd (modBarrier s lid level inst (fun b => { b with performed := s.hart.id.flat :: b.performed })) lid level inst
  | .hartEnd =>
    let s1 := s.onHart (fun h => { h with st := { h.st with life := .ended } })
    if s.hart.id.partner then s1
    else modLaunch s1 s.hart.id.launch (fun l => { l with ended := s.hart.id.flat :: l.ended })

/-- Performs the oldest pending release of the focus hart (R274): once, under redundant execution, the signatures agree, its
writes reach their homes and are published. Its remote writes were acknowledged at their elements (R369). -/
def performOldest (s : State) : State :=
  match s.hart.pend with
  | [] => s
  | r :: rest =>
    if !r.agreed then s
    else
      let s0 := dropPins s r.pins.contains
      let s1 :=
        if s.hart.id.partner then
          s0.onHart (fun h => { h with own := h.own.map (fun o => if r.set.contains o.wid then { o with done := true } else o) })
        else
          let (a, h1) := performOwn s0 s0.hart r.set false
          let m := publish a.mem r.set { scope := r.scope, place := s0.hart.place }
          { a with mem := { m with phase := m.phase + 1 }, hart := h1 }
      let s2 := s1.onHart (fun h =>
        { h with pend := rest, phs := { h.phs with pubp := !rest.isEmpty }, relAt := (r.scope, s1.mem.phase) :: h.relAt })
      releaseThen s2 r.after

/-- Performs every pending release that can be performed now, oldest first. DEDUCED (log 7). -/
def flushPend (s : State) : State := forN s.hart.pend.length s (fun _ st => performOldest st)

/-- Waits until the pending releases are performed (R274): goes on when none remains, and otherwise leaves the
instruction where it is. -/
def afterReleases (s : State) (k : State → State) : State :=
  let s1 := flushPend s
  if s1.hart.pend.isEmpty then k s1 else s1

/-! ### The phase signature (R459) -/

/-- One bit of the CRC-64 of R459. -/
def crcBit (c : BitVec 64) : BitVec 64 := if c.msb then (c <<< 1) ^^^ 0x42F0E1EBA9EA3693 else c <<< 1

/-- One byte of it. -/
def crcByte (c : BitVec 64) (b : Byte) : BitVec 64 := forN 8 (c ^^^ (b.setWidth 64 <<< 56)) (fun _ c => crcBit c)

def crc64 (l : List Byte) : BitVec 64 := ~~~(l.foldl crcByte (BitVec.allOnes 64))

/-- H(g) of a granule address, space, written bytes (offset and value, newest first), held bytes and poison. -/
def granHash (space addr : Nat) (written : List Nat) (held : List (Nat × Byte)) (pois : Bool) : BitVec 64 :=
  let mask := written.foldl (fun m i => m ||| BitVec.twoPow 64 i) (0 : BitVec 64)
  let body := (List.range 64).map (fun i => ((held.find? (fun p => p.1 == i)).map (·.2)).getD 0)
  crc64 (natLe 8 addr ++ natLe 8 mask.toNat ++ body ++ [BitVec.ofNat 8 (space % 4 + 4 * b2n pois)])

/-- The phase signature of the focus hart: the XOR of H(g) over the granules its writes since the last release touch.
DEDUCED (log 38). -/
def phaseSig (s : State) : BitVec 64 :=
  let h := s.hart
  let ws := h.own.filter (fun o => !o.done && !h.pend.any (fun r => r.set.contains o.wid))
  let gs := (ws.map (fun o => o.va / 64)).eraseDups
  let a := gs.foldl (fun (x : BitVec 64) g =>
    let mine := ws.filter (fun o => o.va / 64 == g)
    let base := (mine.head?.map (fun o => o.loc - o.va % 64)).getD 0
    let held := (List.range 64).filterMap (fun i => (ovByte h (base + i)).map (fun o => (i, o.byte)))
    let sp := if 2 ^ 64 ≤ base then 1 else 0
    x ^^^ granHash sp (g * 64) (mine.map (fun o => o.va % 64)) held (mine.any (·.pois))) 0
  let rs := h.rwrites.filter (fun w => !w.signed)
  let bytes := (rs.flatMap (fun w => w.bytes.zipIdx.map (fun b => (w.host, w.idx * 2 ^ 48 + w.off + b.2, b.1, w.pois)))).reverse
  let rg := (bytes.map (fun b => (b.1, b.2.1 / 64))).eraseDups
  rg.foldl (fun (x : BitVec 64) g =>
    let mine := bytes.filter (fun b => b.1 == g.1 && b.2.1 / 64 == g.2)
    x ^^^ granHash (if g.1 then 3 else 2) (g.2 * 64) (mine.map (fun b => b.2.1 % 64))
      (mine.map (fun b => (b.2.1 % 64, b.2.2.1))) (mine.any (·.2.2.2))) a

/-- The register effects and the pending record of a release (R274, R277). -/
def releaseStart (s : State) (sc : Scope) (after : RelThen) (count : Bool) : State :=
  let h := s.hart
  let sig := if h.st.red then phaseSig s else 0
  let r : PendRel := { scope := sc, set := publishedSet s h, remote := if sc = .system then h.rwrites else [],
                       after := after, sig := sig, since := s.cycle, agreed := !h.st.red, pins := h.bolter.pins }
  s.onHart (fun h =>
    { h with pend := h.pend ++ [r], rwrites := if sc = .system then [] else h.rwrites.map (fun w => { w with signed := true }),
             phs := { h.phs with pcnt := if count then h.phs.pcnt + 1 else h.phs.pcnt,
                                 lrs := BitVec.ofNat 3 (scopeNum sc), pubp := true } })

/-! ### Acquires (R275) -/

/-- The wait of a counted `bar.sync` at a level has ended: its record in that barrier is cleared (R354). -/
def clearSync (s : State) (level : Nat) : State :=
  let f := barKey s.hart; let flat := s.hart.id.flat
  modLaunch s s.hart.id.launch (fun l =>
    let bs := updWhere (fun b => b.level == level && b.inst == flat / levelSize l level)
      (fun b => { b with syncs := b.syncs.filter (fun p => p.1 != f) }) l.barriers
    { l with barriers := bs })

/-- The retirement of an acquire: its pins are dropped, PCNT counts the boundary, the instruction retires.
DEDUCED (log 27). -/
def acquireRetire (s0 s : State) (kind : Nat) : State :=
  let s1 := dropPins (if kind = 0 then s else clearSync s kind) (fun p => !p.2)
  let s2 := s1.onHart (fun h => { h with phs := { h.phs with hold := false, pcnt := h.phs.pcnt + 1 } })
  retire s0 s2

/-- An acquire at a scope: the snapshot, and either the retirement or the hold of 8 ns (R275). `s0` is the state
before the instruction; 10 cycles are the first number of whole cycles that last 8 ns (R373). A `kind` other than 0 is the
level of the `bar.sync` whose wait the acquire ends. -/
def acquireOp (s0 s : State) (sc : Scope) (kind : Nat) : State :=
  let s1 := { s with hart := acquireHart s sc s.hart }
  let s2 := { s1 with mem := { s1.mem with phase := s1.mem.phase + 1 } }
  if spansDies s sc then
    s2.onHart (fun h => { h with phs := { h.phs with hold := true, holdUntil := s.cycle + 10, holdKind := kind } })
  else acquireRetire s0 s2 kind

/-! ### Scalar accesses (R178 to R183) -/

/-- A scalar load of `w` bytes: its checks, its value and poison, and retirement. `put` writes the register. -/
def scalarLoad (s : State) (addr : List XReg) (ea : Word) (w : Nat) (put : Nat → Bool → Hart → Hart) : State :=
  consume s addr fun s =>
    match globalCheck s s.hart ea w .read with
    | .fault c => memTrap s c ea
    | .ok a =>
      if a.dev then
        afterReleases s fun s =>
          match ovlFires s s.hart a.loc w with
          | some r => ovlTrap s ea r
          | none =>
            let r := devLoad s a w
            retire s (r.1.onHart (put (leNat r.2.1) r.2.2))
      else
        let r := plainRead s a.key a.loc w
        retire s (r.1.onHart (put (leNat r.2.1) r.2.2))

/-- A scalar store of bytes. -/
def scalarStore (s : State) (addr : List XReg) (ea : Word) (bs : List Byte) (pois : Bool) : State :=
  consume s addr fun s =>
    match globalCheck s s.hart ea bs.length .write with
    | .fault c => memTrap s c ea
    | .ok a =>
      if a.dev then
        afterReleases s fun s =>
          match ovlFires s s.hart a.loc bs.length with
          | some r => ovlTrap s ea r
          | none => retire s (devStore s a bs pois)
      else retire s (plainWrite s a.key a.loc ea.toNat bs pois)

/-- A scalar atomic of `w` bytes (R182, R183): the new bytes from the old value, and the register write. The hart's
earlier releases are performed before it (R274). -/
def scalarAtomic (s : State) (addr : List XReg) (ea : Word) (w : Nat) (f : Nat → Option Nat) (pois : Bool)
    (put : Nat → Bool → Hart → Hart) : State :=
  consume s addr fun s =>
    match globalCheck s s.hart ea w .write with
    | .fault c => memTrap s c ea
    | .ok a =>
      afterReleases s fun s =>
        match ovlFires s s.hart a.loc w with
        | some r => ovlTrap s ea r
        | none =>
          let r := strongAccess s a w (fun old => (f old).map (natLe w)) pois
          retire s (r.1.onHart (put (leNat r.2.1) r.2.2))

/-! ### Privilege and levels -/

/-- The privileged-instruction trap of R200, with the word that the checks of R153 have passed. -/
def privTrap (s : State) (word : BitVec 96) : State := takeTrap s 0x0002 (word.setWidth 64)

/-- The outermost gang level G of a launch (R38), 0 when there is none. -/
def gangLevel (l : Launch) : Nat :=
  forN l.levels.length 0 (fun n g => if (l.levels.getD n ⟨0, 0, false, 0⟩).gang then n else g)

/-- The checks of a level operand (R273, R423): the level's scope, or the trap. -/
def withLevel (s : State) (n : Nat) (k : Launch → Level → State) : State :=
  match myLaunch s with
  | none => takeTrap s 0x0001 64
  | some l =>
    if n = 0 ∨ l.levels.length ≤ n then takeTrap s 0x0001 64
    else if gangLevel l < n then takeTrap s 0x0014 (BitVec.ofNat 64 n)
    else k l (l.levels.getD n ⟨0, 0, false, 0⟩)

end Sys2Proof.Machine
end

