-- ==== Sys2Proof/Machine/Operands.lean ====
section
/-! DEFINITION. The operand forms: the last scalar source, format entries, register groups, elements, masks, the
issue checks of vector forms, the classes of elements and the stochastic draw (R60, R89, R101, R169, R201 to R204,
R228). -/

namespace Sys2Proof.Machine

/-! ### The last source of a scalar operation (R169) -/

/-- `opb()` of R169. -/
def opB (h : Hart) : SrcB → Word
  | .reg r => getX h r
  | .imm v => v.signExtend 64

def poisB (h : Hart) : SrcB → Bool
  | .reg r => poisX h r
  | .imm _ => false

/-! ### Entries (R63, R89) -/

/-- The descriptor of an entry. -/
def entry (h : Hart) (k : FEnt) : BitVec 32 := h.vc.ft[k.val]

/-- The parsed entry. -/
def fmt (h : Hart) (k : FEnt) : Fmt := parseFmt (entry h k)

/-- VTYPE.FMT (R66). -/
def vtFmt (h : Hart) : FEnt := ⟨h.vc.vtype.toNat % 16, by omega⟩

/-- G = 2^VTYPE.GRP. -/
def grp (h : Hart) : Nat := 2 ^ (bits h.vc.vtype.toNat 6 4)

def tailZero (h : Hart) : Bool := h.vc.vtype.getLsbD 7
def maskZero (h : Hart) : Bool := h.vc.vtype.getLsbD 8
def vill (h : Hart) : Bool := h.vc.vtype.getLsbD 63

def vlOf (h : Hart) : Nat := h.vc.vl.toNat

/-- VES; a value above VL is treated as VL (R68). -/
def vesOf (h : Hart) : Nat := min h.vc.ves.toNat h.vc.vl.toNat

/-- cap(k) for an element width (R201). -/
def capN (h : Hart) (n : Nat) : Nat := grp h * (h.vlen / n)

/-- VLMAX for an element width (R201). -/
def vlmaxN (h : Hart) (n : Nat) : Nat := min (capN h n) h.vlen

/-! ### Registers and elements (R60, R201) -/

def vreg (h : Hart) (r : Nat) : VBits := h.vf.v.toArray.getD r 0
def vpoisReg (h : Hart) (r : Nat) : VBits := h.vf.pv.toArray.getD r 0

/-- Writes `n` bits at position `p` of vector register `r`, with their poison marks. -/
def setVbits (h : Hart) (r p n : Nat) (c : Nat) (pz : Bool) : Hart :=
  { h with vf := { h.vf with v := h.vf.v.setIfInBounds r (putBits (vreg h r) p n c),
                             pv := h.vf.pv.setIfInBounds r (putBits (vpoisReg h r) p n (if pz then 2 ^ n - 1 else 0)) } }

/-- `elem(v, i, n)` (R203). -/
def elem (h : Hart) (v : Nat) (i n : Nat) : Nat :=
  let per := h.vlen / n
  getBits (vreg h (v + i / per)) (i % per * n) n

/-- An element is poisoned when a bit of it is. -/
def elemPois (h : Hart) (v : Nat) (i n : Nat) : Bool :=
  let per := h.vlen / n
  getBits (vpoisReg h (v + i / per)) (i % per * n) n != 0

/-- `setelem(v, i, n, c)` (R203). -/
def setElem (h : Hart) (v : Nat) (i n c : Nat) (pz : Bool := false) : Hart :=
  let per := h.vlen / n
  setVbits h (v + i / per) (i % per * n) n c pz

/-! ### Masks -/

def mbit (h : Hart) (m : MReg) (i : Nat) : Bool := (h.vf.m[m.val]).getLsbD i
def mpois (h : Hart) (m : MReg) (i : Nat) : Bool := (h.vf.pm[m.val]).getLsbD i

def setMbit (h : Hart) (m : MReg) (i : Nat) (b : Bool) (pz : Bool := false) : Hart :=
  { h with vf := { h.vf with m := h.vf.m.set m.val (putBits (h.vf.m[m.val]) i 1 (b2n b)),
                             pm := h.vf.pm.set m.val (putBits (h.vf.pm[m.val]) i 1 (b2n pz)) } }

/-- The number of counted bits below i: those of mask mk, among 0 to i − 1. -/
def countBelow (h : Hart) (mk : MReg) (i : Nat) : Nat :=
  ((List.range i).filter (fun j => mbit h mk j)).length

/-! ### Classes of elements (R204) -/

/-- Marks an element poisoned, keeping its code. -/
def poisonElem (h : Hart) (v i n : Nat) : Hart := setElem h v i n (elem h v i n) true

/-- One element of a group under a governing mask: the active one receives `f`, and a masked-off one is left or
zeroed. Under a poisoned mask bit the element is poisoned (R388). -/
def maskedElem (h : Hart) (mk : MReg) (v i n : Nat) (f : Hart → Hart) : Hart :=
  let h1 := if mbit h mk i then f h else if maskZero h then setElem h v i n 0 else h
  if mpois h mk i then poisonElem h1 v i n else h1

/-- The tail of a group from `lo` up (R204). -/
def tailGroup (h : Hart) (v lo n : Nat) : Hart :=
  if tailZero h then forRange lo (capN h n) h (fun i x => setElem x v i n 0) else h

/-- The tail of a mask register: bits VL up to VLEN. -/
def tailMask (h : Hart) (m : MReg) (lo : Nat) : Hart :=
  if tailZero h then forRange lo h.vlen h (fun i x => setMbit x m i false) else h

/-! ### Issue checks (R89, R201, R202, R228, R407 step 5) -/

/-- A check: none when it passes, else the trap code and value. -/
abbrev Check := Option (Nat × Word)

/-- The first check that fails. -/
def firstFail : List Check → Check
  | [] => none
  | none :: r => firstFail r
  | some t :: _ => some t

/-- TVAL of an invalid-format trap (R89). -/
def fmtVal (k : FEnt) (disallowed : Bool) : Word := BitVec.ofNat 64 (k.val + 16 * b2n disallowed)

/-- The illegal-configuration checks for the entries an instruction uses: VILL, then VL against cap (R202). An
invalid entry has no width and is left to the next check. -/
def ckVl (h : Hart) (ks : List FEnt) : Check :=
  if vill h then some (0x0003, h.vc.vtype)
  else if ks.any (fun k => fmtValid (entry h k) && decide (capN h (fmt h k).n < vlOf h)) then
    some (0x0003, BitVec.ofNat 64 (vlOf h))
  else none

/-- The invalid-format check of an entry (R89). -/
def ckFmt (h : Hart) (k : FEnt) : Check := if fmtValid (entry h k) then none else some (0x0004, fmtVal k false)

/-- A disallowed entry (R89). -/
def ckAllow (k : FEnt) (ok : Bool) : Check := if ok then none else some (0x0004, fmtVal k true)

/-- The entry is not block-scaled. -/
def ckNoBlk (h : Hart) (k : FEnt) : Check := ckAllow k ((fmt h k).blk == 0)

/-- A group operand (R201): the lowest bit of the field that names it is the trap value. -/
def ckGroup (h : Hart) (v : Nat) (bit : Nat) (copies : Nat := 1) : Check :=
  if v % grp h = 0 ∧ v + copies * grp h ≤ 64 then none else some (0x0001, BitVec.ofNat 64 bit)

/-- Two groups of `a` and `b` groups from two registers overlap. -/
def overlaps (h : Hart) (v : Nat) (a : Nat) (w : Nat) (b : Nat) : Bool :=
  decide (v < w + b * grp h) && decide (w < v + a * grp h)

/-- An illegal-instruction check with the bit it names. -/
def ckBit (bad : Bool) (bit : Nat) : Check := if bad then some (0x0001, BitVec.ofNat 64 bit) else none

/-- The destination group of an element-wise form may coincide with a source group only at equal width (R228). -/
def ckCoincide (vd n : Nat) (srcs : List (Nat × Nat)) : Check :=
  ckBit (srcs.any (fun p => p.1 == vd && p.2 != n)) 8

/-! ### Rounding mode and draws (R100, R101, R227) -/

/-- `rmode()` of R227. -/
def rmode (h : Hart) : RMode → Nat
  | .rne => 0 | .rtz => 1 | .rdn => 2 | .rup => 3 | .rmm => 4 | .sr => 5
  | .dyn => h.vc.fxm.rm.toNat

/-- A form that does not use stochastic rounding rounds with RNE in its place (R100). -/
def noSr (rm : Nat) : Nat := if 5 ≤ rm then 0 else rm

/-- The multiplier of R101. -/
def mulSeed : Word := 0x9FB21C651E98DF25

/-- `draw(i)` of R101. -/
def drawAt (rseed : Word) (i : Nat) : Nat :=
  let z := rseed ^^^ (BitVec.ofNat 64 i * 0xD6E8FEB86659FD93)
  let z := z ^^^ (z >>> 31)
  let z := z * mulSeed
  let z := z ^^^ (z >>> 29)
  (z >>> 48).toNat

/-- `advance()` of R101. -/
def advanceSeed (r : Word) : Word := r * mulSeed + 0x000000002545F491

/-- An instruction draws when it rounds stochastically and some element below VL has its mask bit set. -/
def drawsWith (h : Hart) (rm : Nat) (mk : MReg) : Bool :=
  rm == 5 && (List.range (vlOf h)).any (fun i => mbit h mk i)

/-! ### Operands of arithmetic forms (R227, R229) -/

/-- `opnd(v, k, i)`. -/
def opnd (h : Hart) (v : Nat) (k : FEnt) (i : Nat) : WVal := fdecode (fmt h k) (elem h v i (fmt h k).n)

/-- The code of the second operand: element i of a group, or the low bits of a scalar register. -/
def codeB (h : Hart) (b : VSrc) (k : FEnt) (i : Nat) : Nat :=
  match b with
  | .vec v => elem h v.val i (fmt h k).n
  | .scal x => (getX h x).toNat % 2 ^ (fmt h k).n

def opndB (h : Hart) (b : VSrc) (k : FEnt) (i : Nat) : WVal := fdecode (fmt h k) (codeB h b k i)

def poisVB (h : Hart) (b : VSrc) (k : FEnt) (i : Nat) : Bool :=
  match b with
  | .vec v => elemPois h v.val i (fmt h k).n
  | .scal x => poisX h x

/-- The group check of a second operand. -/
def ckSrcB (h : Hart) (b : VSrc) : Check :=
  match b with
  | .vec v => ckGroup h v.val 20
  | .scal _ => none

/-- The register and width of a second operand that is a group. -/
def srcBGroup (h : Hart) (b : VSrc) (k : FEnt) : List (Nat × Nat) :=
  match b with
  | .vec v => [(v.val, (fmt h k).n)]
  | .scal _ => []

end Sys2Proof.Machine
end

