-- ==== Sys2Proof/Machine/Convoy.lean ====
section
/-! DEFINITION. Convoys: the unit classes, what a member is, and how a convoy runs, stops and completes (R68, R156 to
R159, R214, R407 to R412). -/

namespace Sys2Proof.Machine

/-- The unit classes of R154. -/
inductive UnitClass where
  | ld | st | ldst | ar | sf | xe | xest | arr | solo
  deriving DecidableEq, Repr

/-- The class of a convoy member by major opcode and FN; none for an instruction outside convoys (R154, R156). -/
def memberClass (opc fn : Nat) : Option UnitClass :=
  match opc with
  | 0x40 => some .solo
  | 0x41 => some .ld
  | 0x42 => some .st
  | 0x43 => some .ldst
  | 0x44 => some .ar
  | 0x45 => some .xe
  | 0x48 => some .ar
  | 0x49 => some .ar
  | 0x4A => some .ar
  | 0x4B => some .xe
  | 0x4C => some .xe
  | 0x4D => some .xest
  | 0x4E => some .ar
  | 0x4F => if fn = 1 then some .xe else some .ar
  | 0x50 => some .sf
  | 0x80 => some .solo
  | 0x81 => some .ar
  | 0x82 => some .arr
  | 0x83 => some .arr
  | 0x84 => some .solo
  | 0x85 => some .solo
  | _ => none

/-- LD, ST, AR, SF and XE units of a class (R157). -/
def unitsOf : UnitClass → Nat × Nat × Nat × Nat × Nat
  | .ld => (1, 0, 0, 0, 0)
  | .st => (0, 1, 0, 0, 0)
  | .ldst => (1, 1, 0, 0, 0)
  | .ar => (0, 0, 1, 0, 0)
  | .sf => (0, 0, 0, 1, 0)
  | .xe => (0, 0, 0, 0, 1)
  | .xest => (0, 1, 0, 0, 1)
  | .arr => (0, 0, 2, 0, 0)
  | .solo => (0, 0, 0, 0, 0)

/-- The last member of its convoy is the only place for an XE or ARR member (R157, R261). -/
def mustBeLast : UnitClass → Bool
  | .xe | .xest | .arr => true
  | _ => false

/-- The index of the first member of a gathered convoy that exceeds a limit of R157. -/
def overLimit (cs : List UnitClass) : Option Nat :=
  let bad := fun i =>
    let t := (cs.take (i + 1)).map unitsOf
    let sum := fun (f : Nat × Nat × Nat × Nat × Nat → Nat) => (t.map f).foldl (· + ·) 0
    decide (8 ≤ i) || decide (1 < sum (·.1)) || decide (1 < sum (·.2.1)) || decide (2 < sum (·.2.2.1))
    || decide (1 < sum (·.2.2.2.1)) || decide (1 < sum (·.2.2.2.2))
    || (match cs[i]? with | some c => mustBeLast c && decide (i + 1 < cs.length) | none => false)
  (List.range cs.length).find? bad

/-! ### Members -/

/-- A request to a remote home that an element waits for (R217, R369): its index in the instruction and its packet. -/
structure RemReq where
  idx : Nat
  port : Nat
  addr6 : BitVec 128
  op : BitVec 8
  rctx : BitVec 16
  addr : Word
  payload : List Byte
  /-- The payload carries poisoned data (R386). -/
  pois : Bool := false
  deriving DecidableEq, Repr

/-- The cause of an element fault. -/
inductive Why where
  /-- A trap of R400 with its value. -/
  | trap (code : Nat) (val : Word)
  /-- A poisoned value is consumed (R389). -/
  | poison
  /-- The overlap check of R440 fires on a record. -/
  | clash (r : OvlRec) (val : Word)
  deriving DecidableEq, Repr

/-- Why a run of elements stops before its end. -/
inductive Stop where
  /-- An element fault. -/
  | fault (e : Nat) (w : Why)
  /-- The element meets a DEV page, and elements must be performed serially from it (R411). -/
  | dev (e : Nat)
  /-- The element waits for an answer of a remote home. -/
  | need (e : Nat) (r : RemReq)
  deriving DecidableEq, Repr

def Stop.elem : Stop → Nat
  | .fault e _ => e
  | .dev e => e
  | .need e _ => e

/-- What becomes of a convoy that has started. -/
inductive ConvoyRes where
  /-- Every element is written; VES and RSEED are not yet advanced. -/
  | complete (s : State)
  /-- A trap, at the first member. -/
  | trap (s : State)
  /-- The instruction waits, its elements untouched. -/
  | wait (s : State)

/-- Leave to run the rows of an array stage: as far as row `rows`, or not yet, or a trap (R262, R267, R268). -/
inductive GateRes where
  | go (s : State) (rows : Nat)
  | wait (s : State)
  | trap (s : State)

/-- The array stage of an ARR member, whose progress VES counts in rows or steps (R261). -/
structure ArrStage where
  /-- Rows or steps in all. -/
  total : Hart → Nat
  /-- The first element that earlier members have yet to write when VES rows are done. -/
  start : Hart → Nat → Nat
  /-- The rows done when earlier members stop at an element, from a VES. -/
  below : Hart → Nat → Nat → Nat
  /-- Performs the rows from one number up to another; their stream, masks and tile are those of the first state. -/
  rows : Nat → Nat → State → State → State
  /-- The rows that can be written before the end of a cycle. -/
  gate : Nat → State → GateRes
  /-- Rows are written cycle by cycle, so that a stop finds those of the cycles before it. -/
  timed : Bool
  /-- What follows when every row is done. -/
  leave : State → ConvoyRes

/-- A convoy member: its issue checks (R407 steps 4 to 6), its elements from `lo` to `hi`, with leave to access DEV
pages or not, and what it does at completion, given the element it started from. `draws` counts for R101. A member that
moves a whole register does so in the run that holds element 0 (R257). -/
structure Member where
  check : State → Check
  run : Bool → Nat → Nat → State → State × Option Stop
  fin : Nat → State → State
  draws : Hart → Bool
  /-- The member makes strong accesses, which wait for the hart's pending releases (R274). -/
  strong : Bool := false
  /-- The member's elements are bytes of mask bits (R218). -/
  bytes : Bool := false
  /-- The member drives the PEs, and waits for all 64 array rows of its core (R254). -/
  pe : Bool := false
  /-- The member moves a tile register, which takes 16 cycles (R257). -/
  move : Bool := false
  /-- The array stage of an ARR member. -/
  arr : Option ArrStage := none

/-- Elements in ascending order, stopping at the first that answers a stop. -/
def eachElem (f : Nat → State → State × Option Stop) : Nat → Nat → State → State × Option Stop
  | _, 0, s => (s, none)
  | i, n + 1, s =>
    match f i s with
    | (s1, none) => eachElem f (i + 1) n s1
    | (s1, some st) => (s1, some st)

/-- A member that only computes: no element stops it. -/
def pureElems (f : Nat → Hart → Hart) (_ : Bool) (lo hi : Nat) (s : State) : State × Option Stop :=
  ({ s with hart := forRange lo hi s.hart f }, none)

/-- Every element of a member from `lo` on that can be computed: the run goes on past its stops. -/
def runPast (m : Member) : Nat → Nat → State → State
  | 0, _, s => s
  | n + 1, lo, s =>
    match m.run true lo (vlOf s.hart) s with
    | (s1, none) => s1
    | (s1, some st) => if vlOf s.hart ≤ st.elem + 1 then s1
      else runPast m n (max (lo + 1) (if m.bytes then 8 * (st.elem / 8) + 8 else st.elem + 1)) s1

/-- A convoy member with the RSEED that it draws from. -/
abbrev Seeded := Member × Word

/-- The members with their seeds, and RSEED after them: a member draws from the value that one `advance` for each earlier
drawing member leaves. Each is judged as if the members before it had completed, wherever the convoy stops (R101).
DEDUCED (log 88). -/
def seedMembers (lo : Nat) : List Member → Word → State → List Seeded × Word
  | [], seed, _ => ([], seed)
  | m :: r, seed, s =>
    let seed1 := if m.draws s.hart then advanceSeed seed else seed
    let s0 := s.onHart (fun h => { h with vc := { h.vc with rseed := seed } })
    let t := seedMembers lo r seed1 (if r.isEmpty then s else runPast m (vlOf s.hart + 1) lo s0)
    ((m, seed) :: t.1, t.2)

/-- The number of members that draw (R101). -/
def drawCount (lo : Nat) (ms : List Member) (s : State) : Nat :=
  match ms with
  | [] => 0
  | [m] => b2n (m.draws s.hart)
  | m :: r => b2n (m.draws s.hart) + drawCount lo r (runPast m (vlOf s.hart + 1) lo s)

/-- The members' runs one after another, each with its seed. With `final` each member also completes. -/
def runMembers (final dev : Bool) : List Seeded → Nat → Nat → State → State × Option Stop
  | [], _, _, s => (s, none)
  | (m, seed) :: r, lo, lim, s =>
    let s0 := s.onHart (fun h => { h with vc := { h.vc with rseed := seed } })
    let hi := min lim (vlOf s0.hart)
    match m.run dev lo hi s0 with
    | (s1, some st) => (s1, some st)
    | (s1, none) => runMembers final dev r lo lim (if final then m.fin lo s1 else s1)

/-- What stops a convoy: the limit below which every member completes (R68), the stop at it, and the VL that a
`vldff` of the convoy has left (R225). -/
structure Limit where
  lim : Nat
  stop : Option Stop
  vl : Nat

/-- The lowest stop of a convoy. -/
def findLimit : Nat → List Seeded → Nat → Limit → State → Limit
  | 0, _, _, l, _ => l
  | k + 1, ms, lo, l, s =>
    match runMembers false false ms lo l.lim s with
    | (s1, some st) => findLimit k ms lo { lim := st.elem, stop := some st, vl := min l.vl (vlOf s1.hart) } s
    | (_, none) => l

/-- Elements i to j − 1 of each member in program order, from trial state `st`; `w` is the first answer still
missing. -/
def serialGo (i j : Nat) : List Seeded → State → Option Stop → State × Option Stop
  | [], st, w => (st, w)
  | (m, seed) :: r, st, w =>
    let s0 := st.onHart (fun h => { h with vc := { h.vc with rseed := seed } })
    match m.run true i (min j (vlOf s0.hart)) s0 with
    | (s1, some (.fault e c)) => (s1, some (.fault e c))
    | (s1, some q) => serialGo i j r s1 (match w with | none => some q | w => w)
    | (s1, none) => serialGo i j r s1 w

/-- Elements from `i` on, serially, in steps of one element, or of one mask byte when a member's elements are bytes
(R218, R411). A step is performed by all members or by none; a missing answer is reported only when no later member
faults at the element (R412). Answers where the run stops. -/
def serialRun (ms : List Seeded) : Nat → Nat → State → State × Option (Nat × Stop)
  | _, 0, s => (s, none)
  | i, n + 1, s =>
    if vlOf s.hart ≤ i then (s, none)
    else
      let j := if ms.any (·.1.bytes) then 8 * (i / 8) + 8 else i + 1
      match serialGo i j ms s none with
      | (s1, none) => serialRun ms j n s1
      | (_, some q) => (s, some (min i q.elem, q))

/-- Sets VES at a stop, keeping RSEED as it stood (R68, R101), and a reduction of VL (R225). -/
def stopAt (s : State) (seed : Word) (e vl : Nat) : State :=
  s.onHart (fun h =>
    { h with vc := { h.vc with ves := BitVec.ofNat 17 e, rseed := seed, vl := BitVec.ofNat 17 (min vl h.vc.vl.toNat) } })

/-- Takes the trap of an element fault. -/
def raiseStop (s : State) : Why → State
  | .trap c v => memTrap s c v
  | .poison => poisonKill s
  | .clash r v => ovlTrap s v r

/-- Takes the trap of an issue check; code 0 stands for the consumption of poison (R389). -/
def raiseCheck (s : State) (c : Nat) (v : Word) : State := if c = 0 then poisonKill s else memTrap s c v

/-- Sends the request an element waits for, and puts the hart to sleep until its answer comes. The first request of an
instruction keeps the element the instruction started from. -/
def sendNeed (s : State) (r : RemReq) : State :=
  let s0 := match s.hart.rreq with
    | some _ => s
    | none => { s with fresh := s.fresh + 1, hart := { s.hart with rreq := some (s.fresh * 2 ^ 24, vesOf s.hart) } }
  let base := match s0.hart.rreq with | some (b, _) => b | none => 0
  let s1 := sendReq s0 r.port r.addr6 r.op r.rctx r.addr r.payload r.pois (base + r.idx) s.hart.id.ctx
  asleepOn s1 (.remote (base + r.idx))

/-- The WRITE packet of a store to PEER or HOST space, to the entry as it stands at the element (R368, R369). -/
def writeReq (s : State) (w : RemoteWrite) : Option RemReq :=
  (findCtx s s.hart.id.ctx).bind fun c => (remEntry s c w.host w.idx).map fun e =>
    { idx := w.req, port := e.port, addr6 := e.addr6, op := 3, rctx := e.rctx, addr := BitVec.ofNat 64 (e.rbase + w.off),
      payload := w.bytes, pois := w.pois }

/-- The first remote store of the convoy that the remote side has not acknowledged: its packet is sent, and the convoy
waits with its elements untouched (R217, R369). DEDUCED (log 26). -/
def awaitWrites (s : State) (r : ConvoyRes) : ConvoyRes :=
  let t := match r with | .complete t | .trap t | .wait t => t
  match (t.hart.rwrites.find? (fun w => !w.acked && !s.hart.rwrites.contains w)).bind (writeReq s) with
  | some q => .wait (sendNeed s q)
  | none => r

/-- The serial part of a convoy from element `lim` (R411, R412), after the hart's pending releases. `s` is the state
before the convoy and `s1` the state with the elements below `lim` performed. When an element waits, the elements
below it are kept and VES names it. -/
def runSerial (ms : List Seeded) (s s1 : State) (lo lim n : Nat) : ConvoyRes :=
  let seed := s.hart.vc.rseed
  match serialRun ms lim (n - lim) s1 with
  | (s2, none) =>
    .complete ((ms.foldl (fun st m => m.1.fin lo st) s2).onHart (fun x => { x with vc := { x.vc with rseed := seed } }))
  | (s2, some (e, .fault _ c)) => .trap (raiseStop (stopAt s2 seed e n) c)
  | (s2, some (e, .need _ r)) => .wait (stopAt (sendNeed s2 r) seed e n)
  | (s2, some (e, .dev _)) => .trap (stopAt s2 seed e n)

/-- Runs a convoy whose issue checks have passed and which need not wait (R159, R411). -/
def runConvoyNow (ms : List Seeded) (s : State) : ConvoyRes :=
  let seed := s.hart.vc.rseed
  let lo := vesOf s.hart
  let n := vlOf s.hart
  match runMembers true false ms lo n s with
  | (s1, none) => .complete (s1.onHart (fun x => { x with vc := { x.vc with rseed := seed } }))
  | (_, some _) =>
    let r := findLimit (n + 1) ms lo { lim := n, stop := none, vl := n } s
    let s1 := (runMembers false false ms lo r.lim s).1
    match r.stop with
    | some (.fault e c) => .trap (raiseStop (stopAt s1 seed e r.vl) c)
    | some (.need _ q) => .wait (sendNeed s q)
    | _ =>
      -- a DEV page or window: serially from here on
      if s.hart.pend.isEmpty then runSerial ms s s1 lo r.lim n else .wait (flushPend s)

/-- The rows of an array stage from `ves` up to `v` are written, from the earlier members' results `src`; of those members'
own writes, the ones below the element that `v` rows leave open are made, and VES counts the rows (R261). -/
def arrStop (ms : List Seeded) (a : ArrStage) (s src : State) (lo ves v lim : Nat) : State :=
  let made := (runMembers false false ms lo (min lim (a.start s.hart v)) s).1
  stopAt (a.rows ves v src made) s.hart.vc.rseed v (vlOf s.hart)

/-- Runs a convoy whose last member is an array stage, from row VES (R261). When an earlier member stops at an element,
the rows below it are done and VES counts them. The rows consume the earlier members' results up to that element; of
these, the ones at or above the first element that VES rows leave open are not made. -/
def runArr (ms : List Seeded) (a : ArrStage) (s : State) : ConvoyRes :=
  match a.gate s.cycle s with
  | .wait s1 => .wait s1
  | .trap s1 => .trap s1
  | .go s0 lim =>
    let h := s0.hart
    let seed := h.vc.rseed; let n := vlOf h; let nr := a.total h
    let ves := min h.vc.ves.toNat nr
    let lo := min n (a.start h ves)
    let all := fun (st : State) => (a.rows ves lim st st).onHart (fun x => { x with vc := { x.vc with rseed := seed } })
    match runMembers false false ms lo n s0 with
    | (s1, none) =>
      if lim < nr then .wait (arrStop ms a s0 s1 lo ves lim n) else a.leave (all (runMembers true false ms lo n s0).1)
    | (_, some _) =>
      let r := findLimit (n + 1) ms lo { lim := n, stop := none, vl := n } s0
      match r.stop with
      | some (.fault e c) =>
        let v := min lim (a.below h ves e)
        let s1 := arrStop ms a s0 (runMembers false false ms lo r.lim s0).1 lo ves v r.lim
        if v < a.below h ves e then .wait s1 else .trap (raiseStop (stopAt s1 seed v r.vl) c)
      | some (.need _ q) => .wait (sendNeed s0 q)
      | _ =>
        if lim < nr then .wait s0
        else if !s0.hart.pend.isEmpty then .wait (flushPend s0)
        else
          let s1 := (runMembers false false ms lo r.lim s0).1
          match serialRun ms r.lim (n - r.lim) s1 with
          | (s2, none) => a.leave (all (ms.foldl (fun st m => m.1.fin lo st) s2))
          | (_, some (_, .need _ q)) => .wait (sendNeed s0 q)
          | (s2, some (e, st)) =>
            let v := a.below h ves e
            let top := a.start h v
            let made := (runMembers false false ms lo (min r.lim top) s0).1
            let made := if r.lim < top then (serialRun ms r.lim (top - r.lim) made).1 else made
            let s3 := stopAt (a.rows ves v s2 made) seed v n
            .trap (match st with | .fault _ c => raiseStop s3 c | _ => s3)

/-- The hart's core holds a grant of all 64 array rows (R360). -/
def granted (s : State) : Bool :=
  let c := findCore s s.hart.id.die s.hart.id.core
  c.gr == 64 && c.grNext.all (fun p => p.2 == 64)

/-- Requests the rows of the hart's core; a request keeps its cycle (R360). -/
def requestRows (s : State) : State :=
  modCore s s.hart.id.die s.hart.id.core (fun c => { c with req := some (c.req.getD s.cycle) })

/-- Marks PE work of some cycles on the hart's core (R360). -/
def peWork (s : State) (cycles : Nat) : State :=
  modCore s s.hart.id.die s.hart.id.core (fun c => { c with lastPe := max c.lastPe (s.cycle + cycles), rel := none })

/-- The PE work of a convoy begins in this cycle (R257, R262). -/
def beginWork (s : State) (r0 : Nat) : State := s.onHart (fun h => { h with arr := { h.arr with began := some (s.cycle, r0) } })

/-- The PE work of the convoy at issue is over. -/
def endWork (h : Hart) : Hart := { h with arr := { h.arr with began := none, entered := [] } }

/-- A move of a tile register completes 16 cycles after the cycle in which it began (R257). -/
def moveTime (ms : List Member) (s : State) (k : State → ConvoyRes) : ConvoyRes :=
  if !ms.any (·.move) then k s
  else match s.hart.arr.began with
    | none => .wait (beginWork (peWork s 15) 0)
    | some (c, _) => if s.cycle < c + 16 then .wait s else k s

/-- Runs a convoy whose issue checks have passed. A member with strong accesses waits for the pending releases, and
one that drives the PEs for the rows of its core. -/
def runConvoy (ms : List Member) (s : State) : ConvoyRes :=
  if ms.any (·.pe) && !granted s then .wait (requestRows s)
  else
    let go := fun st => moveTime ms st fun st =>
      let sm := (seedMembers (vesOf st.hart) ms st.hart.vc.rseed st).1
      awaitWrites st (match ms.findSome? (·.arr) with
        | some a => runArr sm a st
        | none => runConvoyNow sm st)
    if ms.any (·.strong) then
      let s1 := flushPend s
      if s1.hart.pend.isEmpty then go s1 else .wait s1
    else go s

/-- What a stop finds of a convoy whose issue checks have passed: the elements below some element are performed, none at or
above it, and VES names it (R49, R68, R410). Rows of an array stage that take time are those written in the cycles before
the stop. The element that a stop reaches is open. DESIGN CHOICE (log 92). -/
def partConvoy (ms : List Member) (s : State) : State :=
  let lo := vesOf s.hart; let n := vlOf s.hart; let seed := s.hart.vc.rseed
  let e := lo + (Config.freeBits 17 s.free n).toNat % max 1 (n - lo)
  let wait := (ms.any (·.pe) && !granted s) || (ms.any (·.strong) && !s.hart.pend.isEmpty) || ms.any (·.move)
  let sm := (seedMembers lo ms seed s).1
  let keep := fun (t : State) => if t.hart.rwrites.any (fun w => !w.acked && !s.hart.rwrites.contains w) then s else t
  if wait then s
  else match ms.findSome? (·.arr) with
    | none => keep (stopAt (runMembers false false sm lo (findLimit (e + 1) sm lo { lim := e, stop := none, vl := n } s).lim s).1 seed
        (findLimit (e + 1) sm lo { lim := e, stop := none, vl := n } s).lim n)
    | some a => match a.gate (s.cycle - 1) s with
      | .go s0 lim =>
        let ves := min s.hart.vc.ves.toNat (a.total s.hart)
        let lo := min n (a.start s.hart ves)
        let r := findLimit (n + 1) sm lo { lim := n, stop := none, vl := n } s0
        let v := min lim (a.below s.hart ves (if a.timed then r.lim else min e r.lim))
        keep (arrStop sm a s0 (runMembers false false sm lo r.lim s0).1 lo ves v r.lim)
      | _ => s

/-- Makes the issue checks of every member, in member order; the first that fails traps with VES unchanged (R407,
R409). -/
def convoyChecks (ms : List Member) (s : State) : Check := firstFail (ms.map (fun m => m.check s))

/-- VES returns to 0 and RSEED advances once for each member that drew (R68, R101). -/
def convoyEnd (draws : Nat) (h : Hart) : Hart :=
  { h with vc := { h.vc with ves := 0, rseed := forN draws h.vc.rseed (fun _ r => advanceSeed r) } }

/-- A convoy of one member, from its issue to its completion (R158, R159). -/
def soloConvoy (m : Member) (s : State) : State :=
  match convoyChecks [m] s with
  | some (c, v) => raiseCheck s c v
  | none =>
    match runConvoy [m] s with
    | .complete s1 => retire s (s1.onHart (convoyEnd (drawCount (vesOf s.hart) [m] s)))
    | .trap s1 => s1
    | .wait s1 => s1

end Sys2Proof.Machine
end

