-- ==== Sys2Proof/Machine/Special.lean ====
section
/-! DEFINITION. The special functions (R107, R108, R243): the exact value to 1,400 binary places, held with its
sticky mark, and its encoding. A non-rational value never lies on a rounding boundary, so the places kept decide
every rounding of a destination of 16 bits or fewer. -/

namespace Sys2Proof.Machine

/-- The binary places kept. -/
def sfP : Nat := 1400

/-- π · 2^1400, cut off. -/
def sfPi : Nat :=
  ((((0x3243F6A8885A308D313198A2E037073) * 2 ^ 320 +
    0x44A4093822299F31D0082EFA98EC4E6C89452821E638D01377BE5466CF34E90C6CC0AC29B7C97C50) * 2 ^ 320 +
    0xDD3F84D5B5B54709179216D5D98979FB1BD1310BA698DFB5AC2FFD72DBD01ADFB7B8E1AFED6A267E) * 2 ^ 320 +
    0x96BA7C9045F12C7F9924A19947B3916CF70801F2E2858EFC16636920D871574E69A458FEA3F4933D) * 2 ^ 320 +
    0x7E0D95748F728EB658718BCD5882154AEE7B54A41DC25A59B59C30D5392AF26013C5D1B023286085

/-- ln 2 · 2^1400, cut off. -/
def sfLn2 : Nat :=
  ((((0xB17217F7D1CF79ABC9E3B39803F2F6) * 2 ^ 320 +
    0xAF40F343267298B62D8A0D175B8BAAFA2BE7B876206DEBAC98559552FB4AFA1B10ED2EAE35C13821) * 2 ^ 320 +
    0x4427573B291169B8253E96CA16224AE8C51ACBDA11317C387EB9EA9BC3B136603B256FA0EC7657F7) * 2 ^ 320 +
    0x4B72CE87B19D6548CAF5DFA6BD38303248655FA1872F20E3A2DA2D97C50F3FD5C607F4CA11FB5BFB) * 2 ^ 320 +
    0x90610D30F88FE551A2EE569D6DFC1EFA157D2E23DE1400B39617460775DB8990E5C943E732B479CD

/-- 2/√π · 2^1400, cut off. -/
def sfTwoSqrtPi : Nat :=
  ((((0x120DD750429B6D11AE3A914FED7FD86) * 2 ^ 320 +
    0x88281341D7587CEA2E7342B06199CC416180EB39F0B24E1E2281806C12D98F35D77A3E9DDC91C394) * 2 ^ 320 +
    0xF0E9EEDF0EFFFD84A2A4AC3B98489B8CBD3845E8FEF6FF6AF92A45E5F27C2D6547A4F46505B5B4E6) * 2 ^ 320 +
    0x2DD73FD6486DE5E4E5585911777503638EA0EA96813D29A65A31A7D235B9FED80735A739F0CDBA12) * 2 ^ 320 +
    0xC519A4D0308FCEB248F76D1A1B6642FAD251A58A530D43DF05FAD7BC33A90C79B03BCD7729E27B62

/-- The integer square root by Newton's iteration from above. -/
def isqrtGo : Nat → Nat → Nat → Nat
  | 0, _, y => y
  | k + 1, n, y =>
    let z := (y + n / y) / 2
    if z < y then isqrtGo k n z else y

def isqrt (n : Nat) : Nat := if n = 0 then 0 else isqrtGo 80 n (2 ^ (Nat.log2 n / 2 + 1))

/-- A fixed-point value of 1,400 places with a sign, cut off toward −∞ for negative magnitudes of small exponent. -/
def toFix (s : Bool) (m : Nat) (e : Int) : Int :=
  let v : Int := if 0 ≤ e + sfP then (m <<< (e + sfP).toNat : Nat) else (m >>> (-(e + sfP)).toNat : Nat)
  if s then -v else v

/-- Σ term_k from `t`, where each next term is t · num / (den k), until it vanishes. -/
def seriesGo (num : Int) (den : Nat → Nat) : Nat → Nat → Int → Int → Int
  | 0, _, _, acc => acc
  | k + 1, i, t, acc =>
    if t = 0 then acc
    else
      let t1 := t * num / (2 ^ sfP : Int) / (den i : Int)
      if t1 = -1 ∧ t = -1 then acc else seriesGo num den k (i + 1) t1 (acc + t1)

/-- e^r for a fixed-point r, |r| ≤ 1. -/
def expFix (r : Int) : Int := seriesGo r (fun i => i + 1) 420 0 (2 ^ sfP) (2 ^ sfP)

/-- e^x = 2^k · y: the fixed-point y in [1, 2) or just about, and k. -/
def expParts (x : Int) : Int × Int :=
  let k := x / (sfLn2 : Int)
  let r := x - k * (sfLn2 : Int)
  (expFix r, k)

/-- ln y for a fixed-point y in [1, 2): 2 atanh((y − 1)/(y + 1)). -/
def lnFix (y : Int) : Int :=
  let one : Int := 2 ^ sfP
  let z := (y - one) * one / (y + one)
  let z2 := z * z / one
  2 * (atanhGo z2 460 1 z 0)
where
  atanhGo (z2 : Int) : Nat → Nat → Int → Int → Int
    | 0, _, _, acc => acc
    | k + 1, i, t, acc => if t = 0 then acc else atanhGo z2 k (i + 2) (t * z2 / 2 ^ sfP) (acc + t / (i : Int))

/-- sin r and cos r for a fixed-point r, |r| ≤ 1. -/
def sinFix (r : Int) : Int :=
  let z := -(r * r / 2 ^ sfP)
  seriesGo z (fun i => (2 * i + 2) * (2 * i + 3)) 300 0 r r

def cosFix (r : Int) : Int :=
  let z := -(r * r / 2 ^ sfP)
  seriesGo z (fun i => (2 * i + 1) * (2 * i + 2)) 300 0 (2 ^ sfP) (2 ^ sfP)

/-- erf x for a fixed-point x ≥ 0 below 8, by the series of positive terms. -/
def erfFix (x : Int) : Int :=
  let one : Int := 2 ^ sfP
  let x2 := x * x / one
  let sum := erfGo x2 6000 1 x x
  let (y, k) := expParts (-x2)
  let ex : Int := y / (2 ^ (-k).toNat : Nat)
  (sum * ex / one) * (sfTwoSqrtPi : Int) / one
where
  erfGo (x2 : Int) : Nat → Nat → Int → Int → Int
    | 0, _, _, acc => acc
    | k + 1, i, t, acc =>
      let t1 := 2 * t * x2 / 2 ^ sfP / ((2 * i + 1 : Nat) : Int)
      if t1 = 0 then acc else erfGo x2 k (i + 1) t1 (acc + t1)

/-- A fixed-point result with exponent k added; it is inexact. -/
def fromFix (v : Int) (k : Int) : WVal :=
  if v = 0 then .fin false 1 (-100000) true else .fin (decide (v < 0)) v.natAbs (k - sfP) true

/-- The special functions by FN (R242). -/
inductive SfFn where
  | exp | exp2 | log2 | rcp | rsqrt | sqrt | sin | cos | tanh | sigmoid | erf
  deriving DecidableEq, Repr

/-- A magnitude beyond every format's largest finite value, and one below every smallest. -/
def hugeW (s : Bool) : WVal := .fin s 1 100000 true
def tinyW (s : Bool) : WVal := .fin s 1 (-100000) true

/-- One, less a part too small for the places kept. -/
def belowOne (s : Bool) : WVal := .fin s (2 ^ sfP - 1) (-(sfP : Int)) true

/-- e^x of a finite non-zero x. -/
def expW (s : Bool) (m : Nat) (e : Int) : WVal :=
  if 12 < e + Nat.log2 m then (if s then tinyW false else hugeW false)
  else
    let x := toFix s m e
    let (y, k) := expParts x
    fromFix y k

/-- 2^x of a finite non-zero x; exact for an integer x. -/
def exp2W (s : Bool) (m : Nat) (e : Int) : WVal :=
  if 12 < e + Nat.log2 m then (if s then tinyW false else hugeW false)
  else
    let x := toFix s m e
    let k := x / (2 ^ sfP : Int)
    let r := x - k * 2 ^ sfP
    if r = 0 then .fin false 1 k false
    else fromFix (expFix (r * (sfLn2 : Int) / 2 ^ sfP)) k

/-- log2 of a finite positive x; exact for a power of two. -/
def log2W (m : Nat) (e : Int) : WVal :=
  let l := Nat.log2 m
  if m = 2 ^ l then exactInt (e + l)
  else
    let y : Int := toFix false m (-(l : Int))
    let f := lnFix y * 2 ^ sfP / (sfLn2 : Int)
    fromFix ((e + l) * 2 ^ sfP + f) 0

/-- √x, exact where it is rational. -/
def sqrtW (m : Nat) (e : Int) : WVal :=
  let odd := e % 2 != 0
  let m1 := if odd then 2 * m else m
  let e1 := if odd then e - 1 else e
  let n := m1 <<< (2 * sfP)
  let r := isqrt n
  .fin false r (e1 / 2 - sfP) (r * r != n)

/-- 1/√x. -/
def rsqrtW (m : Nat) (e : Int) : WVal :=
  let odd := e % 2 != 0
  let m1 := if odd then 2 * m else m
  let e1 := if odd then e - 1 else e
  let n := (1 <<< (4 * sfP)) / m1
  let r := isqrt n
  .fin false r (-(e1 / 2) - 2 * sfP) (r * r * m1 != 1 <<< (4 * sfP))

/-- sin (`c` false) or cos of a finite non-zero x, the argument reduced by multiples of π/2. -/
def sinCosW (c : Bool) (s : Bool) (m : Nat) (e : Int) : WVal :=
  let x := toFix s m e
  let hp : Int := (sfPi : Int) / 2
  let k := (2 * x + hp) / (2 * hp)
  let r := x - k * (sfPi : Int) / 2
  let q := (k + (if c then 1 else 0)) % 4
  let v := match q.toNat with
    | 0 => sinFix r
    | 1 => cosFix r
    | 2 => -(sinFix r)
    | _ => -(cosFix r)
  fromFix v 0

/-- tanh x = (1 − e^−2x) / (1 + e^−2x) for x > 0. From 64 on it differs from 1 by less than 2^−180. -/
def tanhW (s : Bool) (m : Nat) (e : Int) : WVal :=
  if 5 < e + Nat.log2 m then belowOne s
  else
    let one : Int := 2 ^ sfP
    let x := toFix false m e
    let (y, k) := expParts (-2 * x)
    let t : Int := y / (2 ^ (-k).toNat : Nat)
    let v := if x * 2 ^ 300 < one then x - (x * x / one * x / one) / 3 else (one - t) * one / (one + t)
    fromFix (if s then -v else v) 0

/-- 1 / (1 + e^−x). -/
def sigmoidW (s : Bool) (m : Nat) (e : Int) : WVal :=
  if 12 < e + Nat.log2 m then (if s then tinyW false else belowOne false)
  else
    let one : Int := 2 ^ sfP
    let (y, k) := expParts (-(toFix false m e))
    let t : Int := y / (2 ^ (-k).toNat : Nat)
    if s then fromFix (y * one / (one + t)) k
    else if t = 0 then belowOne false else fromFix (one * one / (one + t)) 0

/-- erf x. From 8 on it differs from 1 by less than 2^−90. -/
def erfW (s : Bool) (m : Nat) (e : Int) : WVal :=
  if 2 < e + Nat.log2 m then belowOne s
  else
    let v := erfFix (toFix false m e)
    fromFix (if s then -v else v) 0

/-- The value of a special function and the classes its table raises (R108). -/
def sfValue (fn : SfFn) (w : WVal) : WVal × Flags :=
  match fn, w with
  | _, .nan q => (.nan true, if q then 0 else fINVALID)
  | .exp, .inf s => (if s then .zero false else .inf false, 0)
  | .exp2, .inf s => (if s then .zero false else .inf false, 0)
  | .exp, .zero _ => (exactInt 1, 0)
  | .exp2, .zero _ => (exactInt 1, 0)
  | .exp, .fin s m e _ => (expW s m e, 0)
  | .exp2, .fin s m e _ => (exp2W s m e, 0)
  | .log2, .inf s => if s then (.nan true, fINVALID) else (.inf false, 0)
  | .log2, .zero _ => (.inf true, fDIVZERO)
  | .log2, .fin s m e _ => if s then (.nan true, fINVALID) else (log2W m e, 0)
  | .rcp, .inf s => (.zero s, 0)
  | .rcp, .zero s => (.inf s, fDIVZERO)
  | .rcp, .fin s m e _ => (ratio s 1 0 m e, 0)
  | .rsqrt, .inf s => if s then (.nan true, fINVALID) else (.zero false, 0)
  | .rsqrt, .zero s => (.inf s, fDIVZERO)
  | .rsqrt, .fin s m e _ => if s then (.nan true, fINVALID) else (rsqrtW m e, 0)
  | .sqrt, .inf s => if s then (.nan true, fINVALID) else (.inf false, 0)
  | .sqrt, .zero s => (.zero s, 0)
  | .sqrt, .fin s m e _ => if s then (.nan true, fINVALID) else (sqrtW m e, 0)
  | .sin, .inf _ => (.nan true, fINVALID)
  | .sin, .zero s => (.zero s, 0)
  | .sin, .fin s m e _ => (sinCosW false s m e, 0)
  | .cos, .inf _ => (.nan true, fINVALID)
  | .cos, .zero _ => (exactInt 1, 0)
  | .cos, .fin s m e _ => (sinCosW true s m e, 0)
  | .tanh, .inf s => (exactInt (if s then -1 else 1), 0)
  | .tanh, .zero s => (.zero s, 0)
  | .tanh, .fin s m e _ => (tanhW s m e, 0)
  | .sigmoid, .inf s => (if s then .zero false else exactInt 1, 0)
  | .sigmoid, .zero _ => (.fin false 1 (-1) false, 0)
  | .sigmoid, .fin s m e _ => (sigmoidW s m e, 0)
  | .erf, .inf s => (exactInt (if s then -1 else 1), 0)
  | .erf, .zero s => (.zero s, 0)
  | .erf, .fin s m e _ => (erfW s m e, 0)

/-- A finite result whose magnitude is below the smallest normal value of the destination (R108). -/
def sfTiny (f : Fmt) : WVal → Bool
  | .fin _ m e _ => decide (e + Nat.log2 m < (if f.fw == 0 && f.sub then -(f.bias : Int) else 1 - f.bias))
  | _ => false

/-- The magnitude of a finite value exceeds maxfin. -/
def beyondMax (f : Fmt) (m : Nat) (e : Int) (st : Bool) : Bool :=
  let k := 2 ^ f.fw + (maxFin f).2; let x := (maxFin f).1 - f.fw
  magLt k x m e || (st && !magLt m e k x)

/-- The encoding of a special function's result (R107, R108): RNE into 16 bits or fewer; into 32 bits one of the two
values that bracket it, which one being free (`up`). -/
def sfEncode (f : Fmt) (w : WVal) (up : Bool) : Nat × Flags :=
  if sfTiny f w then (0, fUNDERFLOW ||| fINEXACT)
  else match w with
    | .fin s m e st =>
      if f.n = 32 ∧ beyondMax f m e st = false then fencode f (.fin s m e st) (if up != s then 3 else 2) 0
      else fencode f w 0 0
    | w => fencode f w 0 0

/-- The argument is below the threshold SFTH.TH (R108). -/
def belowTh (th : BitVec 32) (w : WVal) : Bool :=
  match fdecode fp32 th.toNat, w with
  | .nan _, _ => false
  | t, .zero s => cmpW (.zero s) t == -1
  | t, .fin s m e st => cmpW (.fin s m e st) t == -1
  | _, _ => false

/-- A special function of an argument into an entry. DESIGN CHOICE (log 17). -/
def sfApply (fn : SfFn) (f : Fmt) (th : BitVec 32) (w : WVal) (up : Bool) : Nat × Flags :=
  if (fn = .exp ∨ fn = .exp2) ∧ belowTh th w = true then (0, fUNDERFLOW ||| fINEXACT)
  else
    let (v, fl) := sfValue fn w
    let (c, g) := sfEncode f v up
    (c, fl ||| g)

end Sys2Proof.Machine
end

