-- ==== Sys2Proof/Machine/VecArith.lean ====
section
/-! DEFINITION. Majors 0x48, 0x49, 0x4A, 0x4E, 0x4F and 0x50: element-wise arithmetic, compares, selection, the
butterfly stage, conversions and special functions (R226 to R243). -/

namespace Sys2Proof.Machine

/-! ### Element-wise members (R228, R229) -/

/-- The result of one element: its code, the classes it raises, and whether it is poisoned. -/
structure ElemOut where
  code : Nat
  flags : Flags
  pois : Bool

/-- Entries that are not block-scaled. -/
def plainFmt (f : Fmt) : Bool := f.blk == 0

/-- Integer entries that are not block-scaled (R231). -/
def intFmt (f : Fmt) : Bool := f.isInt && f.blk == 0

/-- Floating entries that are not block-scaled (R107). -/
def floatFmt (f : Fmt) : Bool := !f.isInt && f.blk == 0

/-- The checks of one entry: validity, then leave to use it (R89). -/
def ckEntry (h : Hart) (k : FEnt) (ok : Fmt → Bool) : Check := firstFail [ckFmt h k, ckAllow k (ok (fmt h k))]

/-- An element-wise member that writes a group in entry `fd` under a mask. `f` takes the counter of free values. -/
def ewMember (vd : VReg) (fd : FEnt) (mk : MReg) (check : Hart → Check) (draws : Hart → Bool)
    (f : Nat → Hart → Nat → ElemOut) : Member :=
  { check := fun s => check s.hart,
    run := fun dev lo hi s =>
      let n := (fmt s.hart fd).n; let fr := s.free
      pureElems (fun i h => maskedElem h mk vd.val i n (fun h =>
        let r := f fr h i
        raise (setElem h vd.val i n r.code r.pois) i r.flags)) dev lo hi s,
    fin := fun lo s =>
      if lo < vlOf s.hart then s.onHart (fun h => tailGroup h vd.val (vlOf h) (fmt h fd).n) else s,
    draws := draws }

/-- The checks of a form with a destination group and two operands (R228, R231, R232). DEDUCED (log 31). -/
def binCheck (vd vs1 : VReg) (b : VSrc) (fd fa fb : FEnt) (ok : Fmt → Bool) (extra : Hart → Check)
    (third : List VReg) (h : Hart) : Check :=
  firstFail ([ckVl h [fd, fa, fb], ckEntry h fd ok, ckEntry h fa ok, ckEntry h fb ok, extra h,
    ckGroup h vd.val 8, ckGroup h vs1.val 14, ckSrcB h b] ++ third.map (fun v => ckGroup h v.val 26) ++
    [ckCoincide vd.val (fmt h fd).n ((vs1.val, (fmt h fa).n) :: srcBGroup h b fb)])

/-- Encodes a wide value as element i, with its own draw (R98, R101). -/
def encElem (h : Hart) (fd : FEnt) (rm i : Nat) (w : WVal) (f : Flags) (p : Bool) : ElemOut :=
  let r := fencode (fmt h fd) w rm (drawAt h.vc.rseed i)
  ⟨r.1, f ||| r.2, p⟩

/-! ### Major 0x48 (R231, R232) -/

/-- The integer of a code. -/
def intVal (f : Fmt) (c : Nat) : Int := if f.spv = 4 then sextInt f.n c else Int.ofNat (c % 2 ^ f.n)

/-- The operands of a form of major 0x48. -/
abbrev IntForm := VReg → VReg → VSrc → FEnt → FEnt → FEnt → MReg → Member

/-- An integer form: the exact result from the width of FD, a, b and d, encoded by R95. No form but `vavg` raises INEXACT,
and one that saturates raises SATURATION alone (R232). DEDUCED (log 95). -/
def intMember (usesD : Bool) (op : Fmt → Int → Int → Int → Nat × Flags) : IntForm := fun vd vs1 b fd fa fb mk =>
  ewMember vd fd mk (binCheck vd vs1 b fd fa fb intFmt (fun _ => none) []) (fun _ => false) (fun _ h i =>
    let d := fmt h fd
    let r := op d (intVal (fmt h fa) (elem h vs1.val i (fmt h fa).n)) (intVal (fmt h fb) (codeB h b fb i))
      (intVal d (elem h vd.val i d.n))
    ⟨r.1, r.2 &&& ~~~fINEXACT, elemPois h vs1.val i (fmt h fa).n || poisVB h b fb i || (usesD && elemPois h vd.val i d.n)⟩)

/-- A form on codes: equal widths of FA and FD, and of FB when `both` (R232). -/
def codeMember (both : Bool) (op : Nat → Nat → Nat → Nat) : IntForm := fun vd vs1 b fd fa fb mk =>
  ewMember vd fd mk
    (binCheck vd vs1 b fd fa fb intFmt (fun h =>
      ckAllow fd ((fmt h fa).n == (fmt h fd).n && (!both || (fmt h fb).n == (fmt h fd).n))) [])
    (fun _ => false) (fun _ h i =>
    let n := (fmt h fd).n
    ⟨op n (elem h vs1.val i n) (codeB h b fb i), 0, elemPois h vs1.val i n || poisVB h b fb i⟩)

def vaddMember : IntForm := intMember false (fun d a b _ => encInt d (a + b))

def vsubMember : IntForm := intMember false (fun d a b _ => encInt d (a - b))

def vrsubMember : IntForm := intMember false (fun d a b _ => encInt d (b - a))

def vmulMember : IntForm := intMember false (fun d a b _ => encInt d (a * b))

def vmulhMember : IntForm := intMember false (fun d a b _ => encInt d ((a * b).fdiv (2 ^ d.n)))

def vdivMember : IntForm := intMember false (fun d a b _ => if b = 0 then (2 ^ d.n - 1, 0) else encInt d (a.tdiv b))

def vremMember : IntForm := intMember false (fun d a b _ => if b = 0 then ((encInt d a).1, 0) else encInt d (a - b * a.tdiv b))

def vmaccMember : IntForm := intMember true (fun d a b c => encInt d (c + a * b))

def vabsdMember : IntForm := intMember false (fun d a b _ => encInt d (a - b).natAbs)

def vandMember : IntForm := codeMember true (fun _ a b => a &&& b)

def vorMember : IntForm := codeMember true (fun _ a b => a ||| b)

def vxorMember : IntForm := codeMember true (fun _ a b => a ^^^ b)

def vsllMember : IntForm := codeMember false (fun n a b => (a <<< (b % n)) % 2 ^ n)

def vsrlMember : IntForm := codeMember false (fun n a b => a >>> (b % n))

def vsraMember : IntForm := codeMember false (fun n a b => intCode n (sextInt n a >>> (b % n)))

/-- `vavg`: the one integer form that rounds. -/
def vavgMember (vd vs1 : VReg) (b : VSrc) (fd fa fb : FEnt) (mk : MReg) (rm : RMode) : Member :=
  ewMember vd fd mk (binCheck vd vs1 b fd fa fb intFmt (fun _ => none) []) (fun h => drawsWith h (rmode h rm) mk)
    (fun _ h i =>
      let a := intVal (fmt h fa) (elem h vs1.val i (fmt h fa).n)
      let c := intVal (fmt h fb) (codeB h b fb i)
      encElem h fd (rmode h rm) i (halveW 1 (exactInt (a + c))) 0
        (elemPois h vs1.val i (fmt h fa).n || poisVB h b fb i))

/-- `vadd` (R231, R232). -/
def execVadd (vd vs1 : VReg) (b : VSrc) (fd fa fb : FEnt) (mk : MReg) (s : State) : Out :=
  .next (soloConvoy (vaddMember vd vs1 b fd fa fb mk) s)

/-- `vsub` (R231, R232). -/
def execVsub (vd vs1 : VReg) (b : VSrc) (fd fa fb : FEnt) (mk : MReg) (s : State) : Out :=
  .next (soloConvoy (vsubMember vd vs1 b fd fa fb mk) s)

/-- `vrsub` (R231, R232). -/
def execVrsub (vd vs1 : VReg) (b : VSrc) (fd fa fb : FEnt) (mk : MReg) (s : State) : Out :=
  .next (soloConvoy (vrsubMember vd vs1 b fd fa fb mk) s)

/-- `vmul` (R231, R232). -/
def execVmul (vd vs1 : VReg) (b : VSrc) (fd fa fb : FEnt) (mk : MReg) (s : State) : Out :=
  .next (soloConvoy (vmulMember vd vs1 b fd fa fb mk) s)

/-- `vmulh` (R231, R232). -/
def execVmulh (vd vs1 : VReg) (b : VSrc) (fd fa fb : FEnt) (mk : MReg) (s : State) : Out :=
  .next (soloConvoy (vmulhMember vd vs1 b fd fa fb mk) s)

/-- `vdiv` (R231, R232). -/
def execVdiv (vd vs1 : VReg) (b : VSrc) (fd fa fb : FEnt) (mk : MReg) (s : State) : Out :=
  .next (soloConvoy (vdivMember vd vs1 b fd fa fb mk) s)

/-- `vrem` (R231, R232). -/
def execVrem (vd vs1 : VReg) (b : VSrc) (fd fa fb : FEnt) (mk : MReg) (s : State) : Out :=
  .next (soloConvoy (vremMember vd vs1 b fd fa fb mk) s)

/-- `vmacc` (R231, R232). -/
def execVmacc (vd vs1 : VReg) (b : VSrc) (fd fa fb : FEnt) (mk : MReg) (s : State) : Out :=
  .next (soloConvoy (vmaccMember vd vs1 b fd fa fb mk) s)

/-- `vabsd` (R231, R232). -/
def execVabsd (vd vs1 : VReg) (b : VSrc) (fd fa fb : FEnt) (mk : MReg) (s : State) : Out :=
  .next (soloConvoy (vabsdMember vd vs1 b fd fa fb mk) s)

/-- `vavg` (R231, R232). -/
def execVavg (vd vs1 : VReg) (b : VSrc) (fd fa fb : FEnt) (mk : MReg) (rm : RMode) (s : State) : Out :=
  .next (soloConvoy (vavgMember vd vs1 b fd fa fb mk rm) s)

/-- `vand` (R231, R232). -/
def execVand (vd vs1 : VReg) (b : VSrc) (fd fa fb : FEnt) (mk : MReg) (s : State) : Out :=
  .next (soloConvoy (vandMember vd vs1 b fd fa fb mk) s)

/-- `vor` (R231, R232). -/
def execVor (vd vs1 : VReg) (b : VSrc) (fd fa fb : FEnt) (mk : MReg) (s : State) : Out :=
  .next (soloConvoy (vorMember vd vs1 b fd fa fb mk) s)

/-- `vxor` (R231, R232). -/
def execVxor (vd vs1 : VReg) (b : VSrc) (fd fa fb : FEnt) (mk : MReg) (s : State) : Out :=
  .next (soloConvoy (vxorMember vd vs1 b fd fa fb mk) s)

/-- `vsll` (R231, R232). -/
def execVsll (vd vs1 : VReg) (b : VSrc) (fd fa fb : FEnt) (mk : MReg) (s : State) : Out :=
  .next (soloConvoy (vsllMember vd vs1 b fd fa fb mk) s)

/-- `vsrl` (R231, R232). -/
def execVsrl (vd vs1 : VReg) (b : VSrc) (fd fa fb : FEnt) (mk : MReg) (s : State) : Out :=
  .next (soloConvoy (vsrlMember vd vs1 b fd fa fb mk) s)

/-- `vsra` (R231, R232). -/
def execVsra (vd vs1 : VReg) (b : VSrc) (fd fa fb : FEnt) (mk : MReg) (s : State) : Out :=
  .next (soloConvoy (vsraMember vd vs1 b fd fa fb mk) s)

/-! ### Major 0x49 (R233, R234) -/

/-- The operands of a rounding form with two operands. -/
abbrev FloatForm := VReg → VReg → VSrc → FEnt → FEnt → FEnt → MReg → RMode → Member

/-- A floating form: `op` takes whether rounding is RDN, then a, b and d. -/
def floatMember (usesD : Bool) (op : Bool → WVal → WVal → WVal → WVal × Flags) : FloatForm :=
  fun vd vs1 b fd fa fb mk rm =>
  ewMember vd fd mk (binCheck vd vs1 b fd fa fb plainFmt (fun _ => none) []) (fun h => drawsWith h (rmode h rm) mk)
    (fun _ h i =>
      let m := rmode h rm
      let r := op (m == 2) (opnd h vs1.val fa i) (opndB h b fb i) (opnd h vd.val fd i)
      encElem h fd m i r.1 r.2
        (elemPois h vs1.val i (fmt h fa).n || poisVB h b fb i || (usesD && elemPois h vd.val i (fmt h fd).n)))

/-- A sign form: `op` gives the sign from those of the two codes. -/
def signMember (op : Bool → Bool → Bool) : FloatForm := fun vd vs1 b fd fa fb mk rm =>
  ewMember vd fd mk (binCheck vd vs1 b fd fa fb plainFmt (fun _ => none) []) (fun h => drawsWith h (rmode h rm) mk)
    (fun _ h i =>
      let ca := elem h vs1.val i (fmt h fa).n
      let w := withSign (op (signBit (fmt h fa) ca) (signBit (fmt h fb) (codeB h b fb i))) (fdecode (fmt h fa) ca)
      encElem h fd (rmode h rm) i w (snanFlag w) (elemPois h vs1.val i (fmt h fa).n || poisVB h b fb i))

def vfaddMember : FloatForm := floatMember false (fun r a b _ => addW r a b)

def vfsubMember : FloatForm := floatMember false (fun r a b _ => addW r a (negW b))

def vfrsubMember : FloatForm := floatMember false (fun r a b _ => addW r b (negW a))

def vfmulMember : FloatForm := floatMember false (fun _ a b _ => mulW a b)

def vfdivMember : FloatForm := floatMember false (fun _ a b _ => divW a b)

def vfrdivMember : FloatForm := floatMember false (fun _ a b _ => divW b a)

def vfmaccMember : FloatForm := floatMember true (fun r a b d => fmaW r a b d)

def vfnmaccMember : FloatForm := floatMember true (fun r a b d => fmaW r (negW a) b (negW d))

def vfmsacMember : FloatForm := floatMember true (fun r a b d => fmaW r a b (negW d))

def vfnmsacMember : FloatForm := floatMember true (fun r a b d => fmaW r (negW a) b d)

def vfsgnjMember : FloatForm := signMember (fun _ t => t)

def vfsgnjnMember : FloatForm := signMember (fun _ t => !t)

def vfsgnjxMember : FloatForm := signMember (fun s t => s != t)

/-- `vfma`: the addend c is a group of entry FD. -/
def vfmaMember (vd vs1 : VReg) (b : VSrc) (vs3 : VReg) (fd fa fb : FEnt) (mk : MReg) (rm : RMode) : Member :=
  ewMember vd fd mk (binCheck vd vs1 b fd fa fb plainFmt (fun _ => none) [vs3]) (fun h => drawsWith h (rmode h rm) mk)
    (fun _ h i =>
      let m := rmode h rm
      let r := fmaW (m == 2) (opnd h vs1.val fa i) (opndB h b fb i) (opnd h vs3.val fd i)
      encElem h fd m i r.1 r.2
        (elemPois h vs1.val i (fmt h fa).n || poisVB h b fb i || elemPois h vs3.val i (fmt h fd).n))

/-- The checks of a form with one source group. -/
def unCheck (vd vs1 : VReg) (fd fa : FEnt) (okD okA : Fmt → Bool) (h : Hart) : Check :=
  firstFail [ckVl h [fd, fa], ckEntry h fd okD, ckEntry h fa okA, ckGroup h vd.val 8, ckGroup h vs1.val 14,
    ckCoincide vd.val (fmt h fd).n [(vs1.val, (fmt h fa).n)]]

/-- `vfclass` (R234). -/
def vfclassMember (vd vs1 : VReg) (fd fa : FEnt) (mk : MReg) : Member :=
  ewMember vd fd mk (unCheck vd vs1 fd fa intFmt plainFmt) (fun _ => false) (fun _ h i =>
    let r := encInt (fmt h fd) (classOf (fmt h fa) (elem h vs1.val i (fmt h fa).n))
    ⟨r.1, r.2, elemPois h vs1.val i (fmt h fa).n⟩)

/-- `vfadd` (R233). -/
def execVfadd (vd vs1 : VReg) (b : VSrc) (fd fa fb : FEnt) (mk : MReg) (rm : RMode) (s : State) : Out :=
  .next (soloConvoy (vfaddMember vd vs1 b fd fa fb mk rm) s)

/-- `vfsub` (R233). -/
def execVfsub (vd vs1 : VReg) (b : VSrc) (fd fa fb : FEnt) (mk : MReg) (rm : RMode) (s : State) : Out :=
  .next (soloConvoy (vfsubMember vd vs1 b fd fa fb mk rm) s)

/-- `vfrsub` (R233). -/
def execVfrsub (vd vs1 : VReg) (b : VSrc) (fd fa fb : FEnt) (mk : MReg) (rm : RMode) (s : State) : Out :=
  .next (soloConvoy (vfrsubMember vd vs1 b fd fa fb mk rm) s)

/-- `vfmul` (R233). -/
def execVfmul (vd vs1 : VReg) (b : VSrc) (fd fa fb : FEnt) (mk : MReg) (rm : RMode) (s : State) : Out :=
  .next (soloConvoy (vfmulMember vd vs1 b fd fa fb mk rm) s)

/-- `vfdiv` (R233). -/
def execVfdiv (vd vs1 : VReg) (b : VSrc) (fd fa fb : FEnt) (mk : MReg) (rm : RMode) (s : State) : Out :=
  .next (soloConvoy (vfdivMember vd vs1 b fd fa fb mk rm) s)

/-- `vfrdiv` (R233). -/
def execVfrdiv (vd vs1 : VReg) (b : VSrc) (fd fa fb : FEnt) (mk : MReg) (rm : RMode) (s : State) : Out :=
  .next (soloConvoy (vfrdivMember vd vs1 b fd fa fb mk rm) s)

/-- `vfmacc` (R233). -/
def execVfmacc (vd vs1 : VReg) (b : VSrc) (fd fa fb : FEnt) (mk : MReg) (rm : RMode) (s : State) : Out :=
  .next (soloConvoy (vfmaccMember vd vs1 b fd fa fb mk rm) s)

/-- `vfnmacc` (R233). -/
def execVfnmacc (vd vs1 : VReg) (b : VSrc) (fd fa fb : FEnt) (mk : MReg) (rm : RMode) (s : State) : Out :=
  .next (soloConvoy (vfnmaccMember vd vs1 b fd fa fb mk rm) s)

/-- `vfmsac` (R233). -/
def execVfmsac (vd vs1 : VReg) (b : VSrc) (fd fa fb : FEnt) (mk : MReg) (rm : RMode) (s : State) : Out :=
  .next (soloConvoy (vfmsacMember vd vs1 b fd fa fb mk rm) s)

/-- `vfnmsac` (R233). -/
def execVfnmsac (vd vs1 : VReg) (b : VSrc) (fd fa fb : FEnt) (mk : MReg) (rm : RMode) (s : State) : Out :=
  .next (soloConvoy (vfnmsacMember vd vs1 b fd fa fb mk rm) s)

/-- `vfma` (R233). -/
def execVfma (vd vs1 : VReg) (b : VSrc) (vs3 : VReg) (fd fa fb : FEnt) (mk : MReg) (rm : RMode) (s : State) : Out :=
  .next (soloConvoy (vfmaMember vd vs1 b vs3 fd fa fb mk rm) s)

/-- `vfsgnj` (R233, R234). -/
def execVfsgnj (vd vs1 : VReg) (b : VSrc) (fd fa fb : FEnt) (mk : MReg) (rm : RMode) (s : State) : Out :=
  .next (soloConvoy (vfsgnjMember vd vs1 b fd fa fb mk rm) s)

/-- `vfsgnjn` (R233, R234). -/
def execVfsgnjn (vd vs1 : VReg) (b : VSrc) (fd fa fb : FEnt) (mk : MReg) (rm : RMode) (s : State) : Out :=
  .next (soloConvoy (vfsgnjnMember vd vs1 b fd fa fb mk rm) s)

/-- `vfsgnjx` (R233, R234). -/
def execVfsgnjx (vd vs1 : VReg) (b : VSrc) (fd fa fb : FEnt) (mk : MReg) (rm : RMode) (s : State) : Out :=
  .next (soloConvoy (vfsgnjxMember vd vs1 b fd fa fb mk rm) s)

/-- `vfclass` (R234). -/
def execVfclass (vd vs1 : VReg) (fd fa : FEnt) (mk : MReg) (s : State) : Out :=
  .next (soloConvoy (vfclassMember vd vs1 fd fa mk) s)

/-! ### Major 0x4A (R235, R236) -/

def vminMember : FloatForm := floatMember false (fun _ a b _ => minMaxW false a b)

def vmaxMember : FloatForm := floatMember false (fun _ a b _ => minMaxW true a b)

/-- The operands of a compare. -/
abbrev CmpForm := MReg → VReg → VSrc → FEnt → FEnt → MReg → Member

/-- A compare, by the number that `compareW` gives the relation. -/
def cmpMember (op : Nat) : CmpForm := fun md vs1 b fa fb mk =>
  { check := fun s =>
      let h := s.hart
      firstFail [ckVl h [fa, fb], ckEntry h fa plainFmt, ckEntry h fb plainFmt, ckGroup h vs1.val 14, ckSrcB h b],
    run := pureElems (fun i h =>
      let p := mpois h mk i
      if mbit h mk i then
        let r := compareW op (opnd h vs1.val fa i) (opndB h b fb i)
        raise (setMbit h md i r.1 (p || elemPois h vs1.val i (fmt h fa).n || poisVB h b fb i)) i r.2
      else if maskZero h then setMbit h md i false p
      else if p then setMbit h md i (mbit h md i) true else h),
    fin := fun lo s => if lo < vlOf s.hart then s.onHart (fun h => tailMask h md (vlOf h)) else s,
    draws := fun _ => false }

def vmeqMember : CmpForm := cmpMember 0

def vmneMember : CmpForm := cmpMember 1

def vmltMember : CmpForm := cmpMember 2

def vmleMember : CmpForm := cmpMember 3

def vmgtMember : CmpForm := cmpMember 4

def vmgeMember : CmpForm := cmpMember 5

/-- `vmerge`: MSK selects, and every element is active (R236). -/
def vmergeMember (vd vs1 : VReg) (b : VSrc) (fd fa fb : FEnt) (mk : MReg) (rm : RMode) : Member :=
  { check := fun s => binCheck vd vs1 b fd fa fb plainFmt (fun _ => none) [] s.hart,
    run := fun dev lo hi s =>
      pureElems (fun i h =>
        let r := if mbit h mk i then
            encElem h fd (rmode h rm) i (opnd h vs1.val fa i) 0 (elemPois h vs1.val i (fmt h fa).n)
          else encElem h fd (rmode h rm) i (opndB h b fb i) 0 (poisVB h b fb i)
        raise (setElem h vd.val i (fmt h fd).n r.code (r.pois || mpois h mk i)) i r.flags) dev lo hi s,
    fin := fun lo s =>
      if lo < vlOf s.hart then s.onHart (fun h => tailGroup h vd.val (vlOf h) (fmt h fd).n) else s,
    draws := fun h => rmode h rm == 5 && decide (0 < vlOf h) }

/-- `vsplat` (R236). -/
def vsplatMember (vd : VReg) (xs : XReg) (fd fb : FEnt) (mk : MReg) (rm : RMode) : Member :=
  ewMember vd fd mk
    (fun h => firstFail [ckVl h [fd, fb], ckEntry h fd plainFmt, ckEntry h fb plainFmt, ckGroup h vd.val 8])
    (fun h => drawsWith h (rmode h rm) mk)
    (fun _ h i => encElem h fd (rmode h rm) i (opndB h (.scal xs) fb i) 0 (poisX h xs))

/-- `vmin` (R235). -/
def execVmin (vd vs1 : VReg) (b : VSrc) (fd fa fb : FEnt) (mk : MReg) (rm : RMode) (s : State) : Out :=
  .next (soloConvoy (vminMember vd vs1 b fd fa fb mk rm) s)

/-- `vmax` (R235). -/
def execVmax (vd vs1 : VReg) (b : VSrc) (fd fa fb : FEnt) (mk : MReg) (rm : RMode) (s : State) : Out :=
  .next (soloConvoy (vmaxMember vd vs1 b fd fa fb mk rm) s)

/-- `vmeq` (R235). -/
def execVmeq (md : MReg) (vs1 : VReg) (b : VSrc) (fa fb : FEnt) (mk : MReg) (s : State) : Out :=
  .next (soloConvoy (vmeqMember md vs1 b fa fb mk) s)

/-- `vmne` (R235). -/
def execVmne (md : MReg) (vs1 : VReg) (b : VSrc) (fa fb : FEnt) (mk : MReg) (s : State) : Out :=
  .next (soloConvoy (vmneMember md vs1 b fa fb mk) s)

/-- `vmlt` (R235). -/
def execVmlt (md : MReg) (vs1 : VReg) (b : VSrc) (fa fb : FEnt) (mk : MReg) (s : State) : Out :=
  .next (soloConvoy (vmltMember md vs1 b fa fb mk) s)

/-- `vmle` (R235). -/
def execVmle (md : MReg) (vs1 : VReg) (b : VSrc) (fa fb : FEnt) (mk : MReg) (s : State) : Out :=
  .next (soloConvoy (vmleMember md vs1 b fa fb mk) s)

/-- `vmgt` (R235). -/
def execVmgt (md : MReg) (vs1 : VReg) (b : VSrc) (fa fb : FEnt) (mk : MReg) (s : State) : Out :=
  .next (soloConvoy (vmgtMember md vs1 b fa fb mk) s)

/-- `vmge` (R235). -/
def execVmge (md : MReg) (vs1 : VReg) (b : VSrc) (fa fb : FEnt) (mk : MReg) (s : State) : Out :=
  .next (soloConvoy (vmgeMember md vs1 b fa fb mk) s)

/-- `vmerge` (R236). -/
def execVmerge (vd vs1 : VReg) (b : VSrc) (fd fa fb : FEnt) (mk : MReg) (rm : RMode) (s : State) : Out :=
  .next (soloConvoy (vmergeMember vd vs1 b fd fa fb mk rm) s)

/-- `vsplat` (R236). -/
def execVsplat (vd : VReg) (xs : XReg) (fd fb : FEnt) (mk : MReg) (rm : RMode) (s : State) : Out :=
  .next (soloConvoy (vsplatMember vd xs fd fb mk rm) s)

/-! ### The butterfly stage (R237) -/

/-- `vbfly`: two destination groups, each encoded once. DEDUCED (log 32). -/
def vbflyMember (vd vs1 vs2 : VReg) (fd fa fb : FEnt) (mk : MReg) (rm : RMode) (sh : Fin 16) : Member :=
  { check := fun s =>
      let h := s.hart
      let src := [(vs1.val, (fmt h fa).n), (vs2.val, (fmt h fb).n)]
      firstFail [ckVl h [fd, fa, fb], ckEntry h fd plainFmt, ckEntry h fa plainFmt, ckEntry h fb plainFmt,
        ckBit (vd.val % (2 * grp h) != 0 || decide (64 < vd.val + 2 * grp h)) 8, ckGroup h vs1.val 14,
        ckGroup h vs2.val 20, ckCoincide vd.val (fmt h fd).n src, ckCoincide (vd.val + grp h) (fmt h fd).n src],
    run := fun dev lo hi s =>
      let n := (fmt s.hart fd).n; let w := vd.val + grp s.hart
      pureElems (fun i h =>
        let m := rmode h rm
        let a := opnd h vs1.val fa i; let b := opnd h vs2.val fb i
        let p := elemPois h vs1.val i (fmt h fa).n || elemPois h vs2.val i (fmt h fb).n
        let x := addW (m == 2) a b; let y := addW (m == 2) a (negW b)
        let r := encElem h fd m i (halveW sh.val x.1) x.2 p
        let q := encElem h fd m i (halveW sh.val y.1) y.2 p
        let h1 := maskedElem h mk vd.val i n (fun h => raise (setElem h vd.val i n r.code p) i r.flags)
        maskedElem h1 mk w i n (fun h => raise (setElem h w i n q.code p) i q.flags)) dev lo hi s,
    fin := fun lo s =>
      if lo < vlOf s.hart then s.onHart (fun h =>
        let n := (fmt h fd).n
        tailGroup (tailGroup h vd.val (vlOf h) n) (vd.val + grp h) (vlOf h) n) else s,
    draws := fun h => drawsWith h (rmode h rm) mk }

/-- `vbfly` (R237). -/
def execVbfly (vd vs1 vs2 : VReg) (fd fa fb : FEnt) (mk : MReg) (rm : RMode) (sh : Fin 16) (s : State) : Out :=
  .next (soloConvoy (vbflyMember vd vs1 vs2 fd fa fb mk rm sh) s)

/-! ### Conversions (R238 to R241) -/

/-- `vcvt` (R239). -/
def vcvtMember (vd vs1 : VReg) (fd fa : FEnt) (mk : MReg) (rm : RMode) : Member :=
  ewMember vd fd mk (unCheck vd vs1 fd fa plainFmt plainFmt) (fun h => drawsWith h (rmode h rm) mk) (fun _ h i =>
    let a := opnd h vs1.val fa i
    encElem h fd (rmode h rm) i a (snanFlag a) (elemPois h vs1.val i (fmt h fa).n))

/-- The place of the scale of element i of a group at v (R94): its byte of the scale register. -/
def scaleByte (h : Hart) (f : Fmt) (v i : Nat) : Nat :=
  let per := h.vlen / f.n
  let q := f.blkLen * f.n / 8
  ((v + i / per) % q * per + i % per) / f.blkLen

/-- A scale register lies inside a group. -/
def scaleInside (h : Hart) (vs3 vd vs1 : VReg) : Bool :=
  (decide (vd.val ≤ vs3.val) && decide (vs3.val < vd.val + grp h))
  || (decide (vs1.val ≤ vs3.val) && decide (vs3.val < vs1.val + grp h))

/-- The checks of the block conversions. -/
def blockCheck (vd vs1 vs3 : VReg) (fd fa : FEnt) (okD okA : Fmt → Bool) (h : Hart) : Check :=
  firstFail [ckVl h [fd, fa], ckEntry h fd okD, ckEntry h fa okA, ckGroup h vd.val 8, ckGroup h vs1.val 14,
    ckCoincide vd.val (fmt h fd).n [(vs1.val, (fmt h fa).n)], ckBit (scaleInside h vs3 vd vs1) 26]

/-- Encodes the block of elements `a` to `z` − 1 (R99, R240): its scale byte, and its elements below `hi`. The classes of a
block that a stop has cut short are raised when it is computed again. DEDUCED (log 96). -/
def encodeBlock (vd vs1 vs3 : VReg) (fd fa : FEnt) (mk : MReg) (rm ty a z hi : Nat) (h0 : Hart) : Hart :=
  let d := fmt h0 fd
  let raise := fun (h : Hart) (i : Nat) (f : Flags) => if z ≤ hi then raise h i f else h
  let act := (List.range' a (z - a)).filter (fun i => mbit h0 mk i)
  let vals := act.map (fun i => opnd h0 vs1.val fa i)
  let p := act.any (fun i => elemPois h0 vs1.val i (fmt h0 fa).n) || (List.range' a (z - a)).any (fun i => mpois h0 mk i)
  let bad := vals.any (fun w => match w with | .nan _ => true | .inf _ => true | _ => false)
  let mm := magMax vals
  let sc := if bad then nanScale d ty else blockScale d ty mm.1 mm.2
  let byte := scaleByte h0 d vd.val a
  let h1 := setVbits h0 vs3.val (byte * 8) 8 sc p
  let h2 := if bad then (match act with | i :: _ => raise h1 i fINVALID | [] => h1) else h1
  forRange a (min z hi) h2 (fun i h =>
    if mbit h0 mk i then
      if bad then setElem h vd.val i d.n 0 p
      else
        let r := encBlockElem d ty sc (opnd h0 vs1.val fa i) rm (drawAt h0.vc.rseed i)
        raise (setElem h vd.val i d.n r.1 p) i r.2
    else if maskZero h then setElem h vd.val i d.n 0 p
    else if mpois h0 mk i then poisonElem h vd.val i d.n else h)

/-- The scale type of `vcvtbs` stands in a reserved field unless FD has SCK 1 (R238). -/
def typeReserved (d : BitVec 32) (ty : Nat) : Option Nat :=
  if (parseFmt d).sck != 1 && ty % 4 != 0 then some (64 + lowestSet 2 ty) else none

/-- The decoding of a word for a hart: the field of R238 that the format table makes reserved is checked with the reserved
fields of the word (R153). -/
noncomputable def decodeFor (h : Hart) (w : BitVec 96) : DecRes :=
  let late := if bits w.toNat 7 0 = 0x4F ∧ bits w.toNat 61 54 = 1 then
      typeReserved (entry h ⟨bits w.toNat 41 38 % 16, by omega⟩) (bits w.toNat 65 64) else none
  match late, decode w with
  | some j, .err (.reserved i) => .err (.reserved (min i j))
  | some j, .ok _ => .err (.reserved j)
  | _, r => r

/-- `vcvtbs` (R240). Every block that holds an active element from the start on is encoded as far as the elements go; one that
a stop cuts short is computed again from its first element. -/
def vcvtbsMember (vd vs1 vs3 : VReg) (fd fa : FEnt) (mk : MReg) (rm : RMode) (ty : Fin 4) : Member :=
  { check := fun s => firstFail [(typeReserved (entry s.hart fd) ty.val).map (fun j => (0x0001, BitVec.ofNat 64 j)),
      blockCheck vd vs1 vs3 fd fa (fun f => f.blk != 0) plainFmt s.hart],
    run := fun dev lo hi s =>
      let ves := vesOf s.hart; let vl := vlOf s.hart; let bl := (fmt s.hart fd).blkLen
      pureElems (fun i h =>
        let a := i / bl * bl; let z := min (a + bl) vl
        if i + 1 = min z hi ∧ (List.range' (max a ves) (z - max a ves)).any (fun j => mbit h mk j) = true then
          encodeBlock vd vs1 vs3 fd fa mk (rmode h rm) ty.val a z hi h
        else h) dev lo hi s,
    fin := fun lo s =>
      if lo < vlOf s.hart then s.onHart (fun h => tailGroup h vd.val (vlOf h) (fmt h fd).n) else s,
    draws := fun h => drawsWith h (rmode h rm) mk }

/-- `vcvtbd` (R241). -/
def vcvtbdMember (vd vs1 vs3 : VReg) (fd fa : FEnt) (mk : MReg) (rm : RMode) : Member :=
  ewMember vd fd mk (blockCheck vd vs1 vs3 fd fa plainFmt (fun f => f.blk != 0))
    (fun h => drawsWith h (rmode h rm) mk) (fun _ h i =>
    let f := fmt h fa
    let byte := scaleByte h f vs1.val i
    let w := scaledVal f (getBits (vreg h vs3.val) (byte * 8) 8) (elem h vs1.val i f.n)
    encElem h fd (rmode h rm) i w (snanFlag w)
      (elemPois h vs1.val i f.n || getBits (vpoisReg h vs3.val) (byte * 8) 8 != 0))

/-- `vcvt` (R239). -/
def execVcvt (vd vs1 : VReg) (fd fa : FEnt) (mk : MReg) (rm : RMode) (s : State) : Out :=
  .next (soloConvoy (vcvtMember vd vs1 fd fa mk rm) s)

/-- `vcvtbs` (R240). -/
def execVcvtbs (vd vs1 vs3 : VReg) (fd fa : FEnt) (mk : MReg) (rm : RMode) (ty : Fin 4) (s : State) : Out :=
  .next (soloConvoy (vcvtbsMember vd vs1 vs3 fd fa mk rm ty) s)

/-- `vcvtbd` (R241). -/
def execVcvtbd (vd vs1 vs3 : VReg) (fd fa : FEnt) (mk : MReg) (rm : RMode) (s : State) : Out :=
  .next (soloConvoy (vcvtbdMember vd vs1 vs3 fd fa mk rm) s)

/-! ### Special functions (R242, R243) -/

/-- The operands of a special function. -/
abbrev SfForm := VReg → VReg → Option SfSub → FEnt → FEnt → MReg → Member

/-- A special function of a, or of a − scal(FB). Which of two values brackets a 32-bit result is free (R107). -/
def sfMember (fn : SfFn) : SfForm := fun vd vs1 sub fd fa mk =>
  ewMember vd fd mk (fun h =>
      let fbs := match sub with | some q => [q.fb] | none => []
      firstFail ([ckVl h ([fd, fa] ++ fbs), ckEntry h fd floatFmt, ckEntry h fa plainFmt]
        ++ fbs.map (fun k => ckEntry h k plainFmt) ++
        [ckGroup h vd.val 8, ckGroup h vs1.val 14, ckCoincide vd.val (fmt h fd).n [(vs1.val, (fmt h fa).n)]]))
    (fun _ => false) (fun fr h i =>
      let a := opnd h vs1.val fa i
      let x := match sub with
        | some q => addW false a (negW (opndB h (.scal q.xs) q.fb i))
        | none => (a, 0)
      let p := match sub with | some q => poisX h q.xs | none => false
      let r := sfApply fn (fmt h fd) h.vc.sfth x.1 (Config.freeBool fr i)
      ⟨r.1, x.2 ||| r.2, p || elemPois h vs1.val i (fmt h fa).n⟩)

def vexpMember : SfForm := sfMember .exp

def vexp2Member : SfForm := sfMember .exp2

def vlog2Member : SfForm := sfMember .log2

def vrcpMember : SfForm := sfMember .rcp

def vrsqrtMember : SfForm := sfMember .rsqrt

def vsqrtMember : SfForm := sfMember .sqrt

def vsinMember : SfForm := sfMember .sin

def vcosMember : SfForm := sfMember .cos

def vtanhMember : SfForm := sfMember .tanh

def vsigmoidMember : SfForm := sfMember .sigmoid

def verfMember : SfForm := sfMember .erf

/-- `vexp` (R242, R243). -/
def execVexp (vd vs1 : VReg) (sub : Option SfSub) (fd fa : FEnt) (mk : MReg) (s : State) : Out :=
  .next (soloConvoy (vexpMember vd vs1 sub fd fa mk) s)

/-- `vexp2` (R242, R243). -/
def execVexp2 (vd vs1 : VReg) (sub : Option SfSub) (fd fa : FEnt) (mk : MReg) (s : State) : Out :=
  .next (soloConvoy (vexp2Member vd vs1 sub fd fa mk) s)

/-- `vlog2` (R242, R243). -/
def execVlog2 (vd vs1 : VReg) (sub : Option SfSub) (fd fa : FEnt) (mk : MReg) (s : State) : Out :=
  .next (soloConvoy (vlog2Member vd vs1 sub fd fa mk) s)

/-- `vrcp` (R242, R243). -/
def execVrcp (vd vs1 : VReg) (sub : Option SfSub) (fd fa : FEnt) (mk : MReg) (s : State) : Out :=
  .next (soloConvoy (vrcpMember vd vs1 sub fd fa mk) s)

/-- `vrsqrt` (R242, R243). -/
def execVrsqrt (vd vs1 : VReg) (sub : Option SfSub) (fd fa : FEnt) (mk : MReg) (s : State) : Out :=
  .next (soloConvoy (vrsqrtMember vd vs1 sub fd fa mk) s)

/-- `vsqrt` (R242, R243). -/
def execVsqrt (vd vs1 : VReg) (sub : Option SfSub) (fd fa : FEnt) (mk : MReg) (s : State) : Out :=
  .next (soloConvoy (vsqrtMember vd vs1 sub fd fa mk) s)

/-- `vsin` (R242, R243). -/
def execVsin (vd vs1 : VReg) (sub : Option SfSub) (fd fa : FEnt) (mk : MReg) (s : State) : Out :=
  .next (soloConvoy (vsinMember vd vs1 sub fd fa mk) s)

/-- `vcos` (R242, R243). -/
def execVcos (vd vs1 : VReg) (sub : Option SfSub) (fd fa : FEnt) (mk : MReg) (s : State) : Out :=
  .next (soloConvoy (vcosMember vd vs1 sub fd fa mk) s)

/-- `vtanh` (R242, R243). -/
def execVtanh (vd vs1 : VReg) (sub : Option SfSub) (fd fa : FEnt) (mk : MReg) (s : State) : Out :=
  .next (soloConvoy (vtanhMember vd vs1 sub fd fa mk) s)

/-- `vsigmoid` (R242, R243). -/
def execVsigmoid (vd vs1 : VReg) (sub : Option SfSub) (fd fa : FEnt) (mk : MReg) (s : State) : Out :=
  .next (soloConvoy (vsigmoidMember vd vs1 sub fd fa mk) s)

/-- `verf` (R242, R243). -/
def execVerf (vd vs1 : VReg) (sub : Option SfSub) (fd fa : FEnt) (mk : MReg) (s : State) : Out :=
  .next (soloConvoy (verfMember vd vs1 sub fd fa mk) s)

end Sys2Proof.Machine
end

