-- ==== Sys2Proof/Machine/ScalarMem.lean ====
section
/-! DEFINITION. Majors 0x20 to 0x23: scalar loads and stores, atomics and compare-and-swap (R178 to R184). -/

namespace Sys2Proof.Machine

/-! ### Shared operations -/

/-- The address of a scalar load or store (R178). -/
def eaIdx (h : Hart) (xs1 xs2 : XReg) (imm : BitVec 32) : Word := getX h xs1 + getX h xs2 + imm.signExtend 64

/-- The address of an atomic (R182). -/
def eaOff (h : Hart) (xs1 : XReg) (imm : BitVec 32) : Word := getX h xs1 + imm.signExtend 64

/-- A load of `w` bytes into xd by an extension of the value (R178). -/
def loadOp (xd xs1 xs2 : XReg) (imm : BitVec 32) (w : Nat) (ext : Nat → Word) (s : State) : State :=
  scalarLoad s [xs1, xs2] (eaIdx s.hart xs1 xs2 imm) w (fun m p h => setXH h xd (ext m) p)

/-- A store of the low `w` bytes of a register (R178). -/
def storeOp (xs3 xs1 xs2 : XReg) (imm : BitVec 32) (w : Nat) (s : State) : State :=
  scalarStore s [xs1, xs2] (eaIdx s.hart xs1 xs2 imm) (natLe w (s.x xs3).toNat) (poisX s.hart xs3)

def amoBytes : AmoWidth → Nat
  | .w => 4
  | .d => 8

/-- The register value of an old value: sign-extended from 4 bytes (R182). -/
def oldReg (w : Nat) (v : Nat) : Word := if w = 4 then sext64 32 v else BitVec.ofNat 64 v

/-- A read-modify-write atomic (R182): the new value from the old one and v, both of `w` bytes. -/
def amoOp (wd : AmoWidth) (xd xs2 xs1 : XReg) (imm : BitVec 32) (f : Nat → Nat → Nat → Nat) (s : State) : State :=
  let w := amoBytes wd
  let v := (s.x xs2).toNat % 2 ^ (8 * w)
  scalarAtomic s [xs1] (eaOff s.hart xs1 imm) w (fun old => some (f (8 * w) old v)) (poisX s.hart xs2)
    (fun old p h => setXH h xd (oldReg w old) p)

/-- Compare-and-swap (R183) of `w` bytes. -/
def casOp (w : Nat) (xs1 : XReg) (imm : BitVec 32) (expected new : Nat) (pois : Bool)
    (put : Nat → Bool → Hart → Hart) (s : State) : State :=
  scalarAtomic s [xs1] (eaOff s.hart xs1 imm) w
    (fun old => if old = expected % 2 ^ (8 * w) then some (new % 2 ^ (8 * w)) else none) pois put

/-- The new values of R182 at a width in bits. -/
def amoNew (op n old v : Nat) : Nat :=
  match op with
  | 0 => v
  | 1 => (old + v) % 2 ^ n
  | 2 => old &&& v
  | 3 => old ||| v
  | 4 => old ^^^ v
  | 5 => if sextInt n v < sextInt n old then v else old
  | 6 => if sextInt n old < sextInt n v then v else old
  | 7 => if v < old then v else old
  | _ => if old < v then v else old

/-- The value of a register pair, low half first (R183). -/
def pairVal (h : Hart) (r : XReg) : Nat := (getX h r).toNat + 2 ^ 64 * (getX h (oddOf r)).toNat

/-- The poison of a register pair. -/
def pairPois (h : Hart) (r : XReg) : Bool := poisX h r || poisX h (oddOf r)

/-- Writes a register pair; a low half that is x0 is discarded (R178). -/
def setPair (h : Hart) (r : XReg) (v : Nat) (p : Bool) : Hart :=
  setXH (setXH h r (BitVec.ofNat 64 v) p) (oddOf r) (BitVec.ofNat 64 (v / 2 ^ 64)) p

/-! ### Loads (R178) -/

/-- `ldb`: a byte, sign-extended (R178). -/
def execLdb (xd xs1 xs2 : XReg) (imm : BitVec 32) (s : State) : Out :=
  .next (loadOp xd xs1 xs2 imm 1 (sext64 8) s)

/-- `ldbu`: a byte, zero-extended (R178). -/
def execLdbu (xd xs1 xs2 : XReg) (imm : BitVec 32) (s : State) : Out :=
  .next (loadOp xd xs1 xs2 imm 1 (BitVec.ofNat 64) s)

/-- `ldh`: 2 bytes, sign-extended (R178). -/
def execLdh (xd xs1 xs2 : XReg) (imm : BitVec 32) (s : State) : Out :=
  .next (loadOp xd xs1 xs2 imm 2 (sext64 16) s)

/-- `ldhu`: 2 bytes, zero-extended (R178). -/
def execLdhu (xd xs1 xs2 : XReg) (imm : BitVec 32) (s : State) : Out :=
  .next (loadOp xd xs1 xs2 imm 2 (BitVec.ofNat 64) s)

/-- `ldw`: 4 bytes, sign-extended (R178). -/
def execLdw (xd xs1 xs2 : XReg) (imm : BitVec 32) (s : State) : Out :=
  .next (loadOp xd xs1 xs2 imm 4 (sext64 32) s)

/-- `ldwu`: 4 bytes, zero-extended (R178). -/
def execLdwu (xd xs1 xs2 : XReg) (imm : BitVec 32) (s : State) : Out :=
  .next (loadOp xd xs1 xs2 imm 4 (BitVec.ofNat 64) s)

/-- `ldd`: 8 bytes (R178). -/
def execLdd (xd xs1 xs2 : XReg) (imm : BitVec 32) (s : State) : Out :=
  .next (loadOp xd xs1 xs2 imm 8 (BitVec.ofNat 64) s)

/-- `ldp`: 16 bytes into a register pair (R178). -/
def execLdp (xd xs1 xs2 : XReg) (imm : BitVec 32) (s : State) : Out :=
  .next (scalarLoad s [xs1, xs2] (eaIdx s.hart xs1 xs2 imm) 16 (fun m p h => setPair h xd m p))

/-! ### Stores (R178) -/

/-- `stb`: a byte (R178). -/
def execStb (xs3 xs1 xs2 : XReg) (imm : BitVec 32) (s : State) : Out :=
  .next (storeOp xs3 xs1 xs2 imm 1 s)

/-- `sth`: 2 bytes (R178). -/
def execSth (xs3 xs1 xs2 : XReg) (imm : BitVec 32) (s : State) : Out :=
  .next (storeOp xs3 xs1 xs2 imm 2 s)

/-- `stw`: 4 bytes (R178). -/
def execStw (xs3 xs1 xs2 : XReg) (imm : BitVec 32) (s : State) : Out :=
  .next (storeOp xs3 xs1 xs2 imm 4 s)

/-- `std`: 8 bytes (R178). -/
def execStd (xs3 xs1 xs2 : XReg) (imm : BitVec 32) (s : State) : Out :=
  .next (storeOp xs3 xs1 xs2 imm 8 s)

/-- `stp`: a register pair as 16 bytes (R178). -/
def execStp (xs3 xs1 xs2 : XReg) (imm : BitVec 32) (s : State) : Out :=
  .next (scalarStore s [xs1, xs2] (eaIdx s.hart xs1 xs2 imm) (natLe 16 (pairVal s.hart xs3)) (pairPois s.hart xs3))

/-! ### Atomics (R182) -/

/-- `amoswap`, operation 0 of R182. -/
def execAmoswap (wd : AmoWidth) (xd xs2 xs1 : XReg) (imm : BitVec 32) (s : State) : Out :=
  .next (amoOp wd xd xs2 xs1 imm (amoNew 0) s)

/-- `amoadd`, operation 1 of R182. -/
def execAmoadd (wd : AmoWidth) (xd xs2 xs1 : XReg) (imm : BitVec 32) (s : State) : Out :=
  .next (amoOp wd xd xs2 xs1 imm (amoNew 1) s)

/-- `amoand`, operation 2 of R182. -/
def execAmoand (wd : AmoWidth) (xd xs2 xs1 : XReg) (imm : BitVec 32) (s : State) : Out :=
  .next (amoOp wd xd xs2 xs1 imm (amoNew 2) s)

/-- `amoor`, operation 3 of R182. -/
def execAmoor (wd : AmoWidth) (xd xs2 xs1 : XReg) (imm : BitVec 32) (s : State) : Out :=
  .next (amoOp wd xd xs2 xs1 imm (amoNew 3) s)

/-- `amoxor`, operation 4 of R182. -/
def execAmoxor (wd : AmoWidth) (xd xs2 xs1 : XReg) (imm : BitVec 32) (s : State) : Out :=
  .next (amoOp wd xd xs2 xs1 imm (amoNew 4) s)

/-- `amomin`, operation 5 of R182. -/
def execAmomin (wd : AmoWidth) (xd xs2 xs1 : XReg) (imm : BitVec 32) (s : State) : Out :=
  .next (amoOp wd xd xs2 xs1 imm (amoNew 5) s)

/-- `amomax`, operation 6 of R182. -/
def execAmomax (wd : AmoWidth) (xd xs2 xs1 : XReg) (imm : BitVec 32) (s : State) : Out :=
  .next (amoOp wd xd xs2 xs1 imm (amoNew 6) s)

/-- `amominu`, operation 7 of R182. -/
def execAmominu (wd : AmoWidth) (xd xs2 xs1 : XReg) (imm : BitVec 32) (s : State) : Out :=
  .next (amoOp wd xd xs2 xs1 imm (amoNew 7) s)

/-- `amomaxu`, operation 8 of R182. -/
def execAmomaxu (wd : AmoWidth) (xd xs2 xs1 : XReg) (imm : BitVec 32) (s : State) : Out :=
  .next (amoOp wd xd xs2 xs1 imm (amoNew 8) s)

/-! ### Compare-and-swap (R183) -/

/-- `cas.w`: 4 bytes, the old value sign-extended (R183). -/
def execCasW (xd xs2 xs3 xs1 : XReg) (imm : BitVec 32) (s : State) : Out :=
  .next (casOp 4 xs1 imm (s.x xs2).toNat (s.x xs3).toNat (poisX s.hart xs2 || poisX s.hart xs3)
    (fun old p h => setXH h xd (oldReg 4 old) p) s)

/-- `cas.d`: 8 bytes (R183). -/
def execCasD (xd xs2 xs3 xs1 : XReg) (imm : BitVec 32) (s : State) : Out :=
  .next (casOp 8 xs1 imm (s.x xs2).toNat (s.x xs3).toNat (poisX s.hart xs2 || poisX s.hart xs3)
    (fun old p h => setXH h xd (oldReg 8 old) p) s)

/-- `cas.q`: 16 bytes in register pairs (R183). -/
def execCasQ (xd xs2 xs3 xs1 : XReg) (imm : BitVec 32) (s : State) : Out :=
  .next (casOp 16 xs1 imm (pairVal s.hart xs2) (pairVal s.hart xs3) (pairPois s.hart xs2 || pairPois s.hart xs3)
    (fun old p h => setPair h xd old p) s)

end Sys2Proof.Machine
end

