-- ==== Sys2Proof/Machine/VecMem.lean ====
section
/-! DEFINITION. Majors 0x41 to 0x43: vector loads, stores, mask loads and stores, and vector atomics (R210 to R221). -/

namespace Sys2Proof.Machine

/-! ### Forms -/

/-- How a form addresses memory (R212): MOP 0 or 4, 1, and 2 or 3. -/
inductive Mop where
  | unit
  | stride (xo : XReg)
  | index (vo : VReg) (fi : FEnt) (ordered : Bool)
  deriving DecidableEq, Repr

/-- The fields of a vector memory form (R210). -/
structure MForm where
  vr : VReg
  xb : XReg
  imm : BitVec 32
  mop : Mop
  fe : FEnt
  /-- Segment fields, NF + 1. -/
  nf : Nat
  msk : MReg
  deriving DecidableEq, Repr

/-- Width of the element in bits. -/
def MForm.n (m : MForm) (h : Hart) : Nat := (fmt h m.fe).n

/-- The bytes an element field occupies. -/
def elemBytes (n : Nat) : Nat := max 1 (n / 8)

/-- The data group of field f. -/
def MForm.grpOf (m : MForm) (h : Hart) (f : Nat) : Nat := m.vr.val + f * grp h

/-- `eaddr(i, f)` of R212. -/
def MForm.addr (m : MForm) (h : Hart) (i f : Nat) : Word :=
  let n := m.n h
  let base := getX h m.xb + m.imm.signExtend 64
  match m.mop with
  | .unit => base + BitVec.ofNat 64 ((i * m.nf + f) * n / 8)
  | .stride xo => base + BitVec.ofNat 64 i * getX h xo + BitVec.ofNat 64 (f * n / 8)
  | .index vo fi _ =>
    let g := fmt h fi
    let x := elem h vo.val i g.n
    base + (if g.spv = 4 then sext64 g.n x else BitVec.ofNat 64 x) + BitVec.ofNat 64 (f * n / 8)

/-- Bit position of a 4-bit element in its byte. -/
def MForm.nibble (m : MForm) (i f : Nat) : Nat := (i * m.nf + f) % 2 * 4

/-! ### Places (R113, R114) -/

/-- Where an element field lies, or the trap code of its check. -/
inductive Place2 where
  | bad (code : Nat)
  | mem (a : Acc)
  | remote (host : Bool) (idx off : Nat) (e : RemEnt)
  deriving DecidableEq, Repr

/-- The check of a PEER or HOST address (R113, R114). -/
def remotePlace (s : State) (a : Word) (host : Bool) (w : Nat) : Place2 :=
  let idx := if host then bits a.toNat 55 48 else bits a.toNat 59 48
  let off := a.toNat % 2 ^ 48
  if (if host then a >>> 56 else a >>> 60) ≠ 0 then .bad 0x0008
  else match findCtx s s.hart.id.ctx with
    | none => .bad 0x0008
    | some c => match remEntry s c host idx with
      | none => .bad 0x0008
      | some e =>
        if e.len < off + w then .bad 0x0008
        else if a.toNat % w ≠ 0 then .bad 0x0009
        else .remote host idx off e

/-- The check of an element field of `w` bytes in the space VMT selects, in the order of R213. -/
def elemPlace (s : State) (a : Word) (w : Nat) (u : Use) : Place2 :=
  match s.hart.vc.vmt.toNat with
  | 0 => match globalCheck s s.hart a w u with
    | .fault c => .bad c
    | .ok x => .mem x
  | 1 =>
    if a >>> 52 ≠ 0 then .bad 0x0008
    else if a.toNat % w ≠ 0 then .bad 0x0009
    else match checkTile s s.hart.id.ctx a.toNat w with
      | .fault c => .bad c
      | .ok x => .mem x
  | 2 => remotePlace s a false w
  | _ => remotePlace s a true w

/-! ### Element fields -/

/-- The outcome of one field: its bytes with their poison, or a stop. -/
inductive ElRes where
  | ok (s : State) (bs : List Byte) (p : Bool)
  | stop (t : Stop)

/-- The write holds a byte of a remote place. -/
def RemoteWrite.covers (w : RemoteWrite) (host : Bool) (idx off : Nat) : Bool :=
  w.host == host && w.idx == idx && decide (w.off ≤ off) && decide (off < w.off + w.bytes.length)

/-- A byte that the hart has written to a remote place and not yet published, the latest write first, with its poison
(R216, R280, R288). DEDUCED (log 26). -/
def remoteOwn (h : Hart) (host : Bool) (idx off : Nat) : Option (Byte × Bool) :=
  let ws := (h.pend.flatMap (·.remote) ++ h.rwrites).reverse
  (ws.find? (·.covers host idx off)).map (fun w => (w.bytes.getD (off - w.off) 0, w.pois))

/-- Lays the hart's own unpublished bytes over those of an answer. -/
def remoteLay (h : Hart) (host : Bool) (idx off : Nat) (bs : List Byte) : List Byte :=
  bs.zipIdx.map (fun p => ((remoteOwn h host idx (off + p.2)).map (·.1)).getD p.1)

/-- Some byte of a remote range is the hart's own poisoned one. -/
def remotePois (h : Hart) (host : Bool) (idx off w : Nat) : Bool :=
  (List.range w).any (fun j => ((remoteOwn h host idx (off + j)).map (·.2)).getD false)

/-- The hart's remote writes without those to some bytes, which an atomic there has performed first (R184, R221). -/
def remoteDrop (h : Hart) (host : Bool) (idx off w : Nat) : Hart :=
  let keep := fun (l : List RemoteWrite) => l.filter (fun x => !(List.range w).any (fun j => x.covers host idx (off + j)))
  { h with rwrites := keep h.rwrites, pend := h.pend.map (fun r => { r with remote := keep r.remote }) }

/-- The number of the first request of the present instruction. -/
def reqBase (h : Hart) : Option Nat := h.rreq.map (·.1)

/-- What an element asks of a remote home: loads, stores, the old byte of a 4-bit store, and the check of a store's field. -/
inductive Ask where
  | load | store | merge | probe
  deriving DecidableEq, Repr

/-- The number of a request within its instruction, from the field's number. -/
def Ask.num (a : Ask) (k : Nat) : Nat :=
  4 * k + (match a with | .load => 0 | .store => 1 | .merge => 2 | .probe => 3)

/-- The answer to a request of the present instruction, when it has come. -/
def answered (s : State) (idx : Nat) : Option RemoteAns := (reqBase s.hart).bind (fun b => answerOf s (b + idx))

/-- A refusal of the remote home faults the element with the remote fault (R369). DEDUCED (log 89). -/
def remoteFault (i : Nat) (a : Word) : Stop := .fault i (.trap 0x0011 a)

/-- The request number of a field is answered, faulted or missing; `q` is the request to make. -/
def remoteAsk (s : State) (i : Nat) (a : Word) (q : RemReq) : Sum (List Byte) Stop :=
  match answered s q.idx with
  | none => .inr (.need i q)
  | some r => match r.data with
    | none => .inr (remoteFault i a)
    | some d => .inl d

/-- The READ packet of a field of `w` bytes (R369). -/
def readReq (ask : Ask) (k w off : Nat) (e : RemEnt) : RemReq :=
  { idx := ask.num k, port := e.port, addr6 := e.addr6, op := 1, rctx := e.rctx, addr := BitVec.ofNat 64 (e.rbase + off),
    payload := natLe 4 w }

/-- Every byte of a remote range is the hart's own unpublished one. -/
def allOwn (h : Hart) (host : Bool) (idx off w : Nat) : Bool :=
  (List.range w).all (fun j => (remoteOwn h host idx (off + j)).isSome)

/-- What stops the read of a remote field: a DEV window or entry outside serial running, and the answer still missing or
a refusal (R120, R217). A field that is all the hart's own needs no packet. -/
def remoteStop (s : State) (dev : Bool) (ask : Ask) (i k : Nat) (a : Word) (w : Nat) (host : Bool) (idx off : Nat) (e : RemEnt) :
    Option Stop :=
  if e.dev && !dev then some (.dev i)
  else if !e.dev && allOwn s.hart host idx off w then none
  else match remoteAsk s i a (readReq ask k w off e) with
    | .inr t => some t
    | .inl _ => none

/-- Reads a field of `w` bytes for element i (R213, R217, R411). `k` numbers the field within the instruction. -/
def readAs (ask : Ask) (s : State) (dev : Bool) (i k : Nat) (a : Word) (w : Nat) : ElRes :=
  match elemPlace s a w .read with
  | .bad c => .stop (.fault i (.trap c a))
  | .mem x =>
    if x.dev then
      if !dev then .stop (.dev i)
      else match ovlFires s s.hart x.loc w with
        | some r => .stop (.fault i (.clash r a))
        | none => let r := devLoad s x w; .ok r.1 r.2.1 r.2.2
    else let r := plainRead s x.key x.loc w; .ok r.1 r.2.1 r.2.2
  | .remote host idx off e =>
    match remoteStop s dev ask i k a w host idx off e with
    | some t => .stop t
    | none =>
      let d := slice (((answered s (ask.num k)).bind (·.data)).getD []) 0 w
      if e.dev then .ok s d false
      else .ok s (remoteLay s.hart host idx off d) (remotePois s.hart host idx off w)

/-- Reads a field of a load. -/
def readField (s : State) (dev : Bool) (i k : Nat) (a : Word) (w : Nat) : ElRes := readAs .load s dev i k a w

/-- Writes a field of bytes for element i. A remote store joins the hart's unpublished remote writes; its WRITE packet, of
number `k`, leaves before the instruction completes, and at once in serial running (R217, R369). -/
def writeField (s : State) (dev : Bool) (i k : Nat) (a : Word) (bs : List Byte) (p : Bool) : ElRes :=
  match elemPlace s a bs.length .write with
  | .bad c => .stop (.fault i (.trap c a))
  | .mem x =>
    if x.dev then
      if !dev then .stop (.dev i)
      else match ovlFires s s.hart x.loc bs.length with
        | some r => .stop (.fault i (.clash r a))
        | none => .ok (devStore s x bs p) [] false
    else .ok (plainWrite s x.key x.loc a.toNat bs p) [] false
  | .remote host idx off e =>
    let w : RemoteWrite := { host := host, idx := idx, off := off, bytes := bs, pois := p, signed := false,
                             acked := (answered s (Ask.store.num k)).isSome, req := Ask.store.num k }
    let keep := if e.dev then s else s.onHart (fun h => { h with rwrites := h.rwrites ++ [w] })
    if e.dev && !dev then .stop (.dev i)
    else match answered s w.req with
      | some r => if r.data.isNone then .stop (remoteFault i a) else .ok keep [] false
      | none => if !dev then .ok keep [] false
        else .stop (.need i { readReq .store k 0 off e with op := 3, payload := bs, pois := p })

/-- The byte a 4-bit store merges into, as the hart sees it (R216). -/
def nibbleByte (s : State) (dev : Bool) (i k : Nat) (a : Word) : ElRes :=
  match elemPlace s a 1 .write with
  | .mem x => .ok s [viewByte s s.hart x.key x.loc] false
  | .bad c => .stop (.fault i (.trap c a))
  | .remote _ _ _ _ => readAs .merge s dev i k a 1

/-- The check of field `k` alone: the stop that its access would meet. A store's refusal comes with its packet. -/
def checkField (s : State) (dev : Bool) (i k : Nat) (a : Word) (w : Nat) (u : Use) : Option Stop :=
  match elemPlace s a w u with
  | .bad c => some (.fault i (.trap c a))
  | .mem x =>
    if x.dev && !dev then some (.dev i)
    else if x.dev then (ovlFires s s.hart x.loc w).map (fun r => .fault i (.clash r a)) else none
  | .remote host idx off e =>
    match u with
    | .read => remoteStop s dev .load i k a w host idx off e
    | _ =>
      if e.dev && !dev then some (.dev i)
      else match answered s (Ask.store.num k) with
        | some r => if r.data.isNone then some (remoteFault i a) else none
        | none => none

/-- The remote side's check of a store's field whose element a later field stops: a READ of its bytes (R114, R120, R213). -/
def probeField (s : State) (dev : Bool) (i k : Nat) (a : Word) (w : Nat) : Option Stop :=
  match elemPlace s a w .write with
  | .remote host idx off e => if e.dev then none else remoteStop s dev .probe i k a w host idx off e
  | _ => none

/-- Poison of the index element that addresses element i (R389). -/
def MForm.idxPois (m : MForm) (h : Hart) (i : Nat) : Bool :=
  match m.mop with
  | .index vo fi _ => mbit h m.msk i && elemPois h vo.val i (fmt h fi).n
  | _ => false

/-- Runs a member whose indices from `lo` to `hi` are free of poison. -/
def MForm.clean (m : MForm) (run : Bool → Nat → Nat → State → State × Option Stop) (dev : Bool) (lo hi : Nat)
    (s : State) : State × Option Stop :=
  if (List.range' lo (hi - lo)).any (m.idxPois s.hart) then (s, some (.fault lo .poison)) else run dev lo hi s

/-! ### Issue checks (R211, R407) -/

/-- The checks of a form: configuration, entries, groups and overlap, then poisoned address registers. -/
def MForm.check (m : MForm) (groups : Nat) (allow : Fmt → Bool) (s : State) : Check :=
  let h := s.hart
  let xs := match m.mop with | .stride xo => [m.xb, xo] | _ => [m.xb]
  let pz : Check := if xs.any (poisX h) then some (0, 0) else none
  match m.mop with
  | .index vo fi _ =>
    firstFail [ckVl h [m.fe, fi], ckFmt h m.fe, ckAllow m.fe (allow (fmt h m.fe)), ckFmt h fi,
      ckAllow fi ((fmt h fi).isInt && (fmt h fi).blk == 0), ckGroup h m.vr.val 8 groups, ckGroup h vo.val 20,
      ckBit (overlaps h m.vr.val groups vo.val 1) 20, pz]
  | _ =>
    firstFail [ckVl h [m.fe], ckFmt h m.fe, ckAllow m.fe (allow (fmt h m.fe)), ckGroup h m.vr.val 8 groups, pz]

/-- An entry of width 4 is allowed under unit stride only (R211). -/
def MForm.wide4 (m : MForm) (f : Fmt) : Bool :=
  match m.mop with
  | .unit => true
  | _ => f.n != 4

/-! ### Loads (R213) -/

/-- The code of a field from its bytes. -/
def MForm.codeOf (m : MForm) (n i f : Nat) (bs : List Byte) : Nat :=
  if n = 4 then leNat bs / 2 ^ (m.nibble i f) % 16 else leNat bs

/-- Reads the fields of element i from f on, and gives their codes and poison, in order. -/
def loadFields (m : MForm) (dev : Bool) (i : Nat) : Nat → Nat → State → List (Nat × Bool) → Sum (State × List (Nat × Bool)) Stop
  | _, 0, s, acc => .inl (s, acc.reverse)
  | f, k + 1, s, acc =>
    let n := m.n s.hart
    match readField s dev i (i * m.nf + f) (m.addr s.hart i f) (elemBytes n) with
    | .stop t => .inr t
    | .ok s1 bs p => loadFields m dev i (f + 1) k s1 ((m.codeOf n i f bs, p) :: acc)

/-- The first stop of the fields of element i, in field order, before any of them is accessed (R213). -/
def fieldStop (m : MForm) (s : State) (dev : Bool) (i : Nat) (u : Use) : Option Stop :=
  let w := elemBytes (m.n s.hart)
  let stop := fun f => checkField s dev i (i * m.nf + f) (m.addr s.hart i f) w u
  match (List.range m.nf).find? (fun f => (stop f).isSome) with
  | none => none
  | some g =>
    if u = .read then stop g
    else match (List.range g).findSome? (fun f => probeField s dev i (i * m.nf + f) (m.addr s.hart i f) w) with
      | some t => some t
      | none => stop g

/-- Element i of a load. -/
def loadElem (m : MForm) (dev : Bool) (i : Nat) (s : State) : State × Option Stop :=
  let n := m.n s.hart
  if mbit s.hart m.msk i then
    match fieldStop m s dev i .read with
    | some t => (s, some t)
    | none => match loadFields m dev i 0 m.nf s [] with
      | .inr t => (s, some t)
      | .inl (s1, vs) =>
        let pm := mpois s.hart m.msk i
        (s1.onHart (fun h => vs.zipIdx.foldl (fun h v => setElem h (m.grpOf h v.2) i n v.1.1 (v.1.2 || pm)) h), none)
  else (s.onHart (fun h => forN m.nf h (fun f h => maskedElem h m.msk (m.grpOf h f) i n id)), none)

/-- The tail of a load's groups (R213). -/
def loadTail (m : MForm) (vl : Nat) (h : Hart) : Hart :=
  forN m.nf h (fun f h => tailGroup h (m.grpOf h f) vl (m.n h))

/-- A vector load. -/
def loadMember (m : MForm) : Member :=
  { check := m.check m.nf m.wide4,
    run := m.clean (fun dev lo hi s => eachElem (loadElem m dev) lo (hi - lo) s),
    fin := fun lo s => if lo < vlOf s.hart then s.onHart (fun h => loadTail m (vlOf h) h) else s,
    draws := fun _ => false }

/-- The element a `vldff` started from. -/
def startElem (h : Hart) : Nat := match h.rreq with | some (_, v) => v | none => vesOf h

/-- Element i of a `vldff` is its first active one (R215). -/
def firstActive (m : MForm) (h : Hart) (i : Nat) : Bool :=
  !(List.range' (startElem h) (i - startElem h)).any (fun j => mbit h m.msk j)

/-- Fault-only-first (R215): a fault above the first active element sets VL there. The tail begins at the old VL. -/
def loadFF (m : MForm) (dev : Bool) (lo hi : Nat) (s : State) : State × Option Stop :=
  let vl := vlOf s.hart
  let tail := fun (s : State) => if hi = vl ∧ lo < hi then s.onHart (loadTail m vl) else s
  match eachElem (loadElem m dev) lo (hi - lo) s with
  | (s1, none) => (tail s1, none)
  | (s1, some (.fault i (.trap c v))) =>
    if firstActive m s.hart i then (s1, some (.fault i (.trap c v)))
    else
      let s2 := s1.onHart (fun h => loadTail m vl h)
      (s2.onHart (fun h => { h with vc := { h.vc with vl := BitVec.ofNat 17 i } }), none)
  | r => r

/-- A fault-only-first load. -/
def loadFFMember (m : MForm) : Member :=
  { check := m.check m.nf m.wide4, run := loadFF m, fin := fun _ s => s, draws := fun _ => false }

/-! ### Stores (R213, R216) -/

/-- Field f of element i of a store. -/
def storeField (m : MForm) (dev : Bool) (i f : Nat) (s : State) : State × Option Stop :=
  let n := m.n s.hart; let a := m.addr s.hart i f
  let c := elem s.hart (m.grpOf s.hart f) i n
  let p := elemPois s.hart (m.grpOf s.hart f) i n || mpois s.hart m.msk i
  if n = 4 then
    match nibbleByte s dev i (i * m.nf + f) a with
    | .stop t => (s, some t)
    | .ok s1 bs _ =>
      let b := putBits (BitVec.ofNat 8 (leNat bs)) (m.nibble i f) 4 c
      match writeField s1 dev i (i * m.nf + f) a [b] p with
      | .stop t => (s, some t)
      | .ok s2 _ _ => (s2, none)
  else match writeField s dev i (i * m.nf + f) a (natLe (elemBytes n) c) p with
    | .stop t => (s, some t)
    | .ok s1 _ _ => (s1, none)

/-- The fields of a list, in its order. -/
def storeList (m : MForm) (dev : Bool) : List (Nat × Nat) → State → State × Option Stop
  | [], s => (s, none)
  | (i, f) :: r, s => match storeField m dev i f s with
    | (s1, none) => storeList m dev r s1
    | (s1, some t) => (s1, some t)

/-- Element i of a store. -/
def storeElem (m : MForm) (dev : Bool) (i : Nat) (s : State) : State × Option Stop :=
  if mbit s.hart m.msk i then
    match fieldStop m s dev i .write with
    | some t => (s, some t)
    | none => match storeList m dev ((List.range m.nf).map (fun f => (i, f))) s with
      | (s1, none) => (s1, none)
      | (_, some t) => (s, some t)
  else (s, none)

/-- One of the orders of a list, drawn from the free values (R216, R220). -/
def freeOrder {α : Type} (free : Nat) : Nat → List α → List α
  | 0, l => l
  | k + 1, l =>
    let j := Config.freeNat free k % max 1 l.length
    match l[j]? with
    | none => l
    | some x => x :: freeOrder free k (l.eraseIdx j)

/-- The active elements from `lo` to `hi`. -/
def activeElems (h : Hart) (mk : MReg) (lo hi : Nat) : List Nat :=
  (List.range' lo (hi - lo)).filter (fun i => mbit h mk i)

/-- The run of a store: ascending, or with its fields in a free order under MOP 3 outside DEV pages and remote spaces. -/
def storeRun (m : MForm) (dev : Bool) (lo hi : Nat) (s : State) : State × Option Stop :=
  match m.mop with
  | .index _ _ false =>
    if dev || decide (2 ≤ s.hart.vc.vmt.toNat) then eachElem (storeElem m dev) lo (hi - lo) s
    else
      let es := activeElems s.hart m.msk lo hi
      match es.findSome? (fun i => fieldStop m s dev i .write) with
      | some t => ((eachElem (storeElem m dev) lo (t.elem - lo) s).1, some t)
      | none =>
        let fs := es.flatMap (fun i => (List.range m.nf).map (fun f => (i, f)))
        storeList m dev (freeOrder s.free fs.length fs) s
  | _ => eachElem (storeElem m dev) lo (hi - lo) s

/-- A vector store. -/
def storeMember (m : MForm) : Member :=
  { check := m.check m.nf m.wide4, run := m.clean (storeRun m), fin := fun _ s => s, draws := fun _ => false }

/-! ### Mask loads and stores (R218) -/

/-- Byte b of a `vlm`, for bits `lo` to `hi`. A fault names the byte's first bit (R218, R418). -/
def vlmByte (md : MReg) (base : Word) (dev : Bool) (lo hi b : Nat) (s : State) : State × Option Stop :=
  match readField s dev (8 * b) b (base + BitVec.ofNat 64 b) 1 with
  | .stop t => (s, some t)
  | .ok s1 bs p =>
    (s1.onHart (fun h => forRange (max lo (8 * b)) (min hi (8 * b + 8)) h
      (fun i h => setMbit h md i ((leNat bs).testBit (i % 8)) p)), none)

/-- Byte b of a `vsm`. DEDUCED (log 23). -/
def vsmByte (ms : MReg) (base : Word) (dev : Bool) (b : Nat) (s : State) : State × Option Stop :=
  let v := getBits (s.hart.vf.m[ms.val]) (8 * b) 8
  let p := getBits (s.hart.vf.pm[ms.val]) (8 * b) 8 != 0
  match writeField s dev (8 * b) b (base + BitVec.ofNat 64 b) [BitVec.ofNat 8 v] p with
  | .stop t => (s, some t)
  | .ok s1 _ _ => (s1, none)

/-- The base address of a mask form. -/
def maskBase (h : Hart) (xb : XReg) (imm : BitVec 32) : Word := getX h xb + imm.signExtend 64

def vlmMember (md : MReg) (xb : XReg) (imm : BitVec 32) : Member :=
  { check := fun s => if poisX s.hart xb then some (0, 0) else none,
    run := fun dev lo hi s =>
      if hi ≤ lo then (s, none)
      else eachElem (vlmByte md (maskBase s.hart xb imm) dev lo hi) (lo / 8) (ceilDiv hi 8 - lo / 8) s,
    fin := fun lo s => if lo < vlOf s.hart then s.onHart (fun h => tailMask h md (vlOf h)) else s,
    draws := fun _ => false, bytes := true }

def vsmMember (ms : MReg) (xb : XReg) (imm : BitVec 32) : Member :=
  { check := fun s => if poisX s.hart xb then some (0, 0) else none,
    run := fun dev lo hi s =>
      -- a run that stops short of VL leaves the byte it ends in to the next one, whose first bit is below the stop
      let base := maskBase s.hart xb imm
      let top := if hi = vlOf s.hart then ceilDiv hi 8 else hi / 8
      if hi ≤ lo then (s, none)
      else match eachElem (vsmByte ms base dev) (lo / 8) (top - lo / 8) s with
        | (s1, some t) => (s1, some t)
        | (s1, none) => if top < ceilDiv hi 8 then (s1, (vsmByte ms base dev top s1).2) else (s1, none),
    fin := fun _ s => s, draws := fun _ => false, bytes := true }

/-! ### Vector atomics (R219 to R221) -/

/-- The entries an operation allows (R219). -/
def vamoAllow (op : Nat) (f : Fmt) : Bool :=
  f.blk == 0 && (f.n == 16 || f.n == 32) &&
    (if op = 0 || op = 10 then true else if op = 9 then !f.isInt else f.isInt)

/-- The new code of an element, with the flags of `vamofadd` (R219). -/
def vamoNew (op : Nat) (f : Fmt) (old v : Nat) : Nat × Flags :=
  if op = 9 then
    let r := addW false (fdecode f old) (fdecode f v)
    let e := fencode f r.1 0 0
    (e.1, r.2 ||| e.2)
  else (amoNew op f.n old v, 0)

/-- The payload of an ATOMIC packet (R364): operation, width, operands, and for a floating add the entry.
DESIGN CHOICE (log 24). -/
def atomicPayload (op w v nv : Nat) (d : BitVec 32) : List Byte :=
  [BitVec.ofNat 8 (if op = 10 then 0xF else op), BitVec.ofNat 8 w] ++ natLe w v
  ++ (if op = 10 then natLe w nv else if op = 9 then natLe 4 d.toNat else [])

/-- The new value of an atomic of element i is poisoned. -/
def MForm.vamoPois (m : MForm) (h : Hart) (op i : Nat) : Bool :=
  let n := m.n h
  elemPois h m.vr.val i n || (op == 10 && elemPois h (m.vr.val + grp h) i n) || mpois h m.msk i

/-- The stop that an atomic of element i would meet. -/
def vamoStop (m : MForm) (op : Nat) (s : State) (dev : Bool) (i : Nat) : Option Stop :=
  let h := s.hart; let a := m.addr h i 0; let n := m.n h; let w := elemBytes n
  if h.vc.vmt = 3 then some (.fault i (.trap 0x0008 a))
  else match elemPlace s a w .write with
    | .bad c => some (.fault i (.trap c a))
    | .mem x =>
      if x.dev && !dev then some (.dev i)
      else (ovlFires s h x.loc w).map (fun r => .fault i (.clash r a))
    | .remote _ _ off e =>
      let v := elem h m.vr.val i n; let nv := elem h (m.vr.val + grp h) i n
      if e.dev && !dev then some (.dev i)
      else match remoteAsk s i a { readReq .load i w off e with
          op := 5, payload := atomicPayload op w v nv (entry h m.fe), pois := m.vamoPois h op i } with
        | .inr t => some t
        | .inl _ => none

/-- Performs the atomic of element i, whose checks have passed. -/
def vamoElem (m : MForm) (op : Nat) (i : Nat) (s : State) : State :=
  let h := s.hart; let a := m.addr h i 0; let n := m.n h; let w := elemBytes n; let f := fmt h m.fe
  let v := elem h m.vr.val i n; let nv := elem h (m.vr.val + grp h) i n
  let p := m.vamoPois h op i
  let put := fun (s : State) (old : Nat) (q : Bool) =>
    s.onHart (fun h => raise (setElem h m.vr.val i n old (q || mpois h m.msk i)) i (if op = 10 then 0 else (vamoNew op f old v).2))
  let new := fun old => if op = 10 then (if old = v then some (natLe w nv) else none) else some (natLe w (vamoNew op f old v).1)
  match elemPlace s a w .write with
  | .mem x => let r := strongAccess s x w new p; put r.1 (leNat r.2.1) r.2.2
  | .remote host idx off _ =>
    match answered s (Ask.load.num i) with
    | some r => put (s.onHart (fun h => remoteDrop h host idx off w)) (leNat (slice (r.data.getD []) 0 w)) false
    | none => s
  | .bad _ => s

/-- Inactive elements of an atomic's result group (R204). -/
def vamoMasked (m : MForm) (lo hi : Nat) (s : State) : State :=
  s.onHart (fun h => forRange lo hi h (fun i h => maskedElem h m.msk m.vr.val i (m.n h) id))

/-- The run of a vector atomic. The elements are checked ascending before any is performed; under MOP 3 outside DEV
pages they are performed in a free order. -/
def vamoRun (m : MForm) (op : Nat) (dev : Bool) (lo hi : Nat) (s : State) : State × Option Stop :=
  let es := activeElems s.hart m.msk lo hi
  let stop := es.findSome? (vamoStop m op s dev)
  let top := match stop with | some t => t.elem | none => hi
  let todo := es.filter (fun i => decide (i < top))
  let order := match m.mop with
    | .index _ _ false => if dev then todo else freeOrder s.free todo.length todo
    | _ => todo
  -- the poison of a masked-off element under a poisoned mask bit is set first; its active elements follow
  (order.foldl (fun st i => vamoElem m op i st) (vamoMasked m lo top s), stop)

/-- A vector atomic. -/
def vamoMember (m : MForm) (op : Nat) : Member :=
  { check := m.check (if op = 10 then 2 else 1) (vamoAllow op),
    run := m.clean (vamoRun m op),
    fin := fun lo s => if lo < vlOf s.hart then s.onHart (fun h => tailGroup h m.vr.val (vlOf h) (m.n h)) else s,
    draws := fun _ => false, strong := true }

/-! ### Major 0x41 -/

/-- The form of a unit-stride access. -/
def unitForm (vr : VReg) (xb : XReg) (imm : BitVec 32) (fe : FEnt) (nf : Fin 8) (mk : MReg) : MForm :=
  { vr := vr, xb := xb, imm := imm, mop := .unit, fe := fe, nf := nf.val + 1, msk := mk }

/-- The form of a strided access. -/
def strideForm (vr : VReg) (xb : XReg) (imm : BitVec 32) (xo : XReg) (fe : FEnt) (nf : Fin 8) (mk : MReg) : MForm :=
  { vr := vr, xb := xb, imm := imm, mop := .stride xo, fe := fe, nf := nf.val + 1, msk := mk }

/-- The form of an indexed access. -/
def indexForm (ord : Bool) (vr : VReg) (xb : XReg) (imm : BitVec 32) (vo : VReg) (fe fi : FEnt) (nf : Nat) (mk : MReg) : MForm :=
  { vr := vr, xb := xb, imm := imm, mop := .index vo fi ord, fe := fe, nf := nf, msk := mk }

/-- `vld` (R213). -/
def execVld (vr : VReg) (xb : XReg) (imm : BitVec 32) (fe : FEnt) (nf : Fin 8) (mk : MReg) (s : State) : Out :=
  .next (soloConvoy (loadMember (unitForm vr xb imm fe nf mk)) s)

/-- `vlds` (R213). -/
def execVlds (vr : VReg) (xb : XReg) (imm : BitVec 32) (xo : XReg) (fe : FEnt) (nf : Fin 8) (mk : MReg) (s : State) : Out :=
  .next (soloConvoy (loadMember (strideForm vr xb imm xo fe nf mk)) s)

/-- `vldx` (R213). -/
def execVldx (vr : VReg) (xb : XReg) (imm : BitVec 32) (vo : VReg) (fe fi : FEnt) (nf : Fin 8) (mk : MReg) (s : State) : Out :=
  .next (soloConvoy (loadMember (indexForm true vr xb imm vo fe fi (nf.val + 1) mk)) s)

/-- `vldux` (R213). -/
def execVldux (vr : VReg) (xb : XReg) (imm : BitVec 32) (vo : VReg) (fe fi : FEnt) (nf : Fin 8) (mk : MReg) (s : State) : Out :=
  .next (soloConvoy (loadMember (indexForm false vr xb imm vo fe fi (nf.val + 1) mk)) s)

/-- `vldff` (R215). -/
def execVldff (vr : VReg) (xb : XReg) (imm : BitVec 32) (fe : FEnt) (nf : Fin 8) (mk : MReg) (s : State) : Out :=
  .next (soloConvoy (loadFFMember (unitForm vr xb imm fe nf mk)) s)

/-- `vlm` (R218). -/
def execVlm (md : MReg) (xb : XReg) (imm : BitVec 32) (s : State) : Out :=
  .next (soloConvoy (vlmMember md xb imm) s)

/-! ### Major 0x42 -/

/-- `vst` (R213). -/
def execVst (vr : VReg) (xb : XReg) (imm : BitVec 32) (fe : FEnt) (nf : Fin 8) (mk : MReg) (s : State) : Out :=
  .next (soloConvoy (storeMember (unitForm vr xb imm fe nf mk)) s)

/-- `vsts` (R213). -/
def execVsts (vr : VReg) (xb : XReg) (imm : BitVec 32) (xo : XReg) (fe : FEnt) (nf : Fin 8) (mk : MReg) (s : State) : Out :=
  .next (soloConvoy (storeMember (strideForm vr xb imm xo fe nf mk)) s)

/-- `vstx` (R216). -/
def execVstx (vr : VReg) (xb : XReg) (imm : BitVec 32) (vo : VReg) (fe fi : FEnt) (nf : Fin 8) (mk : MReg) (s : State) : Out :=
  .next (soloConvoy (storeMember (indexForm true vr xb imm vo fe fi (nf.val + 1) mk)) s)

/-- `vstux` (R216). -/
def execVstux (vr : VReg) (xb : XReg) (imm : BitVec 32) (vo : VReg) (fe fi : FEnt) (nf : Fin 8) (mk : MReg) (s : State) : Out :=
  .next (soloConvoy (storeMember (indexForm false vr xb imm vo fe fi (nf.val + 1) mk)) s)

/-- `vsm` (R218). -/
def execVsm (ms : MReg) (xb : XReg) (imm : BitVec 32) (s : State) : Out :=
  .next (soloConvoy (vsmMember ms xb imm) s)

/-! ### Major 0x43 -/

/-- A vector atomic as an instruction. -/
def vamoOp (op : Nat) (ord : Bool) (vr : VReg) (xb : XReg) (imm : BitVec 32) (vo : VReg) (fe fi : FEnt) (mk : MReg)
    (s : State) : State :=
  soloConvoy (vamoMember (indexForm ord vr xb imm vo fe fi 1 mk) op) s

/-- `vamoswap`, operation 0 of R219. -/
def execVamoswap (ord : Bool) (vr : VReg) (xb : XReg) (imm : BitVec 32) (vo : VReg) (fe fi : FEnt) (mk : MReg) (s : State) : Out :=
  .next (vamoOp 0 ord vr xb imm vo fe fi mk s)

/-- `vamoadd`, operation 1 of R219. -/
def execVamoadd (ord : Bool) (vr : VReg) (xb : XReg) (imm : BitVec 32) (vo : VReg) (fe fi : FEnt) (mk : MReg) (s : State) : Out :=
  .next (vamoOp 1 ord vr xb imm vo fe fi mk s)

/-- `vamoand`, operation 2 of R219. -/
def execVamoand (ord : Bool) (vr : VReg) (xb : XReg) (imm : BitVec 32) (vo : VReg) (fe fi : FEnt) (mk : MReg) (s : State) : Out :=
  .next (vamoOp 2 ord vr xb imm vo fe fi mk s)

/-- `vamoor`, operation 3 of R219. -/
def execVamoor (ord : Bool) (vr : VReg) (xb : XReg) (imm : BitVec 32) (vo : VReg) (fe fi : FEnt) (mk : MReg) (s : State) : Out :=
  .next (vamoOp 3 ord vr xb imm vo fe fi mk s)

/-- `vamoxor`, operation 4 of R219. -/
def execVamoxor (ord : Bool) (vr : VReg) (xb : XReg) (imm : BitVec 32) (vo : VReg) (fe fi : FEnt) (mk : MReg) (s : State) : Out :=
  .next (vamoOp 4 ord vr xb imm vo fe fi mk s)

/-- `vamomin`, operation 5 of R219. -/
def execVamomin (ord : Bool) (vr : VReg) (xb : XReg) (imm : BitVec 32) (vo : VReg) (fe fi : FEnt) (mk : MReg) (s : State) : Out :=
  .next (vamoOp 5 ord vr xb imm vo fe fi mk s)

/-- `vamomax`, operation 6 of R219. -/
def execVamomax (ord : Bool) (vr : VReg) (xb : XReg) (imm : BitVec 32) (vo : VReg) (fe fi : FEnt) (mk : MReg) (s : State) : Out :=
  .next (vamoOp 6 ord vr xb imm vo fe fi mk s)

/-- `vamominu`, operation 7 of R219. -/
def execVamominu (ord : Bool) (vr : VReg) (xb : XReg) (imm : BitVec 32) (vo : VReg) (fe fi : FEnt) (mk : MReg) (s : State) : Out :=
  .next (vamoOp 7 ord vr xb imm vo fe fi mk s)

/-- `vamomaxu`, operation 8 of R219. -/
def execVamomaxu (ord : Bool) (vr : VReg) (xb : XReg) (imm : BitVec 32) (vo : VReg) (fe fi : FEnt) (mk : MReg) (s : State) : Out :=
  .next (vamoOp 8 ord vr xb imm vo fe fi mk s)

/-- `vamofadd`, operation 9 of R219. -/
def execVamofadd (ord : Bool) (vr : VReg) (xb : XReg) (imm : BitVec 32) (vo : VReg) (fe fi : FEnt) (mk : MReg) (s : State) : Out :=
  .next (vamoOp 9 ord vr xb imm vo fe fi mk s)

/-- `vcas`, operation 10 of R219. -/
def execVcas (ord : Bool) (vr : VReg) (xb : XReg) (imm : BitVec 32) (vo : VReg) (fe fi : FEnt) (mk : MReg) (s : State) : Out :=
  .next (vamoOp 10 ord vr xb imm vo fe fi mk s)

end Sys2Proof.Machine
end

