-- ==== Sys2Proof/Machine/Permute.lean ====
section
/-! DEFINITION. Majors 0x4B, 0x4C and 0x4D: permutes and slides, reductions, and compress-and-append
(R244 to R250). -/

namespace Sys2Proof.Machine

/-! ### Permutes (R244, R245) -/

/-- The checks of a permute whose sources are `srcs`, each with its field's lowest bit; the destination overlaps
none of them (R244). -/
def permCheck (vd : VReg) (srcs : List (VReg × Nat)) (fd : FEnt) (fb : Option FEnt) (h : Hart) : Check :=
  let fbs := fb.toList
  firstFail ([ckVl h (fd :: fbs), ckFmt h fd] ++ fbs.map (fun k => ckEntry h k intFmt) ++ [ckGroup h vd.val 8]
    ++ srcs.map (fun p => ckGroup h p.1.val p.2) ++ [ckBit (srcs.any (fun p => overlaps h vd.val 1 p.1.val 1)) 8])

/-- A permute under a mask: `f` gives the code and poison of destination element i, or none where the element is not
written. -/
def permMember (vd : VReg) (srcs : List (VReg × Nat)) (fd : FEnt) (fb : Option FEnt) (mk : MReg)
    (f : Hart → Nat → Option (Nat × Bool)) : Member :=
  { check := fun s => permCheck vd srcs fd fb s.hart,
    run := fun dev lo hi s =>
      let n := (fmt s.hart fd).n
      pureElems (fun i h => match f h i with
        | some (c, p) => maskedElem h mk vd.val i n (fun h => setElem h vd.val i n c p)
        | none => h) dev lo hi s,
    fin := fun lo s =>
      if lo < vlOf s.hart then s.onHart (fun h => tailGroup h vd.val (vlOf h) (fmt h fd).n) else s,
    draws := fun _ => false }

/-- Element j of a source group, with its poison; 0 from cap up. -/
def pickElem (h : Hart) (v : VReg) (fd : FEnt) (j : Nat) : Nat × Bool :=
  let n := (fmt h fd).n
  if j < capN h n then (elem h v.val j n, elemPois h v.val j n) else (0, false)

/-- The offset of a slide, and its poison. -/
def slideOff (h : Hart) : SlideOff → Nat × Bool
  | .imm v => (v.toNat, false)
  | .reg x => ((getX h x).toNat, poisX h x)

/-- The low bits of a scalar register as an element. -/
def scalElem (h : Hart) (x : XReg) (fd : FEnt) : Nat × Bool := ((getX h x).toNat % 2 ^ (fmt h fd).n, poisX h x)

def vliftMember (vd vs1 : VReg) (off : SlideOff) (fd : FEnt) (mk : MReg) : Member :=
  permMember vd [(vs1, 14)] fd none mk (fun h i =>
    let o := slideOff h off
    if o.1 ≤ i then
      let e := pickElem h vs1 fd (i - o.1)
      some (e.1, e.2 || o.2)
    else none)

def vdropMember (vd vs1 : VReg) (off : SlideOff) (fd : FEnt) (mk : MReg) : Member :=
  permMember vd [(vs1, 14)] fd none mk (fun h i =>
    let o := slideOff h off
    let e := pickElem h vs1 fd (i + o.1)
    some (e.1, e.2 || o.2))

def vliftxMember (vd vs1 : VReg) (xs : XReg) (fd : FEnt) (mk : MReg) : Member :=
  permMember vd [(vs1, 14)] fd none mk (fun h i =>
    some (if i = 0 then scalElem h xs fd else pickElem h vs1 fd (i - 1)))

def vdropxMember (vd vs1 : VReg) (xs : XReg) (fd : FEnt) (mk : MReg) : Member :=
  permMember vd [(vs1, 14)] fd none mk (fun h i =>
    some (if i + 1 = vlOf h then scalElem h xs fd else pickElem h vs1 fd (i + 1)))

def vpickMember (vd vs1 vs2 : VReg) (fd fb : FEnt) (mk : MReg) : Member :=
  permMember vd [(vs1, 14), (vs2, 20)] fd (some fb) mk (fun h i =>
    let n := (fmt h fb).n
    let ix := intVal (fmt h fb) (elem h vs2.val i n)
    let e := if ix < 0 then (0, false) else pickElem h vs1 fd ix.toNat
    some (e.1, e.2 || elemPois h vs2.val i n))

/-- `vpack`: counted source elements move down; VES counts source elements. -/
def vpackMember (vd vs1 : VReg) (fd : FEnt) (mk : MReg) : Member :=
  { check := fun s => permCheck vd [(vs1, 14)] fd none s.hart,
    run := fun dev lo hi s =>
      let n := (fmt s.hart fd).n
      pureElems (fun i h =>
        if mbit h mk i then
          setElem h vd.val (countBelow h mk i) n (elem h vs1.val i n)
            (elemPois h vs1.val i n || (List.range (i + 1)).any (fun j => mpois h mk j))
        else h) dev lo hi s,
    fin := fun lo s =>
      if lo < vlOf s.hart then s.onHart (fun h => tailGroup h vd.val (countBelow h mk (vlOf h)) (fmt h fd).n) else s,
    draws := fun _ => false }

/-- `vget`: element 0 whatever VL and VES are. -/
def vgetMember (xd : XReg) (vs1 : VReg) (fd : FEnt) : Member :=
  { check := fun s => let h := s.hart; firstFail [ckVl h [fd], ckFmt h fd, ckGroup h vs1.val 14],
    run := fun _ _ _ s => (s, none),
    fin := fun _ s =>
      let f := fmt s.hart fd
      let c := elem s.hart vs1.val 0 f.n
      s.setX xd (if f.spv = 4 then sext64 f.n c else BitVec.ofNat 64 c) (elemPois s.hart vs1.val 0 f.n),
    draws := fun _ => false }

/-- `vplace`: elements from 1 up are tail elements. -/
def vplaceMember (vd : VReg) (xs : XReg) (fd : FEnt) : Member :=
  { check := fun s => permCheck vd [] fd none s.hart,
    run := fun dev lo hi s =>
      let n := (fmt s.hart fd).n
      pureElems (fun i h => if i = 0 then setElem h vd.val 0 n (scalElem h xs fd).1 (poisX h xs) else h) dev lo hi s,
    fin := fun lo s =>
      if lo < vlOf s.hart then s.onHart (fun h => tailGroup h vd.val 1 (fmt h fd).n) else s,
    draws := fun _ => false }

/-- `vlift` (R245). -/
def execVlift (vd vs1 : VReg) (off : SlideOff) (fd : FEnt) (mk : MReg) (s : State) : Out :=
  .next (soloConvoy (vliftMember vd vs1 off fd mk) s)

/-- `vdrop` (R245). -/
def execVdrop (vd vs1 : VReg) (off : SlideOff) (fd : FEnt) (mk : MReg) (s : State) : Out :=
  .next (soloConvoy (vdropMember vd vs1 off fd mk) s)

/-- `vliftx` (R245). -/
def execVliftx (vd vs1 : VReg) (xs : XReg) (fd : FEnt) (mk : MReg) (s : State) : Out :=
  .next (soloConvoy (vliftxMember vd vs1 xs fd mk) s)

/-- `vdropx` (R245). -/
def execVdropx (vd vs1 : VReg) (xs : XReg) (fd : FEnt) (mk : MReg) (s : State) : Out :=
  .next (soloConvoy (vdropxMember vd vs1 xs fd mk) s)

/-- `vpick` (R245). -/
def execVpick (vd vs1 vs2 : VReg) (fd fb : FEnt) (mk : MReg) (s : State) : Out :=
  .next (soloConvoy (vpickMember vd vs1 vs2 fd fb mk) s)

/-- `vpack` (R245). -/
def execVpack (vd vs1 : VReg) (fd : FEnt) (mk : MReg) (s : State) : Out :=
  .next (soloConvoy (vpackMember vd vs1 fd mk) s)

/-- `vget` (R245). -/
def execVget (xd : XReg) (vs1 : VReg) (fd : FEnt) (s : State) : Out :=
  .next (soloConvoy (vgetMember xd vs1 fd) s)

/-- `vplace` (R245). -/
def execVplace (vd : VReg) (xs : XReg) (fd : FEnt) (s : State) : Out :=
  .next (soloConvoy (vplaceMember vd xs fd) s)

/-! ### Reductions (R105, R246, R247) -/

/-- The result of a reduction: its code and the classes its steps raise. -/
abbrev RedOp := Nat → Fmt → Nat → WVal → List WVal → Nat × Flags

/-- One rounded addition into an entry. -/
def redAdd (d : Fmt) (rm : Nat) (a b : WVal) : Nat × Flags :=
  let w := addW (rm == 2) a b
  let r := fencode d w.1 rm 0
  (r.1, w.2 ||| r.2)

/-- The ordered sum (R105). -/
def redOrdered : RedOp := fun _ d rm w l =>
  match l with
  | [] => fencode d w rm 0
  | a :: r => r.foldl (fun acc x => let q := redAdd d rm (fdecode d acc.1) x; (q.1, acc.2 ||| q.2)) (redAdd d rm w a)

/-- Joins two nodes of the list, chosen by the free values, until one is left: some binary tree (R105). -/
def redTree (fr : Nat) (d : Fmt) (rm : Nat) : Nat → List WVal → Flags → List WVal × Flags
  | 0, l, f => (l, f)
  | k + 1, l, f =>
    let i := Config.freeNat fr (2 * k) % max 1 l.length
    let l1 := l.eraseIdx i
    let j := Config.freeNat fr (2 * k + 1) % max 1 l1.length
    match l[i]?, l1[j]? with
    | some a, some b =>
      let q := redAdd d rm a b
      redTree fr d rm k (fdecode d q.1 :: l1.eraseIdx j) (f ||| q.2)
    | _, _ => (l, f)

/-- The unordered sum (R105). -/
def redUnordered : RedOp := fun fr d rm w l =>
  match l with
  | [] => fencode d w rm 0
  | _ =>
    let r := redTree fr d rm l.length (w :: l) 0
    let c := fencode d (r.1.headD w) rm 0
    (c.1, r.2 ||| c.2)

/-- The greatest or least of the values that are no NaN (R246). -/
def redExtreme (mx : Bool) : RedOp := fun _ d rm w l =>
  let q := l.foldl (fun acc x => let r := minMaxW mx acc.1 x; (r.1, acc.2 ||| r.2)) (w, snanFlag w)
  let c := fencode d q.1 rm 0
  (c.1, q.2 ||| c.2)

/-- The integer a wide value of an integer entry holds. -/
def wInt : WVal → Int
  | .fin s m e _ => scaleTo s m e 0
  | _ => 0

/-- The exact integer sum, encoded once. -/
def redInt : RedOp := fun _ d _ w l => encInt d (l.foldl (fun a x => a + wInt x) (wInt w))

/-- The operands of a reduction. -/
abbrev RedForm := VReg → VReg → VReg → FEnt → FEnt → MReg → RMode → Member

/-- A reduction, performed whole at completion (R247). -/
def redMember (ok : Fmt → Bool) (op : RedOp) : RedForm := fun vd vs1 vs2 fd fa mk rm =>
  { check := fun s =>
      let h := s.hart
      firstFail [ckVl h [fd, fa], ckEntry h fd ok, ckEntry h fa ok, ckGroup h vd.val 8, ckGroup h vs1.val 14,
        ckGroup h vs2.val 20],
    run := fun _ _ _ s => (s, none),
    fin := fun lo s =>
      if lo < vlOf s.hart then
        let h := s.hart; let d := fmt h fd; let vl := vlOf h
        let es := activeElems h mk 0 vl
        let r := op s.free d (noSr (rmode h rm)) (opnd h vs2.val fd 0) (es.map (fun i => opnd h vs1.val fa i))
        let p := elemPois h vs2.val 0 d.n || es.any (fun i => elemPois h vs1.val i (fmt h fa).n)
          || (List.range vl).any (fun i => mpois h mk i)
        s.onHart (fun h => tailGroup (accrue (setElem h vd.val 0 d.n r.1 p) r.2) vd.val 1 d.n)
      else s,
    draws := fun _ => false }

def vfredosumMember : RedForm := redMember plainFmt redOrdered

def vfredusumMember : RedForm := redMember plainFmt redUnordered

def vfredmaxMember : RedForm := redMember plainFmt (redExtreme true)

def vfredminMember : RedForm := redMember plainFmt (redExtreme false)

def vredsumMember : RedForm := redMember intFmt redInt

/-- `vfredosum` (R246). -/
def execVfredosum (vd vs1 vs2 : VReg) (fd fa : FEnt) (mk : MReg) (rm : RMode) (s : State) : Out :=
  .next (soloConvoy (vfredosumMember vd vs1 vs2 fd fa mk rm) s)

/-- `vfredusum` (R246). -/
def execVfredusum (vd vs1 vs2 : VReg) (fd fa : FEnt) (mk : MReg) (rm : RMode) (s : State) : Out :=
  .next (soloConvoy (vfredusumMember vd vs1 vs2 fd fa mk rm) s)

/-- `vfredmax` (R246). -/
def execVfredmax (vd vs1 vs2 : VReg) (fd fa : FEnt) (mk : MReg) (rm : RMode) (s : State) : Out :=
  .next (soloConvoy (vfredmaxMember vd vs1 vs2 fd fa mk rm) s)

/-- `vfredmin` (R246). -/
def execVfredmin (vd vs1 vs2 : VReg) (fd fa : FEnt) (mk : MReg) (rm : RMode) (s : State) : Out :=
  .next (soloConvoy (vfredminMember vd vs1 vs2 fd fa mk rm) s)

/-- `vredsum` (R246). -/
def execVredsum (vd vs1 vs2 : VReg) (fd fa : FEnt) (mk : MReg) (rm : RMode) (s : State) : Out :=
  .next (soloConvoy (vredsumMember vd vs1 vs2 fd fa mk rm) s)

/-! ### Compress-and-append (R248, R249) -/

/-- Element i of a `vappend`: its position counts from bit 0. -/
def appendElem (xd xb : XReg) (vs1 : VReg) (fd : FEnt) (mk : MReg) (dev : Bool) (i : Nat) (s : State) :
    State × Option Stop :=
  let h := s.hart; let n := (fmt h fd).n
  if mbit h mk i then
    let j := (getX h xd).toNat + countBelow h mk i
    let a := getX h xb + BitVec.ofNat 64 (j * n / 8)
    let c := elem h vs1.val i n
    let p := elemPois h vs1.val i n || (List.range (i + 1)).any (fun k => mpois h mk k)
    if n = 4 then
      match nibbleByte s dev i i a with
      | .stop t => (s, some t)
      | .ok s1 bs _ =>
        match writeField s1 dev i i a [putBits (BitVec.ofNat 8 (leNat bs)) (j % 2 * 4) 4 c] p with
        | .stop t => (s, some t)
        | .ok s2 _ _ => (s2, none)
    else match writeField s dev i i a (natLe (elemBytes n) c) p with
      | .stop t => (s, some t)
      | .ok s1 _ _ => (s1, none)
  else (s, none)

def vappendMember (xd : XReg) (vs1 : VReg) (xb : XReg) (fd : FEnt) (mk : MReg) : Member :=
  { check := fun s =>
      let h := s.hart
      firstFail [ckVl h [fd], ckFmt h fd, ckGroup h vs1.val 14,
        if poisX h xd || poisX h xb then some (0, 0) else none],
    run := fun dev lo hi s => eachElem (appendElem xd xb vs1 fd mk dev) lo (hi - lo) s,
    fin := fun _ s =>
      let h := s.hart
      s.setX xd (getX h xd + BitVec.ofNat 64 (countBelow h mk (vlOf h)))
        ((List.range (vlOf h)).any (fun k => mpois h mk k)),
    draws := fun _ => false }

/-- `vappend` (R248). -/
def execVappend (xd : XReg) (vs1 : VReg) (xb : XReg) (fd : FEnt) (mk : MReg) (s : State) : Out :=
  .next (soloConvoy (vappendMember xd vs1 xb fd mk) s)

end Sys2Proof.Machine
end

