-- ==== Sys2Proof/Machine/Control.lean ====
section
/-! DEFINITION. Majors 0x30 to 0x33: jumps, calls, branches and hardware loops (R185 to R191). -/

namespace Sys2Proof.Machine

/-- A transfer to a code address with `link` written first (R186): the address fault comes before any write. -/
def goTo (s : State) (t : Word) (link : State → State) : State :=
  if wide t then takeTrap s 0x0008 t else transfer (link s) t

/-- Writes the link register with the code address of the next slot. -/
def writeLink (xd : XReg) (s : State) : State := s.setX xd (nextSlot s.hart.pc)

/-- The register forms (R187). -/
def goReg (s : State) (xs1 : XReg) (link : State → State) : State :=
  consume s [xs1] fun s =>
    let t := s.x xs1
    if bits t.toNat 5 3 ≠ 0 ∨ 4 < slotOf t then takeTrap s 0x0008 t else goTo s t link

/-- A conditional branch (R188). -/
def branchOp (s : State) (xs1 xs2 : XReg) (slot : Slot) (imm : BitVec 32) (cond : Word → Word → Bool) : State :=
  consume s [xs1, xs2] fun s =>
    if cond (s.x xs1) (s.x xs2) then goTo s (target s.hart.pc imm slot) id else retire s s

/-- Loop n of a hart. -/
def loopOf (h : Hart) (n : Bool) : LoopRegs := if n then h.loop1 else h.loop0

def setLoop (h : Hart) (n : Bool) (l : LoopRegs) : Hart := if n then { h with loop1 := l } else { h with loop0 := l }

/-- The set-up of a loop (R189): all three registers at once, with any pending value cancelled (R79). -/
def loopSetUp (s : State) (n : Bool) (xs1 : XReg) (slot : Slot) (imm : BitVec 32) : State :=
  consume s [xs1] fun s =>
    let le := target s.hart.pc imm slot
    let l : LoopRegs := { lc := s.x xs1, lb := nextSlot s.hart.pc, le := le, lbP := none, leP := none }
    if wide le then takeTrap s 0x0008 le
    else if l.lc = 0 then goTo s (nextSlot le) (fun s => s.onHart (fun h => setLoop h n l))
    else retire s (s.onHart (fun h => setLoop h n l))

/-- A loop register set whose count falls to zero: its pending values take effect, since no boundary follows (R79). -/
def loopOff (l : LoopRegs) : LoopRegs :=
  { lc := 0, lb := l.lbP.getD l.lb, le := l.leP.getD l.le, lbP := none, leP := none }

/-- `j` (R186). -/
def execJ (slot : Slot) (imm : BitVec 32) (s : State) : Out := .next (goTo s (target s.hart.pc imm slot) id)

/-- `call` (R186). -/
def execCall (xd : XReg) (slot : Slot) (imm : BitVec 32) (s : State) : Out :=
  .next (goTo s (target s.hart.pc imm slot) (writeLink xd))

/-- `jr` (R187). -/
def execJr (xs1 : XReg) (s : State) : Out := .next (goReg s xs1 id)

/-- `callr` (R187). -/
def execCallr (xd xs1 : XReg) (s : State) : Out := .next (goReg s xs1 (writeLink xd))

/-- `ret` (R187): as `jr`. -/
def execRet (xs1 : XReg) (s : State) : Out := .next (goReg s xs1 id)

/-- `beq` (R188). -/
def execBeq (xs1 xs2 : XReg) (slot : Slot) (imm : BitVec 32) (s : State) : Out :=
  .next (branchOp s xs1 xs2 slot imm (fun a b => a == b))

/-- `bne` (R188). -/
def execBne (xs1 xs2 : XReg) (slot : Slot) (imm : BitVec 32) (s : State) : Out :=
  .next (branchOp s xs1 xs2 slot imm (fun a b => a != b))

/-- `blt` (R188). -/
def execBlt (xs1 xs2 : XReg) (slot : Slot) (imm : BitVec 32) (s : State) : Out :=
  .next (branchOp s xs1 xs2 slot imm (fun a b => a.slt b))

/-- `bge` (R188). -/
def execBge (xs1 xs2 : XReg) (slot : Slot) (imm : BitVec 32) (s : State) : Out :=
  .next (branchOp s xs1 xs2 slot imm (fun a b => !a.slt b))

/-- `bltu` (R188). -/
def execBltu (xs1 xs2 : XReg) (slot : Slot) (imm : BitVec 32) (s : State) : Out :=
  .next (branchOp s xs1 xs2 slot imm (fun a b => a.ult b))

/-- `bgeu` (R188). -/
def execBgeu (xs1 xs2 : XReg) (slot : Slot) (imm : BitVec 32) (s : State) : Out :=
  .next (branchOp s xs1 xs2 slot imm (fun a b => !a.ult b))

/-- `loop0` (R189). -/
def execLoop0 (xs1 : XReg) (slot : Slot) (imm : BitVec 32) (s : State) : Out :=
  .next (loopSetUp s false xs1 slot imm)

/-- `loop1` (R189). -/
def execLoop1 (xs1 : XReg) (slot : Slot) (imm : BitVec 32) (s : State) : Out :=
  .next (loopSetUp s true xs1 slot imm)

/-- `lpexit0` (R191). -/
def execLpexit0 (s : State) : Out := .next (retire s (s.onHart (fun h => { h with loop0 := loopOff h.loop0 })))

/-- `lpexit1` (R191). -/
def execLpexit1 (s : State) : Out := .next (retire s (s.onHart (fun h => { h with loop1 := loopOff h.loop1 })))

end Sys2Proof.Machine
end

