-- ==== Sys2Proof/Machine/Privileged.lean ====
section
/-! DEFINITION. The operations behind the privileged controls: keys, contexts, kills, queues and scrubs (R199, R341 to
R344, R367, R446, R448). `dev` is the device of the issuer. -/

namespace Sys2Proof.Machine

/-! ### Ranges of device physical memory -/

/-- The byte lies in device physical range [base, base + len) of a device. -/
def inRange (p : Pkg) (dev base len loc : Nat) : Bool :=
  !isTile loc && locDev p loc == dev && decide (base ≤ locPa p loc) && decide (locPa p loc < base + len)

/-- Sets the zero-fill bit and clears the poison of every byte that satisfies `p` (R140, R446). The performed writes
to it are gone; a hart's unpublished writes stay. DEDUCED (log 14). -/
def wipeWhere (s : State) (p : Nat → Bool) : State :=
  let m := { s.mem with cells := cellDrop p s.mem.cells, log := s.mem.log.filter (fun w => !p w.loc),
                        keyOf := s.mem.keyOf.filter (fun g => !p (64 * g.1)),
                        pois := s.mem.pois.filter (fun g => !p (64 * g)),
                        hwPois := s.mem.hwPois.filter (fun g => !p (64 * g)) }
  mapHarts { s with mem := m } (fun h => { h with own := h.own.filter (fun o => !(o.done && p o.loc)) })

/-- `scrub` (R199). -/
def scrubOp (s : State) (dev base len : Nat) : State × Nat :=
  if base % 64 ≠ 0 ∨ len % 64 ≠ 0 ∨ paLimit s.pkg.mode < base + len then (s, 1)
  else (wipeWhere s (inRange s.pkg dev base len), 0)

/-! ### Keys -/

/-- The material that a slot holds at a controller of the device. DEDUCED (log 30). -/
def slotMaterial (s : State) (dev slot : Nat) : Option (BitVec 512) :=
  (s.mem.keys.find? (fun k => k.slot == slot && (stacksOf s.pkg dev).contains k.stack)).map (·.material)

/-- `keyset` (R199). -/
def keysetOp (s : State) (dev pa slot : Nat) : State × Nat :=
  if slot = 0 ∨ 1023 < slot then (s, 1)
  else if (slotMaterial s dev slot).isSome then (s, 2)
  else match devRead s dev pa 64 with
    | none => (s, 3)
    | some b =>
      let ks := (stacksOf s.pkg dev).map (fun st =>
        ({ stack := st, slot := slot, material := BitVec.ofNat 512 (leNat b) } : KeyEnt))
      ({ s with mem := { s.mem with keys := s.mem.keys ++ ks } }, 0)

/-- The granules of the lines that are dropped dirty when a key is destroyed (R141): which of the lines written under the key
are still cached dirty is not the program's to know (R446). DESIGN CHOICE (log 12). -/
def dirtyGranules (s : State) (dev : Nat) (k : KeyTag) : List Nat :=
  let lines := ((s.mem.keyOf.filter (fun e => e.2 == k && locDev s.pkg (64 * e.1) == dev && Config.freeBool s.free (e.1 / 2))).map
    (fun e => e.1 / 2)).eraseDups
  lines.flatMap (fun l => [2 * l, 2 * l + 1])

/-- `keydel` (R446). -/
def keydelOp (s : State) (dev slot : Nat) : State × Nat :=
  if slot = 0 ∨ 1023 < slot then (s, 1)
  else match slotMaterial s dev slot with
    | none => (s, 2)
    | some mt =>
      let gs := dirtyGranules s dev (.material mt)
      let ks := s.mem.keys.filter (fun k => !(k.slot == slot && (stacksOf s.pkg dev).contains k.stack))
      let s1 := gs.foldl (fun st g => forN 64 st (fun i st =>
        putHomeByte st (.material mt) (64 * g + i) (Config.freeBits 8 s.free (64 * g + i)))) s
      let m := { s1.mem with keys := ks, pois := gs.filter (fun g => !s1.mem.pois.contains g) ++ s1.mem.pois,
                             hwPois := gs.filter (fun g => !s1.mem.hwPois.contains g) ++ s1.mem.hwPois }
      let s2 := { s1 with mem := m }
      let dies := (List.range 64).filter (fun d => gs.any (fun g => homeDieStack s.pkg (64 * g) == d))
      (dies.foldl (fun st d =>
        let n := (gs.filter (fun g => homeDieStack s.pkg (64 * g) == d)).map (fun g => g / 2)
        event st (srcOf 3 d 0) 0x0502 0 none none none (natLe 8 slot ++ natLe 8 n.eraseDups.length)) s2, 0)

/-! ### Contexts -/

/-- Every hart that stands in a trap handler of the context it belongs to kills with the record of R405; a kill from
elsewhere with 0x0206 (R448). -/
def ctxkillOp (s : State) (src : BitVec 16) (handler : Option Hart) (c : Nat) : State × Nat :=
  match findCtx s c with
  | none => (s, 1)
  | some x =>
    if x.kill.isSome then (s, 2)
    else match handler with
      | some h =>
        (containedKill s src h.trap.code.toNat c (some h.id.flat) (some (3, h.trap.tpc.toNat)) (natLe 8 h.trap.tval.toNat), 0)
      | none => (containedKill s src 0x0206 c none none [], 0)

/-- A new context from its descriptor (R367). -/
def newCtx (num dev : Nat) (b : List Byte) : Ctx :=
  { num := num, dev := dev, ptroot := fld b 0 8, save := fld b 8 8, savesz := fld b 16 8, peert := fld b 24 8,
    hwint := fld b 32 8, npeer := fld b 40 2, nhwin := fld b 42 2, kslot := fld b 44 2,
    vlk := BitVec.ofNat 2 (fld b 46 1), tiles := [], res := [], tokens := [], holds := [],
    tmcnt := Vector.replicate 5 0, spans := [], saveRefused := [], kill := none }

/-- The first check of a descriptor that fails, from c = 2 on (R367). -/
def ctxCheck (s : State) (dev : Nat) (b : List Byte) : Option Nat :=
  let c := newCtx 0 dev b; let lim := paLimit s.pkg.mode
  let slots := (stacksOf s.pkg dev).all (fun st => s.mem.keys.any (fun k => k.stack == st && k.slot == c.kslot))
  if !zeroAt b 47 17 || decide (4096 < c.npeer) || decide (256 < c.nhwin) || c.kslot == 0 || decide (1023 < c.kslot)
      || decide (3 < fld b 46 1) then some 2
  else if !slots then some 3
  else if c.ptroot % 4096 ≠ 0 ∨ c.save % 4096 ≠ 0 ∨ c.peert % 32 ≠ 0 ∨ c.hwint % 32 ≠ 0 ∨ lim < c.ptroot + 4096
      ∨ lim < c.save + c.savesz ∨ lim < c.peert + 32 * c.npeer ∨ lim < c.hwint + 32 * c.nhwin then some 4
  else if 1023 ≤ s.ctxs.length then some 5
  else if c.savesz < 4096 + imageBytes (8192 * 2 ^ c.vlk.toNat) then some 7
  else none

/-- Records that an operation was refused because a mode change is in progress (R26, R394). -/
def chgRefused (s : State) (dev : Nat) : State := event s (srcOf 4 dev 0) 0x0204 0 none none none []

/-- `ctxnew` (R367). -/
def ctxnewOp (s : State) (dev pa : Nat) : State × Word :=
  if s.pkg.chg.isSome then (chgRefused s dev, failCode 6)
  else if pa % 64 ≠ 0 then (s, failCode 1)
  else match devRead s dev pa 64 with
    | none => (s, failCode 1)
    | some b => match ctxCheck s dev b with
      | some c => (s, failCode c)
      | none => match lowestFree (fun n => s.ctxs.any (fun x => x.num == n)) 1 1023 with
        | none => (s, failCode 5)
        | some n => ({ s with ctxs := s.ctxs ++ [newCtx n dev b] }, BitVec.ofNat 64 n)

/-! ### Queues (R341 to R344) -/

/-- Queues of a device (R23). -/
def queueCount : DMode → Nat
  | .one => 1024
  | .half => 512
  | .die => 16

/-- What a queue-append answers. -/
inductive AppendRes where
  | unreadable
  | busy
  | full
  | tail (t : Nat)
  deriving DecidableEq, Repr

/-- Its 8-byte result (R342). -/
def AppendRes.word : AppendRes → Word
  | .unreadable => 0
  | .busy => 0xFFFFFFFFFFFFFFFE
  | .full => 0xFFFFFFFFFFFFFFFF
  | .tail t => BitVec.ofNat 64 t

/-- `qappend` (R342). -/
def qappendOp (s : State) (dev hdr : Nat) (rec : List Byte) : State × AppendRes :=
  if s.pkg.chg.isSome then (chgRefused s dev, .busy)
  else match devRead s dev hdr 64 with
    | none => (s, .unreadable)
    | some b =>
      let n := 2 ^ (fld b 8 4); let tail := fld b 16 8; let head := fld b 24 8
      if n ≤ (tail + 2 ^ 64 - head) % 2 ^ 64 ∨ 0xFFFFFFFFFFFFFFFE ≤ tail then (s, .full)
      else
        let s1 := devWrite s dev (fld b 0 8 + 128 * (tail % n)) (slice rec 0 128)
        (devWrite s1 dev (hdr + 16) (natLe 8 (tail + 1)), .tail tail)

def findQueue (s : State) (dev q : Nat) : Option Queue := (findDev s dev).queues.find? (fun x => x.q == q)

/-- QBIND (R344). DESIGN CHOICE (log 85). -/
def qbindOp (s : State) (dev q hdr : Nat) : State × Nat :=
  if queueCount s.pkg.mode ≤ q then (s, 1)
  else if (findQueue s dev q).isSome then (s, 2)
  else if hdr % 64 ≠ 0 then (s, 3)
  else match devRead s dev hdr 64 with
    | none => (s, 3)
    | some b =>
      let c := fld b 12 2; let logn := fld b 8 4
      let mine := match findCtx s c with | some x => x.dev == dev | none => false
      if !zeroAt b 14 2 || !zeroAt b 40 24 || logn = 0 || 16 < logn || fld b 0 8 % 128 ≠ 0 || !mine then (s, 3)
      else (modDev s dev (fun d => { d with queues := d.queues ++ [{ q := q, hdr := hdr, ctx := c, paused := false }] }), 0)

/-- A launch of which no instance is placed. DEDUCED (log 21). -/
def nonePlaced (l : Launch) : Bool := l.insts.all (fun i => match i.st with | .placed _ => false | _ => true)

/-- Ends the reservations made for a launch (R348). -/
def dropResv (s : State) (dev lid : Nat) : State :=
  modDev s dev (fun d => { d with resv := d.resv.filter (fun r => r.1.1 != lid) })

/-- QUNBIND (R344). -/
def qunbindOp (s : State) (dev q : Nat) : State × Nat :=
  match findQueue s dev q with
  | none => (s, 1)
  | some _ =>
    let s1 := modDev s dev (fun d => { d with queues := d.queues.filter (fun x => x.q != q) })
    let gone := s1.launches.filter (fun l => l.dev == dev && l.queue == q && nonePlaced l)
    (gone.foldl (fun st l => dropLaunch (dropResv (signalToken st l.ctx l.doneTok false) dev l.lid) l) s1, 0)

/-- QPAUSE and QRESUME (R344). -/
def qpauseOp (s : State) (dev q : Nat) (p : Bool) : State × Nat :=
  match findQueue s dev q with
  | none => (s, 1)
  | some _ =>
    let f := updWhere (fun x : Queue => x.q == q) (fun x => { x with paused := p })
    (modDev s dev (fun d => { d with queues := f d.queues }), 0)

/-- QAPPEND by `qctl` (R344). DEDUCED (log 21). -/
def qctlAppendOp (s : State) (dev q pa : Nat) : State × Nat :=
  if s.pkg.chg.isSome then (chgRefused s dev, 6)
  else match findQueue s dev q with
    | none => (s, 1)
    | some x => match devRead s dev x.hdr 64 with
      | none => (s, 5)
      | some b =>
        let tail := fld b 16 8; let head := fld b 24 8
        if 2 ^ (fld b 8 4) ≤ (tail + 2 ^ 64 - head) % 2 ^ 64 ∨ 0xFFFFFFFFFFFFFFFE ≤ tail then (s, 4)
        else if pa % 128 ≠ 0 then (s, 5)
        else match devRead s dev pa 128 with
          | none => (s, 5)
          | some r => ((qappendOp s dev x.hdr r).1, 0)

/-! ### The device mode (R26, R27) -/

def modeCode : DMode → Nat
  | .one => 0
  | .half => 1
  | .die => 2

/-- A write of DMODE (R27). DEDUCED (log 22). -/
def dmodeOp (s : State) (v : Word) : State :=
  let want := v.toNat % 4; let clr := v.getLsbD 3
  let pk := s.pkg
  if want = modeCode pk.mode then { s with pkg := { pk with merr := pk.merr && !clr } }
  else if !s.ctxs.isEmpty || pk.chg.isSome || want = 3 then { s with pkg := { pk with merr := true } }
  else
    let md : DMode := match want with | 0 => .one | 1 => .half | _ => .die
    let s1 := { s with pkg := { pk with mode := md, chg := some s.cycle, merr := pk.merr && !clr }, devices := [], launches := [] }
    mapHarts s1 (fun h => { h with id := { h.id with dev := devOfDie s1.pkg h.id.die } })

end Sys2Proof.Machine
end

