-- ==== Sys2Proof/Machine/System.lean ====
section
/-! DEFINITION. Majors 0xD0 to 0xD3: state registers, traps and returns, translation invalidation, `fsync` and the
privileged controls (R61 to R82, R192 to R200). -/

namespace Sys2Proof.Machine

/-! ### State registers as words (R61 to R82) -/

def modeWord (m : ModeReg) : Nat := m.st.toNat + 8 * m.dtgt.toNat + 64 * m.drow.toNat + 8192 * b2n m.chn

def ashapeWord (a : AShape) : Nat :=
  a.rows.toNat + 2 ^ 8 * a.cols.toNat + 2 ^ 16 * a.pk.toNat + 2 ^ 18 * a.cpos.toNat + 2 ^ 22 * a.clen.toNat

def fxmWord (f : Fxm) : Nat := f.sel.toNat + 8 * f.rm.toNat + 256 * f.acc.toNat

def phsWord (p : PhsReg) : Nat :=
  p.pcnt.toNat + 2 ^ 32 * p.lrs.toNat + 2 ^ 35 * p.las.toNat + 2 ^ 38 * b2n p.pubp + 2 ^ 39 * b2n p.hold

/-- HSTAT (R77). -/
def hstatWord (h : Hart) : Nat :=
  h.id.hnum % 8 + 2 ^ 3 * h.id.part.toNat + 2 ^ 5 * b2n h.st.yreq + 2 ^ 6 * b2n h.st.red + 2 ^ 7 * b2n h.st.priv
  + 2 ^ 8 * (h.id.core % 32) + 2 ^ 13 * (clusOf h.id.core % 4) + 2 ^ 15 * (h.id.die % 64)

/-- UISTAT (R80). -/
def uistatWord (u : UiRegs) : Nat := b2n u.en + 2 * b2n u.act + 4 * b2n u.pend

/-- TCAUSE (R82). -/
def tcauseWord (t : TrapRegs) : Nat := t.code.toNat + 2 ^ 16 * b2n t.ppriv + 2 ^ 17 * b2n t.puia

/-- DMODE (R21). -/
def dmodeWord (p : Pkg) : Nat := modeCode p.mode + 4 * b2n p.chg.isSome + 8 * b2n p.merr

/-- DMAP (R21). -/
def dmapWord (p : Pkg) : Nat := 2 ^ 64 - 1 - 2 ^ (p.hdie % 64)

/-- The quad of a die (R16). -/
def quadOf (die : Nat) : Nat := 4 * (die / 8 / 2) + die % 8 / 2

/-- DHARV (R21). -/
def dharvWord (p : Pkg) : Nat := p.hdie % 64 + 2 ^ 6 * quadOf (p.hdie % 64) + 2 ^ 10 * b2n (decide (8 ≤ quadOf (p.hdie % 64)))

/-- The stacked die of a die is present and enabled (R20). -/
def stackedOn (p : Pkg) (d : Nat) : Bool := dieLive p d && p.fitted.getLsbD d && !p.fusedOff.getLsbD d

/-- DSTK (R21). -/
def dstkWord (p : Pkg) : Nat := forN 64 0 (fun d a => a + 2 ^ d * b2n (stackedOn p d))

/-- DCAP on a die (R21). -/
def dcapWord (p : Pkg) (d : Nat) : Nat :=
  (if stackedOn p d then 128 else 64) + 2 ^ 16 * b2n (stackedOn p d)
  + 2 ^ 17 * b2n (p.fitted.getLsbD d && p.fusedOff.getLsbD d) + 2 ^ 18 * d + 2 ^ 24 * quadOf d

/-- The number is allocated (R61). -/
def srAllocated (n : Nat) : Bool :=
  decide (n ≤ 0x00B) || (decide (0x010 ≤ n) && decide (n ≤ 0x015)) || (decide (0x018 ≤ n) && decide (n ≤ 0x01A))
  || (decide (0x040 ≤ n) && decide (n ≤ 0x04F)) || (decide (0x100 ≤ n) && decide (n ≤ 0x105))
  || (decide (0x110 ≤ n) && decide (n ≤ 0x114))

/-- The read value of a state register on the focus hart. VLCAP of a hart that belongs to no context is a free value:
the register is held per context. DESIGN CHOICE (log 20). -/
def srRead (s : State) (n : Nat) : Nat :=
  let h := s.hart
  match n with
  | 0x000 => h.vc.vl.toNat
  | 0x001 => h.vc.vtype.toNat
  | 0x002 => h.vc.vmt.toNat
  | 0x003 => h.vc.ves.toNat
  | 0x004 => modeWord h.vc.mode
  | 0x005 => ashapeWord h.vc.ashape
  | 0x006 => fxmWord h.vc.fxm
  | 0x007 => phsWord h.phs
  | 0x008 => h.vc.sfth.toNat
  | 0x009 => timeOn s h.id.die
  | 0x00A => h.vc.rseed.toNat
  | 0x00B => hstatWord h
  | 0x010 => h.loop0.lc.toNat
  | 0x011 => h.loop0.lb.toNat
  | 0x012 => h.loop0.le.toNat
  | 0x013 => h.loop1.lc.toNat
  | 0x014 => h.loop1.lb.toNat
  | 0x015 => h.loop1.le.toNat
  | 0x018 => h.ui.uivec.toNat
  | 0x019 => h.ui.uipc.toNat
  | 0x01A => uistatWord h.ui
  | 0x100 => match findCtx s h.id.ctx with
    | some c => c.vlk.toNat
    | none => (Config.freeBits 2 s.free 0x100).toNat
  | 0x101 => dmodeWord s.pkg
  | 0x102 => dmapWord s.pkg
  | 0x103 => dharvWord s.pkg
  | 0x104 => dstkWord s.pkg
  | 0x105 => dcapWord s.pkg h.id.die
  | 0x110 => h.trap.tvec.toNat
  | 0x111 => h.trap.tpc.toNat
  | 0x112 => tcauseWord h.trap
  | 0x113 => h.trap.tval.toNat
  | 0x114 => h.trap.tscr.toNat
  | n => if 0x040 ≤ n ∧ n ≤ 0x04F then (h.vc.ft.toArray.getD (n - 0x040) 0).toNat else 0

/-- A code address written to a register of R78: reserved bits stay zero, and a SLOT of 5 to 7 leaves that field.
DEDUCED (log 69). -/
def codeField (old v : Word) : Word :=
  codeAddr (lineOf v) (if 4 < slotOf v then slotOf old else slotOf v)

/-- FXM after a write (R71): reserved codes leave their field, and ACC is W1C. -/
def fxmWrite (f : Fxm) (v : Word) : Fxm :=
  { sel := if v.extractLsb' 0 3 = 7 then f.sel else v.extractLsb' 0 3,
    rm := if 5 < (v.extractLsb' 3 3).toNat then f.rm else v.extractLsb' 3 3,
    acc := f.acc &&& ~~~(v.extractLsb' 8 6) }

/-- The writes of `sset` to registers without a row of their own (R9, R61 to R82): read-only registers are left. -/
def srWrite (h : Hart) (n : Nat) (v : Word) : Hart :=
  match n with
  | 0x002 => { h with vc := { h.vc with vmt := v.extractLsb' 0 2 } }
  | 0x003 => { h with vc := { h.vc with ves := BitVec.ofNat 17 (min (bits v.toNat 16 0) h.vc.vl.toNat) } }  -- above VL counts as VL (R68)
  | 0x006 => { h with vc := { h.vc with fxm := fxmWrite h.vc.fxm v } }
  | 0x008 => { h with vc := { h.vc with sfth := v.extractLsb' 0 32 } }
  | 0x018 => { h with ui := { h.ui with uivec := codeField h.ui.uivec v } }
  | 0x01A => { h with ui := { h.ui with en := v.getLsbD 0 } }
  | 0x110 => { h with trap := { h.trap with tvec := codeField h.trap.tvec v } }
  | 0x111 => { h with trap := { h.trap with tpc := codeField h.trap.tpc v } }
  | 0x114 => { h with trap := { h.trap with tscr := v } }
  | _ => h

/-- The access rules of R62; `userRead` allows the read of VLCAP (R81). -/
def srChecked (s : State) (n : Nat) (userRead : Bool) (k : State → State) : State :=
  if !srAllocated n then takeTrap s 0x0001 (BitVec.ofNat 64 n)
  else if 0x100 ≤ n ∧ s.hart.st.priv = false ∧ !(userRead && n == 0x100) then takeTrap s 0x0002 (BitVec.ofNat 64 n)
  else k s

/-! ### Major 0xD0 (R193) -/

/-- `sget` (R193). -/
def execSget (xd : XReg) (num : BitVec 12) (s : State) : Out :=
  .next (srChecked s num.toNat true fun s => retire s (s.setX xd (BitVec.ofNat 64 (srRead s num.toNat))))

/-- `sset` (R193). -/
def execSset (num : BitVec 12) (xs1 : XReg) (s : State) : Out :=
  .next (srChecked s num.toNat false fun s => consume s [xs1] fun s =>
    retire s (s.onHart (fun h => srWrite h num.toNat (getX h xs1))))

/-- `sset` of VLCAP (R55, R56, R81): governs later launches, and refused instances become candidates again. -/
def execVlcapWrite (xs1 : XReg) (s : State) : Out :=
  .next (srChecked s 0x100 false fun s => consume s [xs1] fun s =>
    let c := s.hart.id.ctx; let k := (s.x xs1).extractLsb' 0 2
    let s1 := modCtx s c (fun x => { x with vlk := k })
    let again := fun i : GInst => match i.st with
      | .saved o t _ => { i with st := .saved o t false }
      | _ => i
    let ls := s1.launches.map (fun l => if l.ctx = c then { l with insts := l.insts.map again } else l)
    retire s { s1 with launches := ls })

/-- `sset` of RSEED (R74). -/
def execRseedWrite (xs1 : XReg) (s : State) : Out :=
  .next (consume s [xs1] fun s => retire s (s.onHart (fun h => { h with vc := { h.vc with rseed := getX h xs1 } })))

/-- `sset` of DMODE (R27). -/
def execDmodeWrite (xs1 : XReg) (s : State) : Out :=
  .next (srChecked s 0x101 false fun s => consume s [xs1] fun s => retire s (dmodeOp s (s.x xs1)))

/-- A loop after an `sset` of one of its registers (R79). DEDUCED (log 8). -/
def loopWrite (l : LoopRegs) (r : LoopReg) (v : Word) : LoopRegs :=
  match r with
  | .lc0 | .lc1 => if v = 0 then loopOff l else { l with lc := v }
  | .lb0 | .lb1 => if l.lc = 0 then { l with lb := codeField l.lb v } else { l with lbP := some (codeField l.lb v) }
  | .le0 | .le1 => if l.lc = 0 then { l with le := codeField l.le v } else { l with leP := some (codeField l.le v) }

/-- The register belongs to loop 1. -/
def isLoop1 : LoopReg → Bool
  | .lc0 | .lb0 | .le0 => false
  | .lc1 | .lb1 | .le1 => true

/-- `sset` of a loop register (R79). -/
def execLoopRegWrite (r : LoopReg) (xs1 : XReg) (s : State) : Out :=
  .next (consume s [xs1] fun s =>
    retire s (s.onHart (fun h => setLoop h (isLoop1 r) (loopWrite (loopOf h (isLoop1 r)) r (getX h xs1)))))

/-! ### Major 0xD1 (R194 to R196) -/

/-- `sys` (R194): it retires, with its end check, and then its trap is taken (R191). -/
def execSys (imm : BitVec 32) (s : State) : Out :=
  .next (match endCheck s.hart s.hart.pc with
    | .back _ t => if wide t then takeTrap s 0x0008 t else takeTrap (retire s s) 0x001A (imm.setWidth 64)
    | .falls _ => takeTrap (retire s s) 0x001A (imm.setWidth 64))

/-- `brk` (R194). -/
def execBrk (imm : BitVec 32) (s : State) : Out := .next (takeTrap s 0x001B (imm.setWidth 64))

/-- The word of a family Y instruction without operands beyond these. -/
def yWord (opc : BitVec 8) (fn : BitVec 8) (xd xs1 xs2 : Nat) (imm : BitVec 32) : BitVec 96 :=
  joinY { opc := opc, xd := BitVec.ofNat 6 xd, xs1 := BitVec.ofNat 6 xs1, xs2 := BitVec.ofNat 6 xs2, scp := 0,
          fn := fn, rsv := 0, imm := imm }

/-- A form marked privileged in R192 (R200). -/
def privileged (s : State) (word : BitVec 96) (k : State → State) : State :=
  if s.hart.st.priv then k s else privTrap s word

/-- `tret` (R195). -/
def execTret (s : State) : Out :=
  .next (privileged s (yWord 0xD1 2 0 0 0 0) fun s => s.onHart (fun h => retireMarks (nsNow s) (trapReturn h)))

/-- `uiret` (R196). -/
def execUiret (s : State) : Out :=
  .next (
    if s.hart.ui.act = false then takeTrap s 0x0001 ((yWord 0xD1 3 0 0 0 0).setWidth 64)
    else if s.hart.ui.pend && s.hart.ui.en then
      if wide s.hart.ui.uivec then takeTrap s 0x0008 s.hart.ui.uivec
      else s.onHart (fun h => retireMarks (nsNow s)
        { h with ui := { h.ui with pend := false }, pc := h.ui.uivec, st := { h.st with entry := some h.ui.uipc } })
    else s.onHart (fun h => retireMarks (nsNow s)
      { h with ui := { h.ui with act := false }, pc := h.ui.uipc, st := { h.st with entry := none } }))

/-! ### Major 0xD2 (R197, R198) -/

/-- Drops the TLB entries and the walk-cache entries of a context whose first address and size satisfy `p`; a number that
names no context has no effect (R197). DEDUCED (log 63). -/
def dropTlb (s : State) (ctx : Nat) (p : Nat → Nat → Bool) : State :=
  if (findCtx s ctx).isSome then
    { s with mem := { s.mem with
        tlb := s.mem.tlb.filter (fun e => !(e.ctx == ctx && p e.va e.size)),
        wcache := s.mem.wcache.filter (fun e => !(e.ctx == ctx && p e.va (tabSpan e.lvl))) } }
  else s

/-- `tlbinv` (R197). -/
def execTlbinv (xs1 : XReg) (s : State) : Out :=
  .next (privileged s (yWord 0xD2 0 0 xs1.val 0 0) fun s => consume s [xs1] fun s =>
    retire s (dropTlb s ((s.x xs1).toNat % 65536) (fun _ _ => true)))

/-- `tlbinv.va` (R197). -/
def execTlbinvVa (xs1 xs2 : XReg) (s : State) : Out :=
  .next (privileged s (yWord 0xD2 1 0 xs1.val xs2.val 0) fun s => consume s [xs1, xs2] fun s =>
    let va := (s.x xs2).toNat % 2 ^ 48
    retire s (dropTlb s ((s.x xs1).toNat % 65536) (fun b n => decide (b ≤ va) && decide (va < b + n))))

/-- The hart's core, or the core of its twin in a redundant pair. -/
def fetchesFor (s : State) (die core : Nat) : Bool :=
  let me := s.hart.id.uid
  let uids := me :: s.pairs.flatMap (fun p => if p.uid == me || p.partner == me then [p.uid, p.partner] else [])
  uids.any (fun u => match findHart s u with
    | some h => h.id.die == die && h.id.core == core
    | none => false)

/-- `fsync` (R198): an acquire, and the fetched lines of the hart's core and context are discarded, the one that control
is in among them. -/
def execFsync (scp : Scope) (s : State) : Out :=
  .next (afterReleases s fun s1 =>
    let h := s1.hart
    let ls := s1.mem.ilines.filter (fun l => !(fetchesFor s1 l.die l.core && l.ctx == h.id.ctx))
    let s2 := { s1 with mem := { s1.mem with ilines := ls }, hart := { h with st := { h.st with line := none } } }
    acquireOp s1 s2 scp 0)

/-! ### Major 0xD3 (R199) -/

/-- A privileged control that writes its result to xd. DEDUCED (log 19). -/
def control (s : State) (fn : BitVec 8) (xd xs1 xs2 : Nat) (imm : BitVec 32) (rs : List XReg)
    (f : State → State × Word) (r : XReg) : State :=
  privileged s (yWord 0xD3 fn xd xs1 xs2 imm) fun s => consume s rs fun s =>
    let a := f s; retire s (a.1.setX r a.2)

/-- The result of an operation as a register value. -/
def code (r : State × Nat) : State × Word := (r.1, BitVec.ofNat 64 r.2)

/-- `keyset` (R199). -/
def execKeyset (xd xs1 xs2 : XReg) (s : State) : Out :=
  .next (control s 0 xd.val xs1.val xs2.val 0 [xs1, xs2]
    (fun s => code (keysetOp s s.hart.id.dev (s.x xs1).toNat ((s.x xs2).toNat % 1024))) xd)

/-- `keydel` (R446). -/
def execKeydel (xd xs1 : XReg) (s : State) : Out :=
  .next (control s 1 xd.val xs1.val 0 0 [xs1]
    (fun s => code (keydelOp s s.hart.id.dev ((s.x xs1).toNat % 1024))) xd)

/-- `ctxnew` (R367). -/
def execCtxnew (xd xs1 : XReg) (s : State) : Out :=
  .next (control s 2 xd.val xs1.val 0 0 [xs1] (fun s => ctxnewOp s s.hart.id.dev (s.x xs1).toNat) xd)

/-- `ctxkill` (R448): from a trap handler of a hart of the killed context the record is that of R405. -/
def execCtxkill (xd xs1 : XReg) (s : State) : Out :=
  .next (control s 3 xd.val xs1.val 0 0 [xs1]
    (fun s =>
      let c := (s.x xs1).toNat % 65536; let h := s.hart
      code (ctxkillOp s h.src (if h.st.inHandler && h.id.ctx == c then some h else none) c)) xd)

/-- `qctl` QBIND (R344). -/
def execQbind (xd xs1 xs2 : XReg) (s : State) : Out :=
  .next (control s 4 xd.val xs1.val xs2.val 0 [xs1, xs2]
    (fun s => code (qbindOp s s.hart.id.dev ((s.x xs1).toNat % 65536) (s.x xs2).toNat)) xd)

/-- `qctl` QUNBIND (R344). -/
def execQunbind (xd xs1 xs2 : XReg) (s : State) : Out :=
  .next (control s 4 xd.val xs1.val xs2.val 1 [xs1]
    (fun s => code (qunbindOp s s.hart.id.dev ((s.x xs1).toNat % 65536))) xd)

/-- `qctl` QPAUSE (R344). -/
def execQpause (xd xs1 xs2 : XReg) (s : State) : Out :=
  .next (control s 4 xd.val xs1.val xs2.val 2 [xs1]
    (fun s => code (qpauseOp s s.hart.id.dev ((s.x xs1).toNat % 65536) true)) xd)

/-- `qctl` QRESUME (R344). -/
def execQresume (xd xs1 xs2 : XReg) (s : State) : Out :=
  .next (control s 4 xd.val xs1.val xs2.val 3 [xs1]
    (fun s => code (qpauseOp s s.hart.id.dev ((s.x xs1).toNat % 65536) false)) xd)

/-- `qctl` QAPPEND (R344). -/
def execQappend (xd xs1 xs2 : XReg) (s : State) : Out :=
  .next (control s 4 xd.val xs1.val xs2.val 4 [xs1, xs2]
    (fun s => code (qctlAppendOp s s.hart.id.dev ((s.x xs1).toNat % 65536) (s.x xs2).toNat)) xd)

/-- `scrub` (R199). -/
def execScrub (xd xs1 xs2 : XReg) (s : State) : Out :=
  .next (control s 5 xd.val xs1.val xs2.val 0 [xs1, xs2]
    (fun s => code (scrubOp s s.hart.id.dev (s.x xs1).toNat (s.x xs2).toNat)) xd)

end Sys2Proof.Machine
end

