-- ==== Sys2Proof/Machine/Array.lean ====
section
/-! DEFINITION. Array mode: mode changes and drains, tiles, weight-stationary and result-stationary products, chains,
and the residue checks (R251 to R269, R454 to R457). -/

namespace Sys2Proof.Machine

/-! ### Shape and checks (R251, R252, R269) -/

/-- The codes of MODE.ST. -/
def stVECTOR : BitVec 3 := 0
def stENTERING : BitVec 3 := 1
def stWS : BitVec 3 := 2
def stRS : BitVec 3 := 3
def stDRAINING : BitVec 3 := 4

/-- PK of an element width (R251). -/
def packOf (n : Nat) : Option (BitVec 2) :=
  match n with
  | 16 => some 0
  | 8 => some 1
  | 4 => some 2
  | _ => none

/-- The packing p in force. -/
def packing (h : Hart) : Nat := 2 ^ h.vc.ashape.pk.toNat

/-- N, the columns of the array. -/
def cols (h : Hart) : Nat := h.vc.ashape.cols.toNat

/-- The array-state trap (R252). -/
def ckState (h : Hart) (ok : Bool) : Check := if ok then none else some (0x0012, BitVec.ofNat 64 (modeWord h.vc.mode))

/-- The chain trap with its reason (R266). -/
def ckChain (bad : Bool) (reason : Nat) : Check := if bad then some (0x0013, BitVec.ofNat 64 reason) else none

/-- The hart is draining, whatever for. -/
def draining (h : Hart) : Bool := h.vc.mode.st == stDRAINING

def setMode (h : Hart) (f : ModeReg → ModeReg) : Hart := { h with vc := { h.vc with mode := f h.vc.mode } }

/-- Makes the checks of a SOLO array form, then runs it. -/
def checked (c : Check) (s : State) (k : State → State) : State :=
  match c with
  | some (code, v) => raiseCheck s code v
  | none => k s

/-! ### Mode changes (R252, R253) -/

/-- `amode` into a state: the ENTERING state holds its target in DTGT, and ends by `modeEnterDone`. -/
def amodeOp (st : BitVec 3) (fa : FEnt) (s : State) : State :=
  let h := s.hart
  let pk := if fmtValid (entry h fa) then packOf (fmt h fa).n else none
  let same := h.vc.mode.st == st && (match pk with | some p => p == h.vc.ashape.pk | none => true)
  checked (firstFail [ckState h (h.vc.mode.st == stVECTOR || same), ckFmt h fa, ckAllow fa pk.isSome]) s fun s =>
    if h.vc.mode.st = st then retireSolo s s
    else s.onHart (fun h =>
      { h with vc := { h.vc with mode := { st := stENTERING, dtgt := st, drow := 0, chn := false },
                                 ashape := { rows := 64, cols := BitVec.ofNat 8 (2 * h.lanes), pk := pk.getD 0,
                                             cpos := 0, clen := 0 } },
               arr := { h.arr with since := some s.cycle } })

/-- `amode.ws` (R252). -/
def execAmodeWs (fa : FEnt) (s : State) : Out := .next (amodeOp stWS fa s)

/-- `amode.rs` (R252). -/
def execAmodeRs (fa : FEnt) (s : State) : Out := .next (amodeOp stRS fa s)

/-- `vmode` (R252). -/
def vmodeOp (s : State) : State :=
  let h := s.hart; let m := h.vc.mode
  let resume := m.st == stDRAINING && m.dtgt == stVECTOR
  checked (firstFail [ckState h (m.st != stDRAINING || resume), ckChain m.chn 8]) s fun s =>
    if m.st = stVECTOR then retireSolo s s
    else
      let row := if resume then m.drow else 0
      s.onHart (fun h => { setMode h (fun m => { m with st := stDRAINING, dtgt := stVECTOR, drow := row }) with
        arr := { h.arr with since := some (s.cycle - row.toNat), drain := none } })

/-- `vmode` (R252). -/
def execVmode (s : State) : Out := .next (vmodeOp s)

/-- ENTERING ends 16 cycles after it began (R252). -/
def modeEnterDoneOp (s : State) : State :=
  let h := s.hart
  match h.arr.since with
  | some t =>
    if h.vc.mode.st = stENTERING ∧ t + 16 ≤ s.cycle then
      let s1 := s.onHart (fun h => { setMode h (fun m => { m with st := m.dtgt, dtgt := 0 }) with arr := { h.arr with since := none } })
      retireSolo s s1
    else s
  | none => s

/-- MODE_ENTER_DONE (R252). -/
def execModeEnterDone (h : Nat) (s : State) : Out := .next (withHart s h modeEnterDoneOp)

/-! ### Tile registers (R256, R257, R456) -/

def wreg (h : Hart) (t : Nat) : VBits := h.vf.w.toArray.getD t 0
def wpois (h : Hart) (t : Nat) : VBits := h.vf.pw.toArray.getD t 0
def wflag (h : Hart) (t : Nat) : VBits := h.vf.fw.toArray.getD t 0
def latch (h : Hart) (t : Nat) : BitVec 32 := h.vf.td.toArray.getD t 0

/-- Writes a tile register whole, with its poison and residue flags. -/
def setTile (h : Hart) (t : TReg) (v p f : VBits) : Hart :=
  { h with vf := { h.vf with w := h.vf.w.set t.val v, pw := h.vf.pw.set t.val p, fw := h.vf.fw.set t.val f } }

def setLatch (h : Hart) (t : Nat) (d : BitVec 32) : Hart := { h with vf := { h.vf with td := h.vf.td.setIfInBounds t d } }

/-- The block pairings of R257. -/
def pairing (f : Fmt) : Bool := (f.n == 8 && f.blk == 1) || (f.n == 4 && f.blk == 2)

/-- Records an uncorrected residue mismatch and fences the core (R455 to R457). -/
def residueFail (s : State) : State :=
  let h := s.hart
  let s1 := event s h.src 0x0602 0 (some h.id.ctx) (some h.id.flat) none [] true
  let s2 := event s1 h.src 0x0603 2 none none none []
  if (findCore s h.id.die h.id.core).fenced then s2 else fenceCore s2 h.id.die h.id.core true 0x0603

/-- `wld` moves the elements from `lo` on: all of them, whole, from element 0 (R257). The latch takes FA's descriptor. -/
def loadTile (wt : TReg) (vs1 : VReg) (fa : FEnt) (lo : Nat) (h : Hart) : Hart :=
  let k := lo * (fmt h fa).n
  let mix := fun (new old : VBits) => if k = 0 then new else (new >>> k) <<< k ||| (old <<< (65536 - k)) >>> (65536 - k)
  setLatch (setTile h wt (mix (vreg h vs1.val) (wreg h wt.val)) (mix (vpoisReg h vs1.val) (wpois h wt.val))
    (mix 0 (wflag h wt.val))) wt.val (entry h fa)

/-- `wld` (R257) in a convoy of several members: whole in the run that holds element 0, and its later elements again in a
run that resumes at one, since an earlier member may have made them meanwhile. DEDUCED (log 93). -/
def wldMember (wt : TReg) (vs1 : VReg) (fa : FEnt) : Member :=
  { check := fun s =>
      let h := s.hart; let f := fmt h fa
      firstFail [ckState h (!draining h), ckVl h [fa], ckFmt h fa,
        ckAllow fa ((packOf f.n).isSome && (f.blk == 0 || pairing f))],
    run := fun _ lo hi s => (if lo < hi then s.onHart (loadTile wt vs1 fa lo) else s, none),
    fin := fun _ s => s.onHart (fun h => endWork (if vlOf h = 0 then loadTile wt vs1 fa 0 h else h)),
    draws := fun _ => false, pe := true, move := true }

/-- `wst` writes its register whole (R257); a flagged accumulator among the bits fails the residue check (R456). -/
def storeTile (vd : VReg) (wt : TReg) (s : State) : State :=
  let h := s.hart; let fl := wflag h wt.val
  let s1 := s.onHart (fun h =>
    { h with vf := { h.vf with v := h.vf.v.set vd.val (wreg h wt.val), pv := h.vf.pv.set vd.val (wpois h wt.val ||| fl) } })
  if fl = 0 then s1 else residueFail s1

/-- `wst` (R257, R456) in a convoy of several members: the register is written whole in the run that holds element 0, so a
convoy resumed at a later element does not write it again. DEDUCED (log 93). -/
def wstMember (vd : VReg) (wt : TReg) : Member :=
  { check := fun s => let h := s.hart; firstFail [ckState h (!draining h), ckVl h [⟨0, by omega⟩]],
    run := fun _ lo hi s => (if lo = 0 ∧ 0 < hi then storeTile vd wt s else s, none),
    fin := fun _ s => (if vlOf s.hart = 0 then storeTile vd wt s else s).onHart endWork,
    draws := fun _ => false, pe := true, move := true }

/-- `wld` (R257), which alone takes no account of VL and VES. -/
def execWld (wt : TReg) (vs1 : VReg) (fa : FEnt) (s : State) : Out :=
  .next (soloConvoy { wldMember wt vs1 fa with run := fun _ _ _ s => (s, none),
                                               fin := fun _ s => s.onHart (fun h => endWork (loadTile wt vs1 fa 0 h)) } s)

/-- `wst` (R257), which alone takes no account of VL and VES. -/
def execWst (vd : VReg) (wt : TReg) (s : State) : Out :=
  .next (soloConvoy { wstMember vd wt with run := fun _ _ _ s => (s, none),
                                           fin := fun _ s => (storeTile vd wt s).onHart endWork } s)

/-! ### Operand entries (R258) -/

/-- Accumulation is integer when both entries are integers without block scaling (R103, R258 item 3). DEDUCED (log 94). -/
def intKind (a b : Fmt) : Bool := a.isInt && b.isInt && a.blk == 0 && b.blk == 0

/-- The accumulator entry fits the kind (R258, item 3). -/
def accFmt (int : Bool) (f : Fmt) : Bool :=
  if int then f.isInt && f.n == 32
  else f.s == 1 && f.ew == 8 && f.fw == 23 && f.bias == 127 && f.spv == 0 && f.blk == 0

/-- The width of a streamed entry fits the packing. -/
def ckWidth (h : Hart) (k : FEnt) : Check := firstFail [ckFmt h k, ckAllow k ((fmt h k).n * packing h == 16)]

/-- The latch of a tile is at fault (R258). -/
def ckLatch (bad disallowed : Bool) : Check :=
  if bad then some (0x0004, BitVec.ofNat 64 (15 + 16 * b2n disallowed)) else none

/-! ### Group sums (R102, R103) -/

/-- One rounding of P + G into the FP32 layout. -/
def accumF (p : Nat) (g : WVal) : Nat × Flags :=
  match (addW false (fdecode fp32 p) g).1 with
  | .nan _ => (canonNan fp32, fINVALID)
  | w => fencode fp32 w 0 0

/-- The exact sum of products. -/
def sumProducts (l : List (WVal × WVal)) : WVal := l.foldl (fun a p => (addW false a (mulW p.1 p.2).1).1) (.zero false)

/-- The exact integer sum of products. -/
def sumInts (l : List (WVal × WVal)) : Int := l.foldl (fun a p => a + wInt p.1 * wInt p.2) 0

/-- A partial: a code of 32 bits of its kind, and the classes raised so far. -/
abbrev Partial := Nat × Flags

/-- Adds one group to a partial. -/
def accum (int : Bool) (p : Partial) (l : List (WVal × WVal)) : Partial :=
  if int then (intCode 32 (Int.ofNat p.1 + sumInts l), p.2)
  else
    let r := accumF p.1 (sumProducts l)
    (r.1, p.2 ||| r.2)

/-! ### Weight-stationary products (R259 to R262) -/

/-- The forms of major 0x82: sliding or not, and starting from VD or from zero. -/
structure RowForm where
  vd : VReg
  vs1 : VReg
  wt : TReg
  sc : Option RowScale
  fa : FEnt
  fc : FEnt
  msk : MReg
  slide : Bool
  acc : Bool
  deriving DecidableEq, Repr

/-- K for the packing in force. -/
def kOf (h : Hart) : Nat := 64 * packing h

/-- The latched format of the form's tile. -/
def RowForm.lat (m : RowForm) (h : Hart) : Fmt := parseFmt (latch h m.wt.val)

def RowForm.int (m : RowForm) (h : Hart) : Bool := intKind (fmt h m.fa) (m.lat h)

/-- NR (R260). -/
def RowForm.nr (m : RowForm) (h : Hart) : Nat :=
  if m.slide then vlOf h + 1 - kOf h else vlOf h / kOf h

/-- The index of the stream element of row r, position k (R259). -/
def RowForm.xidx (m : RowForm) (h : Hart) (r k : Nat) : Nat := if m.slide then r + k else r * kOf h + k

/-- A group holds a register. -/
def holds (h : Hart) (v r : Nat) : Bool := decide (v ≤ r) && decide (r < v + grp h)

/-- The issue checks (R269). -/
def RowForm.check (m : RowForm) (s : State) : Check :=
  let h := s.hart; let fa := fmt h m.fa; let la := m.lat h
  let sc := m.sc.isSome
  firstFail [ckState h (h.vc.mode.st == stWS), ckVl h [m.fa, m.fc],
    ckWidth h m.fa, ckLatch (!fmtValid (latch h m.wt.val)) false, ckAllow m.fa (la.n == fa.n),
    ckAllow m.fa (fa.blk == 0 || (sc && pairing fa)), ckLatch (!(la.blk == 0 || (sc && pairing la))) true,
    ckFmt h m.fc, ckAllow m.fc (accFmt (m.int h) (fmt h m.fc)),
    ckGroup h m.vd.val 8, ckGroup h m.vs1.val 14,
    ckBit (overlaps h m.vd.val 1 m.vs1.val 1
      || (match m.sc with | some q => holds h m.vd.val q.stream.val || holds h m.vd.val q.stat.val | none => false)) 8,
    if !m.slide && vlOf h % kOf h != 0 then some (0x0003, BitVec.ofNat 64 (vlOf h)) else none,
    if m.slide && decide (capN h (fmt h m.fc).n < m.nr h * cols h) then some (0x0003, BitVec.ofNat 64 (vlOf h)) else none,
    ckChain (h.vc.mode.chn && (m.slide || (m.acc && h.vc.ashape.cpos != 0))) 6]

/-- Stream element x with its scale (R259): its value and its poison. -/
def RowForm.stream (m : RowForm) (h : Hart) (x : Nat) : WVal × Bool :=
  let f := fmt h m.fa; let c := elem h m.vs1.val x f.n; let p := elemPois h m.vs1.val x f.n
  match m.sc with
  | some q =>
    if f.blk = 0 then (fdecode f c, p)
    else
      let b := scaleByte h f m.vs1.val x * 8
      (scaledVal f (getBits (vreg h q.stream.val) b 8) c, p || getBits (vpoisReg h q.stream.val) b 8 != 0)
  | none => (fdecode f c, p)

/-- The stationary value of row k, column c, with its scale. -/
def RowForm.stat (m : RowForm) (h : Hart) (k c : Nat) : WVal × Bool :=
  let f := m.lat h; let at_ := (k * cols h + c) * f.n
  let code := getBits (wreg h m.wt.val) at_ f.n; let p := getBits (wpois h m.wt.val) at_ f.n != 0
  match m.sc with
  | some q =>
    if f.blk = 0 then (fdecode f code, p)
    else
      let b := (k / f.blkLen * cols h + c) * 8
      (scaledVal f (getBits (vreg h q.stat.val) b 8) code, p || getBits (vpoisReg h q.stat.val) b 8 != 0)
  | none => (fdecode f code, p)

/-- The starting partial of row r, column c (R259, R267), and its poison: a code of FC's layout, taken as it is held, since
FC's OVF and SUB are not consulted (R258). -/
def RowForm.start (m : RowForm) (s : State) (r c : Nat) : Nat × Bool :=
  let h := s.hart; let i := r * cols h + c
  if m.acc then
    (elem h m.vd.val i 32, elemPois h m.vd.val i 32)
  else if h.vc.mode.chn ∧ h.vc.ashape.cpos ≠ 0 then
    match h.arr.peers[h.vc.ashape.cpos.toNat - 1]?.bind (findHart s) with
    | some u => match u.arr.prod with
      | some (vd, _) => (elem u vd.val i 32, elemPois u vd.val i 32)
      | none => (0, false)
    | none => (0, false)
  else (0, false)

/-- The output of row r, column c: eight groups, of the operands that hart `h` holds. -/
def RowForm.dot (m : RowForm) (h : Hart) (s : State) (r c : Nat) : Partial × Bool :=
  let p := packing h; let g := 8 * p
  let s0 := m.start s r c
  let ops := (List.range (kOf h)).map (fun k => (m.stream h (m.xidx h r k), m.stat h k c))
  let pz := s0.2 || ops.any (fun o => o.1.2 || o.2.2)
  let q := forN 8 (s0.1, (0 : Flags)) (fun j a =>
    accum (m.int h) a (((ops.drop (g * j)).take g).map (fun o => (o.1.1, o.2.1))))
  (q, pz)

/-- Writes one result row from the stream, the mask and the tile of hart `q`, with the residue check of R455. -/
def RowForm.row (m : RowForm) (q : Hart) (r : Nat) (s : State) : State :=
  let h := s.hart; let n := cols h
  let pm := mpois q m.msk r
  if mbit q m.msk r then
    let outs := (List.range n).map (fun c => m.dot q s r c)
    let errs := h.soft.filter (fun e => e.row == r && decide (e.col < n))
    let s1 := s.onHart (fun h =>
      let h1 := forN n h (fun c x =>
        let o := outs.getD c ((0, 0), false)
        let bad := errs.any (fun e => e.col == c && e.again)
        accrue (setElem x m.vd.val (r * n + c) 32 o.1.1 (o.2 || pm || bad)) o.1.2)
      { h1 with soft := h1.soft.filter (fun e => !(e.row == r && decide (e.col < n))) })
    if errs.isEmpty then s1
    else if errs.any (·.again) then residueFail s1
    else event s1 h.src 0x0601 0 (some h.id.ctx) (some h.id.flat) none []
  else s.onHart (fun h => forN n h (fun c x =>
    let y := if maskZero h then setElem x m.vd.val (r * n + c) 32 0 else x
    if pm then poisonElem y m.vd.val (r * n + c) 32 else y))

/-- Rows lo to hi − 1, and the tail once the last is written (R260). -/
def RowForm.rows (m : RowForm) (lo hi : Nat) (src s : State) : State :=
  let s1 := forRange lo hi s (m.row src.hart)
  if lo < hi ∧ hi = m.nr s.hart then
    s1.onHart (fun h => tailGroup h m.vd.val (m.nr h * cols h) 32)
  else s1

/-! ### Chained products (R266 to R268) -/

/-- The other harts of the chain. -/
def chainHarts (s : State) : List Hart := s.hart.arr.peers.filterMap (findHart s)

/-- Every hart of the chain takes the chain trap, this one included, and no product is left posted (R266). -/
def chainTrap (uids : List Nat) (reason : Nat) (s : State) : State :=
  uids.foldl (fun st u => withHart st u (fun st =>
    (takeTrap st 0x0013 (BitVec.ofNat 64 reason)).onHart (fun h =>
      { endWork h with arr := { h.arr with chain := none, prod := none, began := none, entered := [] },
                       st := { h.st with asleep := none } }))) s

/-- A chained product begins when every hart of the chain has posted the same one (R267). -/
def RowForm.post (m : RowForm) (s : State) : GateRes :=
  let h := s.hart; let nr := m.nr h
  if !h.vc.mode.chn then .go s nr
  else
    let mine := (m.vd, m.fc, nr, packing h, m.int h)
    let s1 := match h.arr.prod with
      | some _ => s
      | none => s.onHart (fun h => { h with arr := { h.arr with prod := some mine } })
    let no := h.arr.prodNo
    let ps := chainHarts s1
    if ps.any (fun p => decide (p.arr.prodNo < no) || (p.arr.prodNo == no && p.arr.prod.isNone)) then .wait s1
    else if ps.any (fun p => p.arr.prodNo == no && (match p.arr.prod with
        | some q => q.2.2 != mine.2.2 | none => false)) then
      .trap (chainTrap ((ps.filter (fun p => p.arr.prod.isSome)).map (·.id.uid)) 5 s1)
    else .go s1 nr

/-- The cycle in which a hart has written row r of the product it runs, once the row has entered: 63 + N cycles after its
entry (R262). A row below the VES it began at is written. -/
def rowWritten (u : Hart) (r : Nat) : Option Nat :=
  match u.arr.began with
  | none => none
  | some (_, r0) => if r < r0 then some 0 else u.arr.entered[r - r0]?.map (· + 63 + cols u)

/-- The boundary delay between two neighbours of a chain (R268). -/
def hopDelay (a b : Hart) : Nat := if a.id.die = b.id.die then 2 else 12

/-- The first cycle in which row r may enter for the harts west of this one (R268); none while the row is not written. -/
def RowForm.ready (s : State) (now r : Nat) : Option Nat :=
  let h := s.hart
  if !h.vc.mode.chn || h.vc.ashape.cpos == 0 then some 0
  else match (chainHarts s)[h.vc.ashape.cpos.toNat - 1]? with
    | none => none
    | some u => match rowWritten u r with
      | none => none
      | some t => if now < t then none else some (t + 1 + hopDelay u h)

/-- The cycles up to `now` in which rows enter, `k` of them at most, from row `r` on and not before cycle `t`: one row a cycle
(R262). -/
def enterRows (now : Nat) (ready : Nat → Option Nat) : Nat → Nat → Nat → List Nat
  | 0, _, _ => []
  | k + 1, r, t => match ready r with
    | none => []
    | some u => if now < max t u then [] else max t u :: enterRows now ready k (r + 1) (max t u + 1)

/-- The rows that have entered by a cycle are noted, and those that have been in the array for 63 + N cycles can be written
(R262). The first call is in cycle c0. -/
def RowForm.gate (m : RowForm) (now : Nat) (s : State) : GateRes :=
  match m.post s with
  | .go s1 nr =>
    let h := s1.hart; let d := 63 + cols h
    let (c0, r0) := h.arr.began.getD (s.cycle, min h.vc.ves.toNat nr)
    let old := h.arr.entered
    let t := match old.getLast? with | some e => e + 1 | none => c0
    let ent := old ++ enterRows now (RowForm.ready s1 now) (nr - r0 - old.length) (r0 + old.length) t
    let s2 := s1.onHart (fun h => { h with arr := { h.arr with began := some (c0, r0), entered := ent } })
    let busy := match ent.getLast? with | some e => e + d - s.cycle | none => 0
    .go (peWork s2 busy) (r0 + (ent.filter (fun e => decide (e + d ≤ now))).length)
  | r => r

/-- The end of a product: in a chain, an upstream core waits until the downstream one has read its rows (R268). -/
def RowForm.leave (m : RowForm) (s : State) : ConvoyRes :=
  let h := s.hart; let nr := m.nr h
  if !h.vc.mode.chn then .complete (s.onHart endWork)
  else
    let pos := h.vc.ashape.cpos.toNat
    let read := match (chainHarts s)[pos + 1]? with
      | some d => decide (h.arr.prodNo < d.arr.prodNo) || (match d.arr.began with
        | some (_, r0) => decide (nr ≤ r0 + d.arr.entered.length)
        | none => false)
      | none => true
    if read then
      .complete (s.onHart (fun h => { h with arr := { h.arr with prod := none, began := none, entered := [],
                                                                 prodNo := h.arr.prodNo + 1 } }))
    else .wait (stopAt s h.vc.rseed nr (vlOf h))

/-- A weight-stationary member. -/
def rowMember (m : RowForm) : Member :=
  { check := m.check, run := fun _ _ _ s => (s, none), fin := fun _ s => s, draws := fun _ => false, pe := true,
    arr := some {
      total := m.nr,
      start := fun h v => if m.slide then v else v * kOf h,
      below := fun h v e => max v (if m.slide then e + 1 - kOf h else e / kOf h),
      rows := m.rows, gate := m.gate, timed := true, leave := m.leave } }

def mrowMember (vd vs1 : VReg) (wt : TReg) (sc : Option RowScale) (fa fc : FEnt) (mk : MReg) : Member :=
  rowMember { vd, vs1, wt, sc, fa, fc, msk := mk, slide := false, acc := false }

def mrowAccMember (vd vs1 : VReg) (wt : TReg) (sc : Option RowScale) (fa fc : FEnt) (mk : MReg) : Member :=
  rowMember { vd, vs1, wt, sc, fa, fc, msk := mk, slide := false, acc := true }

def mslideMember (vd vs1 : VReg) (wt : TReg) (fa fc : FEnt) (mk : MReg) : Member :=
  rowMember { vd, vs1, wt, sc := none, fa, fc, msk := mk, slide := true, acc := false }

def mslideAccMember (vd vs1 : VReg) (wt : TReg) (fa fc : FEnt) (mk : MReg) : Member :=
  rowMember { vd, vs1, wt, sc := none, fa, fc, msk := mk, slide := true, acc := true }

/-- `mrow` (R260). -/
def execMrow (vd vs1 : VReg) (wt : TReg) (sc : Option RowScale) (fa fc : FEnt) (mk : MReg) (s : State) : Out :=
  .next (soloConvoy (mrowMember vd vs1 wt sc fa fc mk) s)

/-- `mrow.acc` (R260). -/
def execMrowAcc (vd vs1 : VReg) (wt : TReg) (sc : Option RowScale) (fa fc : FEnt) (mk : MReg) (s : State) : Out :=
  .next (soloConvoy (mrowAccMember vd vs1 wt sc fa fc mk) s)

/-- `mslide` (R260). -/
def execMslide (vd vs1 : VReg) (wt : TReg) (fa fc : FEnt) (mk : MReg) (s : State) : Out :=
  .next (soloConvoy (mslideMember vd vs1 wt fa fc mk) s)

/-- `mslide.acc` (R260). -/
def execMslideAcc (vd vs1 : VReg) (wt : TReg) (fa fc : FEnt) (mk : MReg) (s : State) : Out :=
  .next (soloConvoy (mslideAccMember vd vs1 wt fa fc mk) s)

/-! ### Result-stationary accumulation (R263) -/

/-- The register and bit of accumulator index i of a pair. -/
def accPlace (h : Hart) (pair i : Nat) : Nat × Nat :=
  let per := h.vlen / 32
  (pair + i / per, i % per * 32)

/-- Reads accumulator i: code, poison, flag. -/
def readAcc (h : Hart) (pair i : Nat) : Nat × Bool × Bool :=
  let (t, b) := accPlace h pair i
  (getBits (wreg h t) b 32, getBits (wpois h t) b 32 != 0, getBits (wflag h t) b 32 != 0)

/-- Writes accumulator i with its marks. -/
def writeAcc (h : Hart) (pair i c : Nat) (p f : Bool) : Hart :=
  let (t, b) := accPlace h pair i
  let ones := fun (q : Bool) => if q then 2 ^ 32 - 1 else 0
  { h with vf := { h.vf with w := h.vf.w.setIfInBounds t (putBits (wreg h t) b 32 c),
                             pw := h.vf.pw.setIfInBounds t (putBits (wpois h t) b 32 (ones p)),
                             fw := h.vf.fw.setIfInBounds t (putBits (wflag h t) b 32 (ones f)) } }

/-- The pair that WT names. -/
def pairOf (wt : TReg) : Nat := wt.val / 2 * 2

/-- The forms of major 0x83. -/
structure MaccForm where
  wt : TReg
  vs1 : VReg
  vs2 : VReg
  fa : FEnt
  fb : FEnt
  msk : MReg
  zero : Bool
  deriving DecidableEq, Repr

def MaccForm.check (m : MaccForm) (s : State) : Check :=
  let h := s.hart
  firstFail [ckState h (h.vc.mode.st == stRS), ckVl h [m.fa, m.fb], ckWidth h m.fa, ckWidth h m.fb,
    ckNoBlk h m.fa, ckNoBlk h m.fb, ckGroup h m.vs1.val 14, ckGroup h m.vs2.val 20, ckBit (m.wt.val % 2 == 1) 26,
    if vlOf h % 64 ≠ 0 then some (0x0003, BitVec.ofNat 64 (vlOf h)) else none]

/-- Adds the group of steps t0 to t1 − 1 of hart `h0`'s operands to every accumulator. -/
def MaccForm.group (m : MaccForm) (h0 : Hart) (t0 t1 : Nat) (h1 : Hart) : Hart :=
  let n := cols h0; let int := intKind (fmt h0 m.fa) (fmt h0 m.fb); let pair := pairOf m.wt
  let ts := (List.range' t0 (t1 - t0)).filter (fun t => mbit h0 m.msk t)
  let pm := (List.range' t0 (t1 - t0)).any (fun t => mpois h0 m.msk t)
  forN 64 h1 (fun a h => forN n h (fun c h =>
    let i := a * n + c
    let old := readAcc h pair i
    let ps := ts.map (fun t => (opnd h0 m.vs1.val m.fa (t * 64 + a), opnd h0 m.vs2.val m.fb (t * n + c)))
    let pz := ts.any (fun t => elemPois h0 m.vs1.val (t * 64 + a) (fmt h0 m.fa).n
      || elemPois h0 m.vs2.val (t * n + c) (fmt h0 m.fb).n)
    let r := accum int (old.1, 0) ps
    let err := h1.soft.any (fun e => e.row == a && e.col == c)
    accrue (writeAcc h pair i r.1 (old.2.1 || pz || pm) (old.2.2 || err)) r.2))

/-- The steps from t0, in groups of g (R102, R263). -/
def MaccForm.groups (m : MaccForm) (q : Hart) (g t1 : Nat) : Nat → Nat → Hart → Hart
  | 0, _, h => h
  | k + 1, t0, h =>
    if t1 ≤ t0 then h
    else MaccForm.groups m q g t1 k (t0 + g) { m.group q t0 (min (t0 + g) t1) h with soft := [] }

/-- The steps lo to hi − 1. -/
def MaccForm.steps (m : MaccForm) (lo hi : Nat) (src s : State) : State :=
  let g := 8 * packing s.hart
  if lo = hi ∧ hi < vlOf s.hart / 64 then s
  else (peWork s (64 + hi - lo)).onHart (fun h =>
    let pair := pairOf m.wt
    let z := if m.zero && lo == 0 then forN 2 h (fun j h =>
        { h with vf := { h.vf with w := h.vf.w.setIfInBounds (pair + j) 0, pw := h.vf.pw.setIfInBounds (pair + j) 0,
                                   fw := h.vf.fw.setIfInBounds (pair + j) 0 } }) else h
    let d : BitVec 32 := if intKind (fmt h m.fa) (fmt h m.fb) then 0x00A003E1 else 0x1043FAF1
    m.groups src.hart g hi (hi - lo) lo (setLatch (setLatch z pair d) (pair + 1) d))

/-- A result-stationary member. -/
def maccForm (m : MaccForm) : Member :=
  { check := m.check, run := fun _ _ _ s => (s, none), fin := fun _ s => s, draws := fun _ => false, pe := true,
    arr := some {
      total := fun h => vlOf h / 64,
      start := fun _ v => 64 * v,
      below := fun h v e => let g := 8 * packing h; v + (e / 64 - v) / g * g,
      rows := m.steps, gate := fun _ s => .go s (vlOf s.hart / 64), timed := false, leave := .complete } }

def maccMember (wt : TReg) (vs1 vs2 : VReg) (fa fb : FEnt) (mk : MReg) : Member :=
  maccForm { wt, vs1, vs2, fa, fb, msk := mk, zero := false }

/-- DEDUCED (log 34). -/
def macczMember (wt : TReg) (vs1 vs2 : VReg) (fa fb : FEnt) (mk : MReg) : Member :=
  maccForm { wt, vs1, vs2, fa, fb, msk := mk, zero := true }

/-- `macc` (R263). -/
def execMacc (wt : TReg) (vs1 vs2 : VReg) (fa fb : FEnt) (mk : MReg) (s : State) : Out :=
  .next (soloConvoy (maccMember wt vs1 vs2 fa fb mk) s)

/-- `maccz` (R263). -/
def execMaccz (wt : TReg) (vs1 vs2 : VReg) (fa fb : FEnt) (mk : MReg) (s : State) : Out :=
  .next (soloConvoy (macczMember wt vs1 vs2 fa fb mk) s)

/-! ### The drain (R252, R263, R456) -/

/-- The latch of a pair's register is an accumulation descriptor. -/
def accLatch (d : BitVec 32) : Bool := d == 0x1043FAF1 || d == 0x00A003E1

/-- Drains row m of a pair into a group, and clears it. -/
def drainRow (vd : VReg) (wt : TReg) (fc : FEnt) (m : Nat) (h0 : Hart) : Hart :=
  let n := cols h0; let pair := pairOf wt
  forN n h0 (fun c h =>
    let i := m * n + c
    let a := readAcc h pair i
    let r := fencode (fmt h fc) (fdecode (parseFmt (latch h (accPlace h pair i).1)) a.1) 0 0
    accrue (writeAcc (setElem h vd.val i (fmt h fc).n r.1 (a.2.1 || a.2.2)) pair i 0 false false) r.2)

/-- A drain has moved on to row `row1`: the rows of an `mdrain` are written. A flagged accumulator among them is
recorded once per drain (R456). -/
def drainTo (s : State) (row1 : Nat) : State :=
  let m := s.hart.vc.mode
  let rows := fun h => setMode h (fun m => { m with drow := BitVec.ofNat 7 row1 })
  match s.hart.arr.drain with
  | none => s.onHart rows
  | some (vd, wt, fc) =>
    let pair := pairOf wt; let n := cols s.hart
    let bad := (List.range' (m.drow.toNat * n) ((row1 - m.drow.toNat) * n)).any (fun i => (readAcc s.hart pair i).2.2)
    let s1 := (peWork s 1).onHart (fun h => rows (forRange m.drow.toNat row1 h (fun r h => drainRow vd wt fc r h)))
    if bad then residueFail s1 else s1

/-- The rows a drain under way has reached. DEDUCED (log 11). -/
def drainProgress (s : State) : State :=
  match s.hart.vc.mode.st == stDRAINING, s.hart.arr.since with
  | true, some t => drainTo s (max s.hart.vc.mode.drow.toNat (min 64 (s.cycle - t)))
  | _, _ => s

/-- ARRAY_DRAIN_DONE: at row 64 MODE.ST becomes DTGT, and the draining instruction retires (R252). -/
def arrayDrainDoneOp (s : State) : State :=
  let s1 := drainProgress s
  let h := s1.hart
  if h.vc.mode.st = stDRAINING ∧ h.arr.since.isSome = true ∧ h.vc.mode.drow = 64 then
    let s2 := s1.onHart (fun h =>
      let h1 := setMode h (fun m => { m with st := m.dtgt, dtgt := 0, drow := 0 })
      let h2 := if h.vc.mode.dtgt = stVECTOR then
        { h1 with vc := { h1.vc with ashape := { rows := 0, cols := 0, pk := 0, cpos := 0, clen := 0 } } } else h1
      { h2 with arr := { h2.arr with since := none, drain := none } })
    retireSolo s s2
  else s1

/-- ARRAY_DRAIN_DONE (R252). -/
def execArrayDrainDone (h : Nat) (s : State) : Out := .next (withHart s h arrayDrainDoneOp)

/-- `mdrain` (R263). -/
def mdrainOp (vd : VReg) (wt : TReg) (fc : FEnt) (s : State) : State :=
  let h := s.hart; let m := h.vc.mode; let pair := pairOf wt
  let resume := m.st == stDRAINING && m.dtgt == stRS
  checked (firstFail [ckState h (m.st == stRS || resume), ckVl h [fc], ckFmt h fc, ckNoBlk h fc,
      ckLatch (!(accLatch (latch h pair) && accLatch (latch h (pair + 1)))) true, ckGroup h vd.val 8,
      ckBit (wt.val % 2 == 1) 26,
      if capN h (fmt h fc).n < 64 * cols h then some (0x0003, h.vc.vtype) else none]) s fun s =>
    if granted s then
      let row := if resume then m.drow else 0
      (peWork s (64 - row.toNat)).onHart (fun h => { setMode h (fun m => { m with st := stDRAINING, dtgt := stRS, drow := row }) with
        arr := { h.arr with since := some (s.cycle - row.toNat), drain := some (vd, wt, fc) } })
    else requestRows s

/-- `mdrain` (R263). -/
def execMdrain (vd : VReg) (wt : TReg) (fc : FEnt) (s : State) : Out := .next (mdrainOp vd wt fc s)

/-! ### Chains (R264 to R266) -/

/-- The core east of a core (R264). -/
def eastOf (s : State) (die core : Nat) : Option (Nat × Nat) :=
  if core % 8 < 7 then some (die, core + 1)
  else if die % 8 < 7 ∧ dieLive s.pkg (die + 1) = true ∧ devOfDie s.pkg (die + 1) = devOfDie s.pkg die then
    some (die + 1, core - 7)
  else none

/-- The core west of a core. -/
def westOf (s : State) (die core : Nat) : Option (Nat × Nat) :=
  if 0 < core % 8 then some (die, core - 1)
  else if 0 < die % 8 ∧ dieLive s.pkg (die - 1) = true ∧ devOfDie s.pkg (die - 1) = devOfDie s.pkg die then
    some (die - 1, core + 7)
  else none

/-- Steps k cores in a direction. -/
def stepCores (f : Nat → Nat → Option (Nat × Nat)) : Nat → Nat × Nat → Option (Nat × Nat)
  | 0, c => some c
  | k + 1, c => (f c.1 c.2).bind (stepCores f k)

/-- The cores of a chain of `len` cores in which a core holds position `pos`; none for one that does not exist. -/
def chainCores (s : State) (c : Nat × Nat) (len pos : Nat) : List (Option (Nat × Nat)) :=
  (List.range len).map (fun i =>
    if i < pos then stepCores (westOf s) (pos - i) c else stepCores (eastOf s) (i - pos) c)

/-- The hart of a launch on a core. -/
def hartOn (s : State) (lid : Nat) (c : Nat × Nat) : Option Hart :=
  (allHarts s).find? (fun h => h.id.die == c.1 && h.id.core == c.2 && h.id.launch == lid && !h.id.partner && h.onCore)

/-- The harts of a chain, by position. -/
def chainOf (s : State) (h : Hart) (len pos : Nat) : List (Option Hart) :=
  (chainCores s (h.id.die, h.id.core) len pos).map (fun c => c.bind (hartOn s h.id.launch))

/-- A hart has issued `achain` with this length and position. -/
def joined (h : Hart) (len pos : Nat) : Bool := h.arr.chain == some (true, len, pos)

/-- The harts that wait in an `achain` whose chain holds this hart or is held by its own. -/
def chainRivals (s : State) (h : Hart) (mine : List (Option Hart)) : List Hart :=
  (allHarts s).filter (fun p => p.id.uid != h.id.uid && (match p.arr.chain with
    | some (true, len, pos) =>
      mine.any (fun q => q.any (fun q => q.id.uid == p.id.uid))
        || (chainOf s p len pos).any (fun q => q.any (fun q => q.id.uid == h.id.uid))
    | _ => false))

/-- The lowest reason against joining a chain, with the harts that take the trap (R266). DEDUCED (log 33). -/
def chainReason (s : State) (len pos : Nat) : Option (Nat × List Nat) :=
  let h := s.hart; let me := [h.id.uid]
  if len < 2 ∨ 15 < len ∨ len ≤ pos then some (4, me)
  else
    let hs := chainOf s h len pos
    let rivals := chainRivals s h hs
    let all := me ++ rivals.map (·.id.uid)
    if hs.any (·.isNone) then some (1, all)
    else
      let ps := hs.filterMap id
      if ps.any (fun p => p.id.ginst != h.id.ginst) then some (2, all)
      else if ps.any (fun p => p.id.part != 0) || h.vc.mode.st != stWS then some (3, all)
      else if rivals.any (fun p => match p.arr.chain with
          | some (_, l, q) => l != len || (ps[q]?.map (·.id.uid)) != some p.id.uid
          | none => false) then some (4, all)
      else if h.st.red then some (7, all)
      else none

/-- `achain` (R265): checks, then the collective wait. -/
def achainOp (len pos : Nat) (s : State) : State :=
  let h := s.hart
  checked (firstFail [ckState h (!draining h), ckChain h.vc.mode.chn 8]) s fun s =>
    match chainReason s len pos with
    | some (r, us) => chainTrap us r s
    | none => asleepOn (s.onHart (fun h => { h with arr := { h.arr with chain := some (true, len, pos) } })) (.chain true len pos)

/-- `achain` (R265). -/
def execAchain (len pos : Fin 16) (s : State) : Out := .next (achainOp len.val pos.val s)

/-- `aunchain` (R265). -/
def aunchainOp (s : State) : State :=
  let h := s.hart
  checked (firstFail [ckState h (!draining h), ckChain (!h.vc.mode.chn) 8]) s fun s =>
    asleepOn (s.onHart (fun h => { h with arr := { h.arr with chain := some (false, 0, 0) } })) (.chain false 0 0)

/-- `aunchain` (R265). -/
def execAunchain (s : State) : Out := .next (aunchainOp s)

/-- The harts of the collective that a hart has issued, when every one of them has issued it. -/
def chainReady (s : State) (h : Hart) : Option (List Nat) :=
  match h.arr.chain with
  | none => none
  | some (true, len, pos) =>
    let ps := (chainOf s h len pos).zipIdx
    if ps.all (fun p => match p.1 with | some q => joined q len p.2 && q.st.asleep.isSome | none => false) then
      some (ps.filterMap (fun p => p.1.map (·.id.uid)))
    else none
  | some (false, _, _) =>
    if h.arr.peers.all (fun u => match findHart s u with
        | some q => q.arr.chain == some (false, 0, 0) && q.st.asleep.isSome
        | none => false) then some h.arr.peers
    else none

/-- One hart's part of a completed collective. -/
def chainJoin (us : List Nat) (s : State) : State :=
  match s.hart.arr.chain with
  | none => s
  | some (join, len, pos) =>
    let s1 := s.onHart (fun h =>
      { h with vc := { h.vc with mode := { h.vc.mode with chn := join },
                                 ashape := { h.vc.ashape with clen := BitVec.ofNat 4 len, cpos := BitVec.ofNat 4 pos } },
               arr := { h.arr with chain := none, peers := if join then us else [], prodNo := 0, prod := none, began := none, entered := [] } })
    retireSolo s s1

/-- CHAIN_COMPLETE: the collective completes on every core of the chain in one cycle (R265). -/
def chainCompleteOp (uid : Nat) (s : State) : State :=
  match (findHart s uid).bind (chainReady s) with
  | none => s
  | some us => us.foldl (fun st u => withHart st u (chainJoin us)) s

/-- CHAIN_COMPLETE (R265). -/
def execChainComplete (h : Nat) (s : State) : Out := .next (chainCompleteOp h s)

end Sys2Proof.Machine
end

