-- ==== Sys2Proof/Machine/Scalar.lean ====
section
/-! DEFINITION. Majors 0x01 to 0x07: scalar arithmetic, shifts, compares, multiply and divide, bit fields, immediates,
`fset`, `talloc` and `tfree` (R169 to R177, R109, R123 to R127). -/

namespace Sys2Proof.Machine

/-! ### Shared operations -/

/-- A scalar operation of two sources: its result, poisoned when a source is (R388), and retirement. -/
def aluOp (xd xs1 : XReg) (b : SrcB) (f : Word → Word → Word) (s : State) : State :=
  retire s (s.setX xd (f (s.x xs1) (opB s.hart b)) (poisX s.hart xs1 || poisB s.hart b))

/-- A scalar operation of one source. -/
def unaryOp (xd xs1 : XReg) (f : Word → Word) (s : State) : State :=
  retire s (s.setX xd (f (s.x xs1)) (poisX s.hart xs1))

/-- The result of a w form: the low 32 bits, sign-extended. -/
def wRes (v : BitVec 32) : Word := v.signExtend 64

def lo32 (v : Word) : BitVec 32 := v.setWidth 32

/-- 1 or 0. -/
def boolW (b : Bool) : Word := if b then 1 else 0

/-- The signed quotient truncated toward zero, with the cases of R174. -/
def sdivW (a b : Word) : Word := if b = 0 then BitVec.allOnes 64 else BitVec.ofInt 64 (a.toInt.tdiv b.toInt)

/-- The signed remainder with the sign of a. -/
def sremW (a b : Word) : Word := if b = 0 then a else BitVec.ofInt 64 (a.toInt.tmod b.toInt)

def udivW (a b : Word) : Word := if b = 0 then BitVec.allOnes 64 else BitVec.ofNat 64 (a.toNat / b.toNat)

def uremW (a b : Word) : Word := if b = 0 then a else BitVec.ofNat 64 (a.toNat % b.toNat)

/-- Bits [127:64] of a product of integers. -/
def hiMul (a b : Int) : Word := BitVec.ofInt 64 (a * b / 2 ^ 64)

/-- The number of leading zero bits among 64. -/
def clzW (a : Word) : Word := if a = 0 then 64 else BitVec.ofNat 64 (63 - Nat.log2 a.toNat)

/-- The number of trailing zero bits among 64. -/
def ctzW (a : Word) : Word := BitVec.ofNat 64 (lowestSet 64 a.toNat)

/-- The number of one bits. -/
def cpopW (a : Word) : Word := BitVec.ofNat 64 ((List.range 64).filter (fun i => a.getLsbD i)).length

/-- The eight bytes in reverse order. -/
def rev8W (a : Word) : Word := BitVec.ofNat 64 (leNat (natLe 8 a.toNat).reverse)

/-- l = min(len, 64 − pos) (R175). -/
def fieldLen (pos lenM1 : Fin 64) : Nat := min (lenM1.val + 1) (64 - pos.val)

/-- xd with the field replaced by the low bits of a (R175). -/
def binsW (d a : Word) (pos lenM1 : Fin 64) : Word := putBits d pos.val (fieldLen pos lenM1) a.toNat

/-! ### Major 0x01 (R171) -/

/-- `add`: a + b (R171). -/
def execAdd (xd xs1 : XReg) (b : SrcB) (s : State) : Out :=
  .next (aluOp xd xs1 b (fun a b => a + b) s)

/-- `sub`: a − b (R171). -/
def execSub (xd xs1 : XReg) (b : SrcB) (s : State) : Out :=
  .next (aluOp xd xs1 b (fun a b => a - b) s)

/-- `and`: a AND b (R171). -/
def execAnd (xd xs1 : XReg) (b : SrcB) (s : State) : Out :=
  .next (aluOp xd xs1 b (fun a b => a &&& b) s)

/-- `or`: a OR b (R171). -/
def execOr (xd xs1 : XReg) (b : SrcB) (s : State) : Out :=
  .next (aluOp xd xs1 b (fun a b => a ||| b) s)

/-- `xor`: a XOR b (R171). -/
def execXor (xd xs1 : XReg) (b : SrcB) (s : State) : Out :=
  .next (aluOp xd xs1 b (fun a b => a ^^^ b) s)

/-- `andn`: a AND NOT b (R171). -/
def execAndn (xd xs1 : XReg) (b : SrcB) (s : State) : Out :=
  .next (aluOp xd xs1 b (fun a b => a &&& ~~~b) s)

/-- `addw`: the sum at 32 bits (R171). -/
def execAddw (xd xs1 : XReg) (b : SrcB) (s : State) : Out :=
  .next (aluOp xd xs1 b (fun a b => wRes (lo32 (a + b))) s)

/-- `subw`: the difference at 32 bits (R171). -/
def execSubw (xd xs1 : XReg) (b : SrcB) (s : State) : Out :=
  .next (aluOp xd xs1 b (fun a b => wRes (lo32 (a - b))) s)

/-- `min`: the signed lesser (R171). -/
def execMin (xd xs1 : XReg) (b : SrcB) (s : State) : Out :=
  .next (aluOp xd xs1 b (fun a b => if a.slt b then a else b) s)

/-- `max`: the signed greater (R171). -/
def execMax (xd xs1 : XReg) (b : SrcB) (s : State) : Out :=
  .next (aluOp xd xs1 b (fun a b => if a.slt b then b else a) s)

/-- `minu`: the unsigned lesser (R171). -/
def execMinu (xd xs1 : XReg) (b : SrcB) (s : State) : Out :=
  .next (aluOp xd xs1 b (fun a b => if a.ult b then a else b) s)

/-- `maxu`: the unsigned greater (R171). -/
def execMaxu (xd xs1 : XReg) (b : SrcB) (s : State) : Out :=
  .next (aluOp xd xs1 b (fun a b => if a.ult b then b else a) s)

/-! ### Major 0x02 (R172) -/

/-- `sll`: left shift (R172). -/
def execSll (xd xs1 : XReg) (b : SrcB) (s : State) : Out :=
  .next (aluOp xd xs1 b (fun a b => a <<< (b.toNat % 64)) s)

/-- `srl`: logical right shift (R172). -/
def execSrl (xd xs1 : XReg) (b : SrcB) (s : State) : Out :=
  .next (aluOp xd xs1 b (fun a b => a >>> (b.toNat % 64)) s)

/-- `sra`: arithmetic right shift (R172). -/
def execSra (xd xs1 : XReg) (b : SrcB) (s : State) : Out :=
  .next (aluOp xd xs1 b (fun a b => a.sshiftRight (b.toNat % 64)) s)

/-- `rol`: left rotation (R172). -/
def execRol (xd xs1 : XReg) (b : SrcB) (s : State) : Out :=
  .next (aluOp xd xs1 b (fun a b => a.rotateLeft (b.toNat % 64)) s)

/-- `ror`: right rotation (R172). -/
def execRor (xd xs1 : XReg) (b : SrcB) (s : State) : Out :=
  .next (aluOp xd xs1 b (fun a b => a.rotateRight (b.toNat % 64)) s)

/-- `sllw`: left shift at 32 bits (R172). -/
def execSllw (xd xs1 : XReg) (b : SrcB) (s : State) : Out :=
  .next (aluOp xd xs1 b (fun a b => wRes (lo32 a <<< (b.toNat % 32))) s)

/-- `srlw`: logical right shift at 32 bits (R172). -/
def execSrlw (xd xs1 : XReg) (b : SrcB) (s : State) : Out :=
  .next (aluOp xd xs1 b (fun a b => wRes (lo32 a >>> (b.toNat % 32))) s)

/-- `sraw`: arithmetic right shift at 32 bits (R172). -/
def execSraw (xd xs1 : XReg) (b : SrcB) (s : State) : Out :=
  .next (aluOp xd xs1 b (fun a b => wRes ((lo32 a).sshiftRight (b.toNat % 32))) s)

/-! ### Major 0x03 (R173) -/

/-- `seq`: a == b (R173). -/
def execSeq (xd xs1 : XReg) (b : SrcB) (s : State) : Out :=
  .next (aluOp xd xs1 b (fun a b => boolW (a == b)) s)

/-- `sne`: a != b (R173). -/
def execSne (xd xs1 : XReg) (b : SrcB) (s : State) : Out :=
  .next (aluOp xd xs1 b (fun a b => boolW (a != b)) s)

/-- `slt`: signed less (R173). -/
def execSlt (xd xs1 : XReg) (b : SrcB) (s : State) : Out :=
  .next (aluOp xd xs1 b (fun a b => boolW (a.slt b)) s)

/-- `sltu`: unsigned less (R173). -/
def execSltu (xd xs1 : XReg) (b : SrcB) (s : State) : Out :=
  .next (aluOp xd xs1 b (fun a b => boolW (a.ult b)) s)

/-- `sge`: signed at least (R173). -/
def execSge (xd xs1 : XReg) (b : SrcB) (s : State) : Out :=
  .next (aluOp xd xs1 b (fun a b => boolW (!a.slt b)) s)

/-- `sgeu`: unsigned at least (R173). -/
def execSgeu (xd xs1 : XReg) (b : SrcB) (s : State) : Out :=
  .next (aluOp xd xs1 b (fun a b => boolW (!a.ult b)) s)

/-- `sel`: a when xs3 is non-zero, else b (R173). A poisoned condition poisons the result (R388). -/
def execSel (xd xs3 xs1 : XReg) (b : SrcB) (s : State) : Out :=
  .next (retire s (s.setX xd (if s.x xs3 ≠ 0 then s.x xs1 else opB s.hart b)
    (poisX s.hart xs3 || poisX s.hart xs1 || poisB s.hart b)))

/-! ### Major 0x04 (R174) -/

/-- `mul`: the low 64 bits of the product (R174). -/
def execMul (xd xs1 : XReg) (b : SrcB) (s : State) : Out :=
  .next (aluOp xd xs1 b (fun a b => a * b) s)

/-- `mulh`: the high bits of the signed product (R174). -/
def execMulh (xd xs1 : XReg) (b : SrcB) (s : State) : Out :=
  .next (aluOp xd xs1 b (fun a b => hiMul a.toInt b.toInt) s)

/-- `mulhu`: the high bits of the unsigned product (R174). -/
def execMulhu (xd xs1 : XReg) (b : SrcB) (s : State) : Out :=
  .next (aluOp xd xs1 b (fun a b => hiMul a.toNat b.toNat) s)

/-- `mulhsu`: the high bits of the signed by unsigned product (R174). -/
def execMulhsu (xd xs1 : XReg) (b : SrcB) (s : State) : Out :=
  .next (aluOp xd xs1 b (fun a b => hiMul a.toInt b.toNat) s)

/-- `mulw`: the product at 32 bits (R174). -/
def execMulw (xd xs1 : XReg) (b : SrcB) (s : State) : Out :=
  .next (aluOp xd xs1 b (fun a b => wRes (lo32 (a * b))) s)

/-- `div`: signed quotient (R174). -/
def execDiv (xd xs1 : XReg) (b : SrcB) (s : State) : Out :=
  .next (aluOp xd xs1 b (fun a b => sdivW a b) s)

/-- `divu`: unsigned quotient (R174). -/
def execDivu (xd xs1 : XReg) (b : SrcB) (s : State) : Out :=
  .next (aluOp xd xs1 b (fun a b => udivW a b) s)

/-- `rem`: signed remainder (R174). -/
def execRem (xd xs1 : XReg) (b : SrcB) (s : State) : Out :=
  .next (aluOp xd xs1 b (fun a b => sremW a b) s)

/-- `remu`: unsigned remainder (R174). -/
def execRemu (xd xs1 : XReg) (b : SrcB) (s : State) : Out :=
  .next (aluOp xd xs1 b (fun a b => uremW a b) s)

/-- `madd`: the low 64 bits of a · b + xs3 (R174). -/
def execMadd (xd xs1 : XReg) (b : SrcB) (xs3 : XReg) (s : State) : Out :=
  .next (retire s (s.setX xd (s.x xs1 * opB s.hart b + s.x xs3)
    (poisX s.hart xs1 || poisB s.hart b || poisX s.hart xs3)))

/-! ### Major 0x05 (R175) -/

/-- `clz`: leading zero bits (R175). -/
def execClz (xd xs1 : XReg) (s : State) : Out := .next (unaryOp xd xs1 clzW s)

/-- `ctz`: trailing zero bits (R175). -/
def execCtz (xd xs1 : XReg) (s : State) : Out := .next (unaryOp xd xs1 ctzW s)

/-- `cpop`: one bits (R175). -/
def execCpop (xd xs1 : XReg) (s : State) : Out := .next (unaryOp xd xs1 cpopW s)

/-- `rev8`: the bytes in reverse order (R175). -/
def execRev8 (xd xs1 : XReg) (s : State) : Out := .next (unaryOp xd xs1 rev8W s)

/-- `bext`: a bit field, zero-extended (R175). -/
def execBext (xd xs1 : XReg) (pos lenM1 : Fin 64) (s : State) : Out :=
  .next (unaryOp xd xs1 (fun a => BitVec.ofNat 64 (getBits a pos.val (fieldLen pos lenM1))) s)

/-- `bexts`: a bit field, sign-extended (R175). -/
def execBexts (xd xs1 : XReg) (pos lenM1 : Fin 64) (s : State) : Out :=
  .next (unaryOp xd xs1 (fun a => sext64 (fieldLen pos lenM1) (a.toNat >>> pos.val)) s)

/-- `bins`: the low bits of a inserted into a field of xd (R175). -/
def execBins (xd xs1 : XReg) (pos lenM1 : Fin 64) (s : State) : Out :=
  .next (retire s (s.setX xd (binsW (s.x xd) (s.x xs1) pos lenM1) (poisX s.hart xd || poisX s.hart xs1)))

/-! ### Major 0x06 (R176) -/

/-- `li`: the sign-extended immediate (R176). -/
def execLi (xd : XReg) (imm : BitVec 32) (s : State) : Out := .next (retire s (s.setX xd (imm.signExtend 64)))

/-- `lih`: the immediate above the low 32 bits of a (R176). -/
def execLih (xd xs1 : XReg) (imm : BitVec 32) (s : State) : Out :=
  .next (unaryOp xd xs1 (fun a => (imm.setWidth 64 <<< 32) + (lo32 a).setWidth 64) s)

/-- `lea`: a plus a shifted index (R176). -/
def execLea (xd xs1 xs2 : XReg) (sh : Fin 8) (s : State) : Out :=
  .next (retire s (s.setX xd (s.x xs1 + (s.x xs2 <<< sh.val)) (poisX s.hart xs1 || poisX s.hart xs2)))

/-- `lca`: a code address relative to the line of the pc (R176). -/
def execLca (xd : XReg) (slot : Slot) (imm : BitVec 32) (s : State) : Out :=
  .next (retire s (s.setX xd (target s.hart.pc imm slot)))

/-! ### Major 0x07 (R109, R123 to R127) -/

/-- `fset`: writes entry k of the hart's table, valid or not (R109). Every convoy that uses the entry has completed
before the next instruction of this hart issues, so the change takes effect at once (R110). -/
def execFset (k : FEnt) (xs1 : XReg) (s : State) : Out :=
  .next (consume s [xs1] fun s =>
    retire s (s.onHart (fun h => { h with vc := { h.vc with ft := h.vc.ft.set k.val (lo32 (getX h xs1)) } })))

/-- The row pitch, element region and size of a tile of an entry (R124). -/
def tileRow (cols n : Nat) : Nat := roundUp (ceilDiv (cols * n) 8) 64

def tileSize (cols rows : Nat) (f : Fmt) : Nat :=
  rows * tileRow cols f.n + (if f.blk = 0 then 0 else rows * roundUp (ceilDiv cols f.blkLen) 64)

/-- The cores whose slices a tile of a level spans (R124). -/
def tileCores (h : Hart) (lvl : Nat) : List Nat :=
  match lvl with
  | 0 => [h.id.core]
  | 1 => List.range' (clusOf h.id.core * 8) 8
  | _ => List.range 32

/-- Banks a slice offers tiles (R122, R466). -/
def sliceBanks (s : State) (die core : Nat) : Nat :=
  let stacked := s.pkg.fitted.getLsbD die && !s.pkg.fusedOff.getLsbD die
  let r := (findCore s die core).retired
  ((if stacked then List.range' 2 62 else List.range' 2 10).filter (fun b => !r.getLsbD b)).length

/-- Banks of a slice that tiles hold. -/
def banksUsed (s : State) (die core : Nat) : Nat :=
  ((s.ctxs.flatMap (·.tiles)).filter (fun t => t.die == die && t.cores.contains core)).foldl (fun a t => a + t.banks) 0

/-- The location belongs to a tile handle of a context. -/
def inTile (ctx h loc : Nat) : Bool := decide (tileLoc ctx h 0 ≤ loc) && decide (loc < tileLoc ctx h 0 + 2 ^ 40)

/-- Discards the bytes of a tile, the writes to it that are not published, and every snapshot of it (R125, R127). -/
def wipeTile (s : State) (ctx h : Nat) : State :=
  let p := inTile ctx h
  let m := { s.mem with cells := cellDrop p s.mem.cells, log := s.mem.log.filter (fun w => !p w.loc),
                        pois := s.mem.pois.filter (fun g => !p (64 * g)), hwPois := s.mem.hwPois.filter (fun g => !p (64 * g)) }
  mapHarts { s with mem := m } (fun x =>
    { x with own := x.own.filter (fun o => !p o.loc), snap := x.snap.filter (fun b => !p b.loc) })

/-- The result of `talloc` (R125) and the tile table after it. DESIGN CHOICE (log 79). -/
def tallocOp (s : State) (d : Word) : State × Word :=
  let h := s.hart; let v := d.toNat
  let cols := bits v 15 0; let rows := bits v 31 16; let k : FEnt := ⟨bits v 35 32 % 16, by omega⟩; let lvl := bits v 37 36
  if v / 2 ^ 38 ≠ 0 ∨ cols = 0 ∨ rows = 0 ∨ lvl = 3 then (s, failCode 3)
  else if fmtValid (entry h k) = false then (s, failCode 4)
  else match findCtx s h.id.ctx with
    | none => (s, failCode 1)
    | some c =>
      match lowestFree (fun n => c.tiles.any (fun t => t.h == n)) 0 4096 with
      | none => (s, failCode 1)
      | some n =>
        let z := tileSize cols rows (fmt h k)
        let cs := tileCores h lvl
        let b := ceilDiv z (cs.length * 65536)
        if cs.any (fun q => decide (sliceBanks s h.id.die q < banksUsed s h.id.die q + b)) then (s, failCode 2)
        else
          let t : Tile := { h := n, st := .allocated, desc := d, fmt := entry h k, size := z, die := h.id.die, cores := cs, banks := b }
          (modCtx (wipeTile s h.id.ctx n) h.id.ctx (fun c => { c with tiles := c.tiles ++ [t] }), BitVec.ofNat 64 n)

/-- `talloc` (R125). -/
def execTalloc (xd xs1 : XReg) (s : State) : Out :=
  .next (consume s [xs1] fun s => let r := tallocOp s (s.x xs1); retire s (r.1.setX xd r.2))

/-- `tfree` (R127): 0 moves the handle to FREEING; 1 when it was free, 2 when it was FREEING. DESIGN CHOICE (log 79). -/
def execTfree (xd xs1 : XReg) (s : State) : Out :=
  .next (consume s [xs1] fun s =>
    let n := (s.x xs1).toNat % 4096
    match findTile s s.hart.id.ctx n with
    | none => retire s (s.setX xd 1)
    | some t =>
      if t.st = .freeing then retire s (s.setX xd 2)
      else
        let s1 := modCtx s s.hart.id.ctx (fun c =>
          { c with tiles := updWhere (fun t => t.h == n) (fun t => { t with st := .freeing }) c.tiles })
        retire s (s1.setX xd 0))

end Sys2Proof.Machine
end

