-- ==== Sys2Proof/Machine/Residency.lean ====
section
/-! DEFINITION. Lines kept in the memory-side cache: residency pins and timetable holds, and their limit of 12 ways in a
set (R129, R130, R133, R333). -/

namespace Sys2Proof.Machine

/-- Banks of a slice that hold cached lines (R122): those that are neither retired nor taken by a tile. -/
def cacheBanks (s : State) (die core : Nat) : Nat :=
  let r := (findCore s die core).retired
  ((List.range 2).filter (fun b => !r.getLsbD b)).length + sliceBanks s die core - banksUsed s die core

/-- Sets of a die's cache: 32 for each bank (R130). -/
def cacheSets (s : State) (die : Nat) : Nat := 32 * ((List.range 32).map (cacheBanks s die)).foldl (· + ·) 0

/-- The set of a line on its home die, by the hash of R129. DESIGN CHOICE (log 98). -/
def lineSet (s : State) (line : Nat) : Nat × Nat :=
  let die := homeDieStack s.pkg (line * 128)
  (die, Config.cacheSet line % max 1 (cacheSets s die))

/-- The lines that residency pins and timetable holds keep. -/
def keptLines (s : State) : List Nat := (s.ctxs.flatMap (fun c => c.res.flatMap (·.pins) ++ c.holds.map (·.line))).eraseDups

/-- One more owner may keep a line: it is kept already, or fewer than 12 ways of its set are (R133, R333). -/
def mayKeep (s : State) (line : Nat) : Bool :=
  (keptLines s).contains line
  || (decide (((keptLines s).filter (fun l => lineSet s l == lineSet s line)).length < 12) && decide (0 < cacheSets s (lineSet s line).1))

/-- The line of a GLOBAL address of a context; none on a DEV page, and none without a translation (R313). -/
def lineAt (s : State) (c : Ctx) (va : Nat) : Option Nat :=
  match walk s c va with
  | .fault _ => none
  | .leaf lva size pa _ _ dev _ => if dev then none else (physLoc s.pkg c.dev (pa + (va - lva) % size)).map (· / 128)

/-- Offers the lines of a range to an owner, in ascending order: `keep` adds one to it. Answers whether every line is kept.
-/
def keepRange (ctx base : Nat) (keep : Nat → Nat → Ctx → Ctx) : Nat → Nat → State → State × Bool
  | 0, _, s => (s, true)
  | n + 1, i, s =>
    let va := base + 128 * i
    match (findCtx s ctx).bind (fun c => lineAt s c va) with
    | some l =>
      if mayKeep s l then keepRange ctx base keep n (i + 1) (modCtx s ctx (keep va l))
      else ((keepRange ctx base keep n (i + 1) s).1, false)
    | none => ((keepRange ctx base keep n (i + 1) s).1, false)

/-- A line of a residency entry is pinned. -/
def pinTo (e : Nat) (_ : Nat) (line : Nat) (c : Ctx) : Ctx :=
  { c with res := updWhere (fun r => r.e == e) (fun r => { r with pins := line :: r.pins }) c.res }

/-- RESPIN_FILL: the lines of an entry are fetched and pinned as far as the ways allow, and FULL tells whether every one is
(R133, R313). The fetch goes round the range from its line `first`. DESIGN CHOICE (log 104). -/
def respinFillOp (ctx e first : Nat) (s : State) : State :=
  match (findCtx s ctx).bind (fun c => c.res.find? (fun r => r.e == e)) with
  | none => s
  | some r =>
    let s0 := modCtx s ctx (fun c => { c with res := updWhere (fun r => r.e == e) (fun r => { r with pins := [] }) c.res })
    let k := first % max 1 r.lines
    let p := keepRange ctx r.base (pinTo e) (r.lines - k) k s0
    let q := keepRange ctx r.base (pinTo e) k 0 p.1
    modCtx q.1 ctx (fun c => { c with res := updWhere (fun r => r.e == e) (fun r => { r with full := p.2 && q.2 }) c.res })

/-- RESPIN_FILL (R133, R313). -/
def execRespinFill (ctx : Nat) (e : Fin 64) (first : Nat) (s : State) : Out := .next (respinFillOp ctx e.val first s)

end Sys2Proof.Machine
end

