-- ==== Sys2Proof/Machine/Attention.lean ====
section
/-! DEFINITION. The Bolter: majors 0xA0 to 0xA5, signatures, bucket gathers, block tables, page references and the
residency table (R294 to R314). -/

namespace Sys2Proof.Machine

/-! ### Structures read by the Bolter (R294, R305) -/

/-- What a structure access answers: the bytes, a trap, or the consumption of poison (R389). -/
inductive SRes (α : Type) where
  | ok (s : State) (v : α)
  | trap (code : Nat) (val : Word)
  | poison

/-- Where bytes of a structure lie, or the trap; `elt` is the element index of a `bxlat` (R305). -/
def structAt (s : State) (ea align elt : Nat) (u : Use) : Sum (Nat × Word) Acc :=
  match globalCheck s s.hart (BitVec.ofNat 64 ea) align u with
  | .fault c => .inl (c, BitVec.ofNat 64 ea)
  | .ok a => if a.dev then .inl (0x0015, BitVec.ofNat 64 (7 + elt * 2 ^ 32)) else .inr a

/-- Reads bytes of a structure as a load (R280). DEDUCED (log 35). -/
def readStruct (s : State) (ea align n elt : Nat) : SRes (List Byte) :=
  match structAt s ea align elt .read with
  | .inl (c, v) => .trap c v
  | .inr a =>
    let r := plainRead s a.key a.loc n
    if r.2.2 then .poison else .ok r.1 r.2.1

/-- Goes on with what a structure access answers, from the state `s0` before the instruction on a trap. -/
def SRes.andThen {α : Type} (r : SRes α) (s0 : State) (k : State → α → State) : State :=
  match r with
  | .ok s v => k s v
  | .trap c v => memTrap s0 c v
  | .poison => poisonKill s0

/-- Chains structure accesses. -/
def SRes.bind {α β : Type} (r : SRes α) (k : State → α → SRes β) : SRes β :=
  match r with
  | .ok s v => k s v
  | .trap c v => .trap c v
  | .poison => .poison

/-- The attention-descriptor trap (R305). -/
def attTrap (reason : Nat) (elt : Nat := 0) : Nat × Word := (0x0015, BitVec.ofNat 64 (reason + elt * 2 ^ 32))

/-- Ends a form of this chapter: VES is 0 after it (R305). -/
def bolterDone (s0 s : State) : State :=
  retire s0 (s.onHart (fun h => { h with vc := { h.vc with ves := 0 } }))

/-! ### The sequence-head descriptor (R294, R295) -/

/-- The fields of a sequence-head descriptor. -/
structure Head where
  btab : Nat
  bdir : Nat
  bres : Nat
  pool : Nat
  paddr : Nat
  kpool : Nat
  dk : Nat
  b : Nat
  c : Nat
  klog : Nat
  cfgHi : Nat
  kstr : Nat
  vstr : Nat
  sink : Nat
  win : Nat
  deriving DecidableEq, Repr

def parseHead (v : Nat) : Head :=
  let cfg := bits v 415 384
  { btab := bits v 63 0, bdir := bits v 127 64, bres := bits v 191 128, pool := bits v 255 192, paddr := bits v 319 256,
    kpool := bits v 383 320, dk := bits cfg 8 0, b := bits cfg 13 9, c := bits cfg 17 14, klog := bits cfg 22 18,
    cfgHi := bits cfg 31 23, kstr := bits v 431 416, vstr := bits v 447 432, sink := bits v 479 448, win := bits v 511 480 }

/-- The conditions of R295. -/
def Head.valid (d : Head) : Bool :=
  decide (1 ≤ d.dk) && decide (d.dk ≤ 256) && decide (1 ≤ d.b) && decide (d.b ≤ 16) && decide (d.c ≤ 12)
  && decide (d.c ≤ d.b) && decide (d.klog ≤ 16) && d.cfgHi == 0
  && d.kstr != 0 && d.kstr % 4 == 0 && d.vstr != 0 && d.vstr % 4 == 0
  && d.btab % 8 == 0 && d.bdir % 64 == 0 && d.bres % 16 == 0 && d.pool % 16 == 0 && d.paddr % 32 == 0
  && [d.btab, d.bdir, d.bres, d.pool, d.paddr, d.kpool].all (fun a => decide (a < 2 ^ 48))

/-- The head the Bolter holds. -/
def headOf (h : Hart) : Head := parseHead h.bolter.desc.toNat

/-- Reads the projection columns of a head from j on (R306). -/
def readCols (d : Head) : Nat → Nat → State → List (BitVec 256) → SRes (List (BitVec 256))
  | _, 0, s, acc => .ok s acc.reverse
  | j, n + 1, s, acc =>
    (readStruct s (d.paddr + 32 * j) 32 32 0).bind fun s1 bs =>
      readCols d (j + 1) n s1 (BitVec.ofNat 256 (leNat bs) :: acc)

/-- `hpload` (R306). -/
def hploadOp (xs : XReg) (s : State) : State :=
  consume s [xs] fun s =>
    (readStruct s (s.x xs).toNat 64 64 0).andThen s fun s1 bs =>
      let d := parseHead (leNat bs)
      if !d.valid then memTrap s (attTrap 2).1 (attTrap 2).2
      else (readCols d 0 d.b s1 []).andThen s fun s2 cs =>
        bolterDone s (s2.onHart (fun h =>
          { h with bolter := { h.bolter with v := true, desc := BitVec.ofNat 512 (leNat bs),
                                             cols := cs.zipIdx.foldl (fun v c => v.setIfInBounds c.2 c.1) h.bolter.cols } }))

/-- `hpload` (R306). -/
def execHpload (xs : XReg) (s : State) : Out := .next (hploadOp xs s)

/-! ### Signatures (R301, R307) -/

/-- The value of an element in a signature: NaN and infinities count as 0. -/
def sigVal : WVal → WVal
  | .nan _ => .zero false
  | .inf _ => .zero false
  | w => w

/-- s_j of R301. -/
def sigSum (d : Head) (col : BitVec 256) (xs : List WVal) : WVal :=
  (xs.take d.dk).zipIdx.foldl (fun a x =>
    let v := sigVal x.1
    (addW false a (if col.getLsbD x.2 then negW v else v)).1) (.zero false)

/-- The sums of the B columns. -/
def sigSums (h : Hart) (d : Head) (xs : List WVal) : List WVal :=
  (List.range d.b).map (fun j => sigSum d (h.bolter.cols.toArray.getD j 0) xs)

/-- The signature. -/
def signature (sums : List WVal) : Nat :=
  sums.zipIdx.foldl (fun a p => a + (if cmpW p.1 (.zero false) == -1 then 2 ^ p.2 else 0)) 0

/-- The indices of the bits below C by margin, ties lower index first. -/
def probeOrder (d : Head) (sums : List WVal) : List Nat :=
  let ms := (sums.take d.c).zipIdx.map (fun p => (withSign false p.1, p.2))
  (sortBy (fun a b => cmpW a.1 b.1 != 1) ms).map (·.2)

/-- The elements 0 to DK − 1 of a group. -/
def headElems (h : Hart) (v : VReg) (fe : FEnt) (d : Head) : List WVal :=
  (List.range d.dk).map (fun i => opnd h v.val fe i)

/-- The checks of `hsig` and `kst` (R305). -/
def keyCheck (h : Hart) (v : VReg) (fe : FEnt) : Check :=
  firstFail [ckVl h [fe], ckGroup h v.val 8, ckFmt h fe, ckNoBlk h fe, if h.bolter.v then none else some (attTrap 1)]

/-- Raises a failing check, or goes on. -/
def withCheck (s : State) (c : Check) (k : State) : State :=
  match c with
  | some (code, v) => raiseCheck s code v
  | none => k

/-- `hsig` (R307). -/
def hsigOp (xd : XReg) (vs : VReg) (fe : FEnt) (s : State) : State :=
  let h := s.hart; let d := headOf h; let n := (fmt h fe).n
  withCheck s (firstFail [keyCheck h vs fe, if capN h n < d.dk then some (attTrap 5) else none,
      if (List.range d.dk).any (fun i => elemPois h vs.val i n) then some (0, 0) else none])
    (let sums := sigSums h d (headElems h vs fe d)
     let prb := (List.range 7).foldl (fun a j => a + ((probeOrder d sums).getD j 15) * 2 ^ (4 * j)) 0
     bolterDone s (s.setX xd (BitVec.ofNat 64 (signature sums + prb * 2 ^ 16))))

/-- `hsig` (R307). -/
def execHsig (xd : XReg) (vs : VReg) (fe : FEnt) (s : State) : Out := .next (hsigOp xd vs fe s)

/-! ### Block tables and pins (R296, R299) -/

/-- `btentry` of R296. -/
def btentry (d : Head) (p elt : Nat) (s : State) : SRes Nat :=
  (readStruct s (d.btab + 8 * (p / 2 ^ d.klog)) 8 8 elt).bind fun s1 bs =>
    let e := leNat bs
    if e = 0 ∨ e % 32 ≠ 0 ∨ 2 ^ 48 ≤ e then .trap (attTrap 3 elt).1 (attTrap 3 elt).2 else .ok s1 e

/-- What taking a pin answers. -/
inductive PinRes where
  | ok (s : State)
  | trap (code : Nat) (val : Word)
  | poison
  /-- SPIN is 0xFFFF: the pin waits until it falls. -/
  | wait

/-- Takes a pin on a page the list does not hold (R299). DEDUCED (log 100). -/
def takePin (s : State) (desc : Nat) (w : Bool) (elt : Nat) : PinRes :=
  match structAt s (desc + 16) 16 elt .write with
  | .inl (c, _) => .trap c (if c = 0x0015 then (attTrap 7 elt).2 else BitVec.ofNat 64 desc)
  | .inr a =>
    let r := strongAccess s a 16 (fun v =>
      if (pdStat v).testBit 0 && !pdBad v && pdSpin v != 0xFFFF then some (pdBytes (pdRef v) (pdSpin v + 1) (pdStat v) (pdLink v)) else none) false
    let v := leNat r.2.1
    if r.2.2 then .poison
    else if !(pdStat v).testBit 0 || pdBad v then .trap (attTrap 3 elt).1 (attTrap 3 elt).2
    else if pdSpin v = 0xFFFF then .wait
    else .ok (r.1.onHart (fun h => { h with bolter := { h.bolter with pins := h.bolter.pins ++ [(desc, w)] } }))

/-- The pin list holds a page. -/
def pinned (h : Hart) (desc : Nat) : Bool := h.bolter.pins.any (fun p => p.1 == desc)

/-- The W pin of a `kst`. -/
def keyPin (s : State) (desc : Nat) : PinRes :=
  if pinned s.hart desc then
    .ok (s.onHart (fun h =>
      { h with bolter := { h.bolter with pins := h.bolter.pins.map (fun p => if p.1 = desc then (p.1, true) else p) } }))
  else if 48 ≤ s.hart.bolter.pins.length then .trap (attTrap 6).1 (attTrap 6).2
  else takePin s desc true 0

/-! ### Storing a key (R302, R303, R308) -/

/-- The first fault of byte accesses over a range. -/
def rangeFault (s : State) (ea n : Nat) : Option (Nat × Word) :=
  (List.range n).findSome? (fun i => match structAt s (ea + i) 1 0 .write with | .inl t => some t | .inr _ => none)

/-- The fault of one structure of a `kst`. -/
def structFault (s : State) (ea align : Nat) : Option (Nat × Word) :=
  match structAt s ea align 0 .write with | .inl t => some t | .inr _ => none

/-- What a reservation gives (R303). -/
structure Reserved where
  slot : Nat
  page : Nat
  old : Nat
  newPage : Bool
  ovf : Bool
  /-- BASE of the pool. -/
  base : Nat
  deriving DecidableEq, Repr

/-- A reservation record's bytes. -/
def recBytes (cnt : Nat) (ovf : Bool) (fill : Nat) : List Byte := natLe 4 cnt ++ natLe 4 (b2n ovf) ++ natLe 4 fill ++ natLe 4 0

/-- A write of the Bolter to a reservation record or a pool descriptor: strong, and published by no release (R303). -/
def bolterWrite (s : State) (a : Acc) (bs : List Byte) : State := strongWrite s a.key a.loc bs false true

/-- A reservation that finds the bucket closed (R436). -/
def noSlot : Reserved := { slot := 0, page := 0, old := 0, newPage := false, ovf := true, base := 0 }

/-- `reserve(u)` of R303 on a record and a pool descriptor; none when it uses a poisoned one (R389). -/
def reserveSlot (s : State) (rec_ pool : Acc) : Option (State × Reserved) :=
  let r0 := strongAccess s rec_ 16 (fun _ => none) false
  let cnt := fld r0.2.1 0 4; let fill := fld r0.2.1 8 4
  let lost := fun (st : State) => some (bolterWrite st rec_ (recBytes cnt true fill), noSlot)
  if r0.2.2 then none
  else if fld r0.2.1 4 1 % 2 = 1 then some (r0.1, noSlot)
  else if cnt = 0xFFFFFFFF then lost r0.1
  else
    let p0 := strongAccess r0.1 pool 16 (fun _ => none) false
    let nxt := fld p0.2.1 0 4; let lim := fld p0.2.1 4 4; let base := fld p0.2.1 8 8
    if p0.2.2 && (fill != 0 || (decide (0 < cnt) && cnt % 15 == 0)) then none
    else if 0 < cnt ∧ cnt % 15 = 0 then
      if lim ≤ nxt then lost p0.1
      else
        let s1 := bolterWrite p0.1 pool (natLe 4 (nxt + 1))
        some (bolterWrite s1 rec_ (recBytes (cnt + 1) false nxt),
          { slot := cnt, page := nxt, old := fill, newPage := true, ovf := false, base := base })
    else
      some (bolterWrite r0.1 rec_ (recBytes (cnt + 1) false fill),
        { slot := cnt, page := fill, old := fill, newPage := false, ovf := false, base := base })

/-- The address of a bucket page (R302). -/
def pageAddr (d : Head) (u base i : Nat) : Nat := if i = 0 then d.bdir + 64 * u else base + 64 * i

/-- Writes bytes of a structure whose checks have passed, as plain stores of the hart. -/
def plainBytes (s : State) (ea : Nat) (bs : List Byte) : State :=
  bs.zipIdx.foldl (fun st b => match structAt st (ea + b.2) 1 0 .write with
    | .inr a => plainWrite st a.key a.loc (ea + b.2) [b.1] false
    | .inl _ => st) s

/-- The key bytes of elements 0 to DK − 1. -/
def keyBytes (h : Hart) (v : VReg) (n dk : Nat) : List Byte :=
  if n = 4 then (List.range ((dk + 1) / 2)).map (fun i =>
      BitVec.ofNat 8 (elem h v.val (2 * i) 4 + 16 * (if 2 * i + 1 < dk then elem h v.val (2 * i + 1) 4 else 0)))
  else (List.range dk).flatMap (fun i => natLe (n / 8) (elem h v.val i n))

/-- The writes of a `kst` after its reservation (R308): `d` is the head, `u` the bucket, `ka` the key address. -/
def kstWrite (s0 s : State) (xd : XReg) (v : VReg) (d : Head) (n u p ka sig : Nat) (r : Reserved) : State :=
  let pg := pageAddr d u r.base r.page; let od := pageAddr d u r.base r.old
  let bad := if r.ovf then none else
    (structFault s pg 64).or (if r.newPage then structFault s od 64 else none)
  match bad with
  | some (c, val) => memTrap s c val
  | none =>
    let s1 := plainBytes s ka (keyBytes s.hart v n d.dk)
    let s2 := if r.ovf then s1 else
      let a := plainBytes s1 (pg + 4 * (r.slot % 15)) (natLe 4 (p + 1))
      if r.newPage then plainBytes a (od + 60) (natLe 4 r.page) else a
    bolterDone s0 (s2.setX xd (BitVec.ofNat 64
      (sig + b2n (!r.ovf) * 2 ^ 16 + b2n r.ovf * 2 ^ 17 + b2n r.newPage * 2 ^ 18)))

/-- The first fault among the structures that a `kst` checks before its pin. DEDUCED (log 39). -/
def kstFault (s : State) (d : Head) (ka kb u : Nat) : Option (Nat × Word) :=
  (rangeFault s ka kb).or ((structFault s (d.bres + 16 * u) 16).or
    ((structFault s (d.bdir + 64 * u) 64).or (structFault s d.pool 16)))

/-- `kst` (R308). -/
def kstOp (xd : XReg) (v : VReg) (xp : XReg) (fe : FEnt) (s : State) : State :=
  let h := s.hart; let d := headOf h; let n := (fmt h fe).n
  let kb := ceilDiv (d.dk * n) 8; let p := (s.x xp).toNat
  withCheck s (firstFail [keyCheck h v fe, if capN h n < d.dk ∨ d.kstr < kb then some (attTrap 5) else none,
      if 0x7FFFFFFE < p then some (attTrap 4) else none,
      if poisX h xp || (List.range d.dk).any (fun i => elemPois h v.val i n) then some (0, 0) else none])
    (afterReleases s fun s =>
      let sig := signature (sigSums h d (headElems h v fe d))
      let u := sig % 2 ^ d.c
      (btentry d p 0 s).andThen s fun s1 desc =>
        (readStruct s1 desc 32 16 0).andThen s fun s2 bs =>
          let ka := fld bs 0 8 + p % 2 ^ d.klog * d.kstr
          match kstFault s2 d ka kb u with
          | some (c, val) => memTrap s c val
          | none =>
            match keyPin s2 desc with
            | .trap c val => memTrap s c val
            | .poison => poisonKill s
            | .wait => s
            | .ok s3 =>
              match structAt s3 (d.bres + 16 * u) 16 0 .write, structAt s3 d.pool 16 0 .write with
              | .inr ra, .inr pa =>
                match reserveSlot s3 ra pa with
                | none => poisonKill s
                | some r => kstWrite s r.1 xd v d n u p ka sig r.2
              | _, _ => s3)

/-- `kst` (R308). -/
def execKst (xd : XReg) (vs : VReg) (xp : XReg) (fe : FEnt) (s : State) : Out := .next (kstOp xd vs xp fe s)

/-! ### Gathering buckets (R310, R311) -/

/-- The smaller of the non-zero codes. -/
def lowestWhy (a b : Nat) : Nat := if a = 0 then b else if b = 0 then a else min a b

/-- The positions of a page's IDs below T. -/
def pageIds (bs : List Byte) (t : Nat) : List Nat :=
  (List.range 15).filterMap (fun w =>
    let id := fld bs (4 * w) 4
    if id ≠ 0 ∧ id - 1 < t then some (id - 1) else none)

/-- Walks a bucket's pages from one on (R310); the result holds the positions found and the reason code. -/
def walkPages (d : Head) (u t : Nat) : Nat → Nat → State → List Nat → SRes (List Nat × Nat)
  | 0, _, s, acc => .ok s (acc, 3)
  | k + 1, pg, s, acc =>
    (readStruct s pg 64 64 0).bind fun s1 bs =>
      let acc1 := acc ++ pageIds bs t
      let nx := fld bs 60 4
      if nx = 0 then .ok s1 (acc1, 0)
      else (readStruct s1 d.pool 16 16 0).bind fun s2 pd => walkPages d u t k (fld pd 8 8 + 64 * nx) s2 acc1

/-- Walks the buckets of the list in order. -/
def walkBuckets (d : Head) (t : Nat) : List Nat → State → List Nat → Nat → SRes (List Nat × Nat)
  | [], s, acc, why => .ok s (acc, why)
  | u :: r, s, acc, why =>
    (readStruct s (d.bres + 16 * u) 16 16 0).bind fun s1 rec_ =>
      let why1 := if fld rec_ 4 1 % 2 = 1 then lowestWhy why 1 else why
      (walkPages d u t 1024 (d.bdir + 64 * u) s1 acc).bind fun s2 q =>
        walkBuckets d t r s2 q.1 (lowestWhy why1 q.2)

/-- The buckets that a query word probes. -/
def probes (d : Head) (q np : Nat) : List Nat :=
  let b0 := q % 2 ^ d.c
  (List.range np).foldl (fun l j =>
    let b := bits q (19 + 4 * j) (16 + 4 * j)
    let u := b0 ^^^ 2 ^ b
    if b < d.c ∧ l.contains u = false then l ++ [u] else l) [b0]

/-- Sorted without repeats. -/
def sortPositions (l : List Nat) : List Nat :=
  dedupSorted (sortBy (fun a b => decide (a ≤ b)) l)

/-- The sink and window positions: how many they are, and a test of one. -/
def fixedCount (d : Head) (t : Nat) : Nat :=
  let a := min d.sink t; let b := t - d.win
  if b ≤ a then t else a + (t - b)

def fixedPositions (d : Head) (t : Nat) : List Nat :=
  let a := min d.sink t; let b := max a (t - d.win)
  List.range a ++ List.range' b (t - b)

/-- The entry condition of `bgath` and `bxlat`. -/
def ckPosFmt (h : Hart) : Check :=
  let k := vtFmt h
  firstFail [ckFmt h k, ckAllow k ((fmt h k).n == 32 && (fmt h k).spv == 4 && (fmt h k).blk == 0)]

/-- VLMAX(VTYPE.FMT). -/
def posMax (h : Hart) : Nat := vlmaxN h 32

/-- `bgath` (R310). DEDUCED (log 37). -/
def bgathOp (dft : Bool) (vd : VReg) (xq xn : XReg) (np : Fin 8) (s : State) : State :=
  let h := s.hart; let d := headOf h
  withCheck s (firstFail [ckVl h [vtFmt h], ckGroup h vd.val 8, ckPosFmt h,
      if h.bolter.v then none else some (attTrap 1),
      if poisX h xq || poisX h xn then some (0, 0) else none])
    (let t := min (s.x xn).toNat 0x7FFFFFFF
     (walkBuckets d t (probes d (s.x xq).toNat np.val) s [] 0).andThen s fun s1 r =>
       let past := decide (posMax h < fixedCount d t)
       let found := if past || r.2 != 0 then [] else sortPositions (r.1 ++ fixedPositions d t)
       let why := if r.2 = 0 ∧ (past || decide (posMax h < found.length)) = true then 2 else r.2
       if why ≠ 0 then
         if dft then memTrap s 0x0016 (BitVec.ofNat 64 why)
         else bolterDone s ((s1.onHart (fun h => { h with vc := { h.vc with vl := 0 } })).setX xq
           (BitVec.ofNat 64 (2 ^ 63 + why * 2 ^ 60)))
       else
         let s2 := s1.onHart (fun h =>
           let h1 := found.zipIdx.foldl (fun h p => setElem h vd.val p.2 32 p.1) h
           let h2 := if found.isEmpty then h1 else tailGroup h1 vd.val found.length 32
           { h2 with vc := { h2.vc with vl := BitVec.ofNat 17 found.length } })
         bolterDone s (s2.setX xq (BitVec.ofNat 64 found.length)))

/-- `bgath` (R310). -/
def execBgath (vd : VReg) (xq xn : XReg) (np : Fin 8) (s : State) : Out := .next (bgathOp false vd xq xn np s)

/-- `bgath.dft` (R310, R311). -/
def execBgathDft (vd : VReg) (xq xn : XReg) (np : Fin 8) (s : State) : Out := .next (bgathOp true vd xq xn np s)

/-! ### Offsets (R312) -/

/-- How the element loop of `bxlat` ends. -/
inductive XlatRes where
  /-- The offsets of the elements done, and the VL they leave. -/
  | done (s : State) (offs : List Nat)
  /-- A trap; pins taken stay. -/
  | trap (s : State) (code : Nat) (val : Word)
  | poison
  /-- A pin waits; pins taken stay. -/
  | wait (s : State)

/-- Elements i on of a `bxlat` (R312). -/
def xlatLoop (val : Bool) (d : Head) (vp : VReg) : Nat → Nat → State → List Nat → XlatRes
  | _, 0, s, acc => .done s acc.reverse
  | i, n + 1, s, acc =>
    let c := elem s.hart vp.val i 32
    if 2 ^ 31 ≤ c then .trap s (attTrap 4 i).1 (attTrap 4 i).2
    else match btentry d c i s with
      | .trap cd v => .trap s cd v
      | .poison => .poison
      | .ok s1 desc =>
        let pin : Option PinRes := if pinned s1.hart desc then some (.ok s1)
          else if 48 ≤ s1.hart.bolter.pins.length then none
          else some (takePin s1 desc false i)
        match pin with
        | none => if i = 0 then .trap s1 (attTrap 6).1 (attTrap 6).2 else .done s1 acc.reverse
        | some (.trap cd v) => .trap s1 cd v
        | some .poison => .poison
        | some .wait => .wait s1
        | some (.ok s2) =>
          match readStruct s2 desc 32 16 i with
          | .trap cd v => .trap s2 cd v
          | .poison => .poison
          | .ok s3 bs =>
            let a : Int := (if val then fld bs 8 8 + c % 2 ^ d.klog * d.vstr else fld bs 0 8 + c % 2 ^ d.klog * d.kstr : Nat)
              - (d.kpool : Int)
            if a < 0 ∨ 2 ^ 31 - 1 < a then .trap s3 (attTrap 8 i).1 (attTrap 8 i).2
            else xlatLoop val d vp (i + 1) n s3 (a.toNat :: acc)

/-- `bxlat` (R312). -/
def bxlatOp (val : Bool) (vd vp : VReg) (s : State) : State :=
  let h := s.hart; let d := headOf h; let n := vlOf h
  withCheck s (firstFail [ckVl h [vtFmt h], ckGroup h vd.val 8, ckGroup h vp.val 20,
      ckBit (overlaps h vd.val 1 vp.val 1) 8, ckPosFmt h, if h.bolter.v then none else some (attTrap 1),
      if (List.range n).any (fun i => elemPois h vp.val i 32) then some (0, 0) else none])
    (afterReleases s fun s =>
      match xlatLoop val d vp 0 n s [] with
      | .poison => poisonKill s
      | .trap s1 c v => memTrap s1 c v
      | .wait s1 => s1
      | .done s1 offs =>
        let s2 := s1.onHart (fun h =>
          let h1 := offs.zipIdx.foldl (fun h p => setElem h vd.val p.2 32 p.1) h
          let h2 := if offs.isEmpty then h1 else tailGroup h1 vd.val offs.length 32
          { h2 with vc := { h2.vc with vl := BitVec.ofNat 17 offs.length } })
        bolterDone s s2)

/-- `bxlat.k` (R312). -/
def execBxlatK (vd vp : VReg) (s : State) : Out := .next (bxlatOp false vd vp s)

/-- `bxlat.v` (R312). -/
def execBxlatV (vd vp : VReg) (s : State) : Out := .next (bxlatOp true vd vp s)

/-! ### The residency table (R132, R133, R313) -/

/-- The context of the focus hart. -/
def myCtx (s : State) : Option Ctx := findCtx s s.hart.id.ctx

/-- `respin` (R313). A hart of no context has no table. DESIGN CHOICE (log 79). -/
def respinOp (xd xs1 xs2 : XReg) (s : State) : State :=
  consume s [xs1, xs2] fun s =>
    let base := (s.x xs1).toNat; let l := (s.x xs2).toNat
    match myCtx s with
    | none => bolterDone s (s.setX xd (failCode 1))
    | some c =>
      if base % 128 ≠ 0 ∨ 2 ^ 48 ≤ base then bolterDone s (s.setX xd (failCode 2))
      else if l = 0 ∨ 16777215 < l ∨ 2 ^ 48 < base + 128 * l then bolterDone s (s.setX xd (failCode 3))
      else match lowestFree (fun e => c.res.any (fun r => r.e == e)) 0 64 with
        | none => bolterDone s (s.setX xd (failCode 1))
        | some e =>
          let s1 := modCtx s c.num (fun c => { c with res := c.res ++ [{ e := e, base := base, lines := l, full := false, pins := [] }] })
          bolterDone s (s1.setX xd (BitVec.ofNat 64 e))

/-- `respin` (R313). -/
def execRespin (xd xs1 xs2 : XReg) (s : State) : Out := .next (respinOp xd xs1 xs2 s)

/-- `resrel` (R313). -/
def resrelOp (xd xs1 : XReg) (s : State) : State :=
  let e := (s.x xs1).toNat % 64
  let used := match myCtx s with | some c => c.res.any (fun r => r.e == e) | none => false
  let s1 := modCtx s s.hart.id.ctx (fun c => { c with res := c.res.filter (fun r => r.e != e) })
  bolterDone s (s1.setX xd (if used then 0 else 1) (poisX s.hart xs1))

/-- `resrel` (R313). -/
def execResrel (xd xs1 : XReg) (s : State) : Out := .next (resrelOp xd xs1 s)

/-! ### Page references (R298) -/

/-- A strong 16-byte access to the descriptor at xs1, with the checks of R182 on it and on the addresses that follow
it. -/
def pageOp (s : State) (regs : List XReg) (desc : Word) (head : Option Word) (k : State → Acc → Option Acc → State) : State :=
  consume s regs fun s =>
    if wide desc then memTrap s 0x0008 desc
    else if desc.toNat % 32 ≠ 0 then memTrap s 0x0009 desc
    else match checkGlobal s s.hart.id.die s.hart.id.core s.hart.id.ctx (desc.toNat + 16) .write with
      | .fault c => memTrap s c desc
      | .ok a =>
        let go := fun hd => afterReleases s fun s =>
          match ovlFires s s.hart a.loc 16 with
          | some r => ovlTrap s (desc + 16) r
          | none => k s a hd
        match head with
        | none => go none
        | some x => match globalCheck s s.hart x 8 .write with
          | .fault c => memTrap s c x
          | .ok hd => go (some hd)

/-- `pgref` (R298). DEDUCED (log 36, log 100). -/
def pgrefOp (xd xs1 : XReg) (s : State) : State :=
  pageOp s [xs1] (s.x xs1) none fun s a _ =>
    let free := fun v => !(pdStat v).testBit 0 || (pdStat v).testBit 1 || pdBad v
    let r := strongAccess s a 16 (fun v =>
      if free v || pdRef v == 0xFFFFFFFF then none
      else some (pdBytes (pdRef v + 1) (pdSpin v) (pdStat v) (pdLink v))) false
    let v := leNat r.2.1
    bolterDone s (r.1.setX xd (if free v then failCode 1 else if pdRef v = 0xFFFFFFFF then failCode 2
      else BitVec.ofNat 64 (pdRef v + 1)) r.2.2)

/-- `pgref` (R298). -/
def execPgref (xd xs1 : XReg) (s : State) : Out := .next (pgrefOp xd xs1 s)

/-- `pgunref` (R298). -/
def pgunrefOp (xd xs1 xs2 : XReg) (s : State) : State :=
  let h := s.x xs2
  pageOp s [xs1, xs2] (s.x xs1) (some h) fun s a hd =>
    let bad := fun v => !(pdStat v).testBit 0 || pdRef v == 0 || pdBad v
    let r := strongAccess s a 16 (fun v =>
      if bad v then none
      else if pdRef v ≠ 1 then some (pdBytes (pdRef v - 1) (pdSpin v) (pdStat v) (pdLink v))
      else if pdSpin v = 0 then some (pdBytes 0 0 0 (pdLink v))
      else some (pdBytes 0 (pdSpin v) 2 h.toNat)) false
    let v := leNat r.2.1
    let last := !bad v && pdRef v == 1 && pdSpin v == 0
    let s1 := match last, hd with
      | true, some x => pushFree r.1 (s.x xs1).toNat a x
      | _, _ => r.1
    bolterDone s (s1.setX xd (if bad v then failCode 1 else if pdRef v ≠ 1 then BitVec.ofNat 64 (pdRef v - 1)
      else if pdSpin v = 0 then 0 else 0x4000000000000000) r.2.2)

/-- `pgunref` (R298). -/
def execPgunref (xd xs1 xs2 : XReg) (s : State) : Out := .next (pgunrefOp xd xs1 xs2 s)

end Sys2Proof.Machine
end

