-- ==== Sys2Proof/Machine/Mask.lean ====
section
/-! DEFINITION. Majors 0x44 and 0x45: mask logic and mask scans (R222 to R224). -/

namespace Sys2Proof.Machine

/-! ### Mask logic (R222) -/

/-- A bitwise mask operation; no bit is masked, and no entry is named. -/
def maskLogic (md ma mb : MReg) (f : Bool → Bool → Bool) : Member :=
  { check := fun _ => none,
    run := pureElems (fun i h => setMbit h md i (f (mbit h ma i) (mbit h mb i)) (mpois h ma i || mpois h mb i)),
    fin := fun lo s => if lo < vlOf s.hart then s.onHart (fun h => tailMask h md (vlOf h)) else s,
    draws := fun _ => false }

/-- `mand` (R222). -/
def execMand (md ma mb : MReg) (s : State) : Out := .next (soloConvoy (maskLogic md ma mb (fun a b => a && b)) s)

/-- `mnand` (R222). -/
def execMnand (md ma mb : MReg) (s : State) : Out := .next (soloConvoy (maskLogic md ma mb (fun a b => !(a && b))) s)

/-- `mandn` (R222). -/
def execMandn (md ma mb : MReg) (s : State) : Out := .next (soloConvoy (maskLogic md ma mb (fun a b => a && !b)) s)

/-- `mor` (R222). -/
def execMor (md ma mb : MReg) (s : State) : Out := .next (soloConvoy (maskLogic md ma mb (fun a b => a || b)) s)

/-- `mnor` (R222). -/
def execMnor (md ma mb : MReg) (s : State) : Out := .next (soloConvoy (maskLogic md ma mb (fun a b => !(a || b))) s)

/-- `morn` (R222). -/
def execMorn (md ma mb : MReg) (s : State) : Out := .next (soloConvoy (maskLogic md ma mb (fun a b => a || !b)) s)

/-- `mxor` (R222). -/
def execMxor (md ma mb : MReg) (s : State) : Out := .next (soloConvoy (maskLogic md ma mb (fun a b => a != b)) s)

/-- `mxnor` (R222). -/
def execMxnor (md ma mb : MReg) (s : State) : Out := .next (soloConvoy (maskLogic md ma mb (fun a b => a == b)) s)

/-! ### Scans (R223, R224) -/

/-- The counted bits below n. -/
def counted (h : Hart) (ms mk : MReg) (n : Nat) : List Nat :=
  (List.range n).filter (fun j => mbit h mk j && mbit h ms j)

/-- The lowest counted bit, or VL. -/
def firstCounted (h : Hart) (ms mk : MReg) : Nat := ((counted h ms mk (vlOf h)).head?).getD (vlOf h)

/-- A bit of either mask below n is poisoned (R388). -/
def countPois (h : Hart) (ms mk : MReg) (n : Nat) : Bool := (List.range n).any (fun j => mpois h ms j || mpois h mk j)

/-- A scan that writes a scalar register at completion. -/
def scanScalar (xd : XReg) (ms mk : MReg) (f : Hart → Word) : Member :=
  { check := fun _ => none, run := fun _ _ _ s => (s, none),
    fin := fun _ s => s.setX xd (f s.hart) (countPois s.hart ms mk (vlOf s.hart)), draws := fun _ => false }

/-- A mask cut at the first counted bit. -/
def cutMember (md ms mk : MReg) (rel : Nat → Nat → Bool) : Member :=
  { check := fun _ => ckBit (md == ms || md == mk) 8,
    run := fun dev lo hi s =>
      let first := firstCounted s.hart ms mk; let p := countPois s.hart ms mk (vlOf s.hart)
      pureElems (fun i h =>
        if mbit h mk i then setMbit h md i (rel i first) p
        else if maskZero h then setMbit h md i false (mpois h mk i)
        else if mpois h mk i then setMbit h md i (mbit h md i) true else h) dev lo hi s,
    fin := fun lo s => if lo < vlOf s.hart then s.onHart (fun h => tailMask h md (vlOf h)) else s,
    draws := fun _ => false }

/-- A scan that writes exact counts or indices in the elements of VTYPE.FMT. -/
def scanVector (vd : VReg) (mk : MReg) (f : Hart → Nat → Nat × Bool) : Member :=
  { check := fun s =>
      let h := s.hart; let k := vtFmt h
      firstFail [ckVl h [k], ckFmt h k, ckNoBlk h k, ckGroup h vd.val 8],
    run := fun dev lo hi s =>
      let h0 := s.hart; let ft := fmt h0 (vtFmt h0)
      pureElems (fun i h => maskedElem h mk vd.val i ft.n (fun h =>
        let r := f h0 i; let c := fencode ft (exactInt r.1) 0 0
        raise (setElem h vd.val i ft.n c.1 r.2) i c.2)) dev lo hi s,
    fin := fun lo s =>
      if lo < vlOf s.hart then s.onHart (fun h => tailGroup h vd.val (vlOf h) (fmt h (vtFmt h)).n) else s,
    draws := fun _ => false }

/-- `mcount` (R223). -/
def mcountMember (xd : XReg) (ms mk : MReg) : Member :=
  scanScalar xd ms mk (fun h => BitVec.ofNat 64 (counted h ms mk (vlOf h)).length)

/-- `mfind` (R223). -/
def mfindMember (xd : XReg) (ms mk : MReg) : Member :=
  scanScalar xd ms mk (fun h => match (counted h ms mk (vlOf h)).head? with
    | some i => BitVec.ofNat 64 i
    | none => BitVec.allOnes 64)

def mcutLtMember (md ms mk : MReg) : Member := cutMember md ms mk (fun i first => decide (i < first))
def mcutLeMember (md ms mk : MReg) : Member := cutMember md ms mk (fun i first => decide (i ≤ first))
def mcutEqMember (md ms mk : MReg) : Member := cutMember md ms mk (fun i first => i == first)

def vrankMember (vd : VReg) (ms mk : MReg) : Member :=
  scanVector vd mk (fun h i => ((counted h ms mk i).length, countPois h ms mk i))

def vindexMember (vd : VReg) (mk : MReg) : Member := scanVector vd mk (fun _ i => (i, false))

/-- `mcount` (R223). -/
def execMcount (xd : XReg) (ms mk : MReg) (s : State) : Out := .next (soloConvoy (mcountMember xd ms mk) s)

/-- `mfind` (R223). -/
def execMfind (xd : XReg) (ms mk : MReg) (s : State) : Out := .next (soloConvoy (mfindMember xd ms mk) s)

/-- `mcut.lt` (R223). -/
def execMcutLt (md ms mk : MReg) (s : State) : Out := .next (soloConvoy (mcutLtMember md ms mk) s)

/-- `mcut.le` (R223). -/
def execMcutLe (md ms mk : MReg) (s : State) : Out := .next (soloConvoy (mcutLeMember md ms mk) s)

/-- `mcut.eq` (R223). -/
def execMcutEq (md ms mk : MReg) (s : State) : Out := .next (soloConvoy (mcutEqMember md ms mk) s)

/-- `vrank` (R223). -/
def execVrank (vd : VReg) (ms mk : MReg) (s : State) : Out := .next (soloConvoy (vrankMember vd ms mk) s)

/-- `vindex` (R223). -/
def execVindex (vd : VReg) (mk : MReg) (s : State) : Out := .next (soloConvoy (vindexMember vd mk) s)

end Sys2Proof.Machine
end

