-- ==== Sys2Proof/Machine/ConvoySteps.lean ====
section
/-! DEFINITION. The start and the completion of a gathered convoy (R158, R159). -/

namespace Sys2Proof.Machine

/-- The instruction as a member of a convoy; none for one that stands outside convoys, and for the members of class SOLO,
which stand alone in theirs (R156, R157). -/
def memberOf (i : Instr) : Option Member :=
  match i with
  | .vld vr xb imm fe nf mk => some (loadMember (unitForm vr xb imm fe nf mk))
  | .vlds vr xb imm xo fe nf mk => some (loadMember (strideForm vr xb imm xo fe nf mk))
  | .vldx vr xb imm vo fe fi nf mk => some (loadMember (indexForm true vr xb imm vo fe fi (nf.val + 1) mk))
  | .vldux vr xb imm vo fe fi nf mk => some (loadMember (indexForm false vr xb imm vo fe fi (nf.val + 1) mk))
  | .vldff vr xb imm fe nf mk => some (loadFFMember (unitForm vr xb imm fe nf mk))
  | .vlm md xb imm => some (vlmMember md xb imm)
  | .vst vr xb imm fe nf mk => some (storeMember (unitForm vr xb imm fe nf mk))
  | .vsts vr xb imm xo fe nf mk => some (storeMember (strideForm vr xb imm xo fe nf mk))
  | .vstx vr xb imm vo fe fi nf mk => some (storeMember (indexForm true vr xb imm vo fe fi (nf.val + 1) mk))
  | .vstux vr xb imm vo fe fi nf mk => some (storeMember (indexForm false vr xb imm vo fe fi (nf.val + 1) mk))
  | .vsm ms xb imm => some (vsmMember ms xb imm)
  | .vamoswap ord vr xb imm vo fe fi mk => some (vamoMember (indexForm ord vr xb imm vo fe fi 1 mk) 0)
  | .vamoadd ord vr xb imm vo fe fi mk => some (vamoMember (indexForm ord vr xb imm vo fe fi 1 mk) 1)
  | .vamoand ord vr xb imm vo fe fi mk => some (vamoMember (indexForm ord vr xb imm vo fe fi 1 mk) 2)
  | .vamoor ord vr xb imm vo fe fi mk => some (vamoMember (indexForm ord vr xb imm vo fe fi 1 mk) 3)
  | .vamoxor ord vr xb imm vo fe fi mk => some (vamoMember (indexForm ord vr xb imm vo fe fi 1 mk) 4)
  | .vamomin ord vr xb imm vo fe fi mk => some (vamoMember (indexForm ord vr xb imm vo fe fi 1 mk) 5)
  | .vamomax ord vr xb imm vo fe fi mk => some (vamoMember (indexForm ord vr xb imm vo fe fi 1 mk) 6)
  | .vamominu ord vr xb imm vo fe fi mk => some (vamoMember (indexForm ord vr xb imm vo fe fi 1 mk) 7)
  | .vamomaxu ord vr xb imm vo fe fi mk => some (vamoMember (indexForm ord vr xb imm vo fe fi 1 mk) 8)
  | .vamofadd ord vr xb imm vo fe fi mk => some (vamoMember (indexForm ord vr xb imm vo fe fi 1 mk) 9)
  | .vcas ord vr xb imm vo fe fi mk => some (vamoMember (indexForm ord vr xb imm vo fe fi 1 mk) 10)
  | .mand md ma mb => some (maskLogic md ma mb (fun a b => a && b))
  | .mnand md ma mb => some (maskLogic md ma mb (fun a b => !(a && b)))
  | .mandn md ma mb => some (maskLogic md ma mb (fun a b => a && !b))
  | .mor md ma mb => some (maskLogic md ma mb (fun a b => a || b))
  | .mnor md ma mb => some (maskLogic md ma mb (fun a b => !(a || b)))
  | .morn md ma mb => some (maskLogic md ma mb (fun a b => a || !b))
  | .mxor md ma mb => some (maskLogic md ma mb (fun a b => a != b))
  | .mxnor md ma mb => some (maskLogic md ma mb (fun a b => a == b))
  | .mcount xd ms mk => some (mcountMember xd ms mk)
  | .mfind xd ms mk => some (mfindMember xd ms mk)
  | .mcutLt md ms mk => some (mcutLtMember md ms mk)
  | .mcutLe md ms mk => some (mcutLeMember md ms mk)
  | .mcutEq md ms mk => some (mcutEqMember md ms mk)
  | .vrank vd ms mk => some (vrankMember vd ms mk)
  | .vindex vd mk => some (vindexMember vd mk)
  | .vadd vd vs1 b fd fa fb mk => some (vaddMember vd vs1 b fd fa fb mk)
  | .vsub vd vs1 b fd fa fb mk => some (vsubMember vd vs1 b fd fa fb mk)
  | .vrsub vd vs1 b fd fa fb mk => some (vrsubMember vd vs1 b fd fa fb mk)
  | .vmul vd vs1 b fd fa fb mk => some (vmulMember vd vs1 b fd fa fb mk)
  | .vmulh vd vs1 b fd fa fb mk => some (vmulhMember vd vs1 b fd fa fb mk)
  | .vdiv vd vs1 b fd fa fb mk => some (vdivMember vd vs1 b fd fa fb mk)
  | .vrem vd vs1 b fd fa fb mk => some (vremMember vd vs1 b fd fa fb mk)
  | .vmacc vd vs1 b fd fa fb mk => some (vmaccMember vd vs1 b fd fa fb mk)
  | .vabsd vd vs1 b fd fa fb mk => some (vabsdMember vd vs1 b fd fa fb mk)
  | .vavg vd vs1 b fd fa fb mk rm => some (vavgMember vd vs1 b fd fa fb mk rm)
  | .vand vd vs1 b fd fa fb mk => some (vandMember vd vs1 b fd fa fb mk)
  | .vor vd vs1 b fd fa fb mk => some (vorMember vd vs1 b fd fa fb mk)
  | .vxor vd vs1 b fd fa fb mk => some (vxorMember vd vs1 b fd fa fb mk)
  | .vsll vd vs1 b fd fa fb mk => some (vsllMember vd vs1 b fd fa fb mk)
  | .vsrl vd vs1 b fd fa fb mk => some (vsrlMember vd vs1 b fd fa fb mk)
  | .vsra vd vs1 b fd fa fb mk => some (vsraMember vd vs1 b fd fa fb mk)
  | .vfadd vd vs1 b fd fa fb mk rm => some (vfaddMember vd vs1 b fd fa fb mk rm)
  | .vfsub vd vs1 b fd fa fb mk rm => some (vfsubMember vd vs1 b fd fa fb mk rm)
  | .vfrsub vd vs1 b fd fa fb mk rm => some (vfrsubMember vd vs1 b fd fa fb mk rm)
  | .vfmul vd vs1 b fd fa fb mk rm => some (vfmulMember vd vs1 b fd fa fb mk rm)
  | .vfdiv vd vs1 b fd fa fb mk rm => some (vfdivMember vd vs1 b fd fa fb mk rm)
  | .vfrdiv vd vs1 b fd fa fb mk rm => some (vfrdivMember vd vs1 b fd fa fb mk rm)
  | .vfmacc vd vs1 b fd fa fb mk rm => some (vfmaccMember vd vs1 b fd fa fb mk rm)
  | .vfnmacc vd vs1 b fd fa fb mk rm => some (vfnmaccMember vd vs1 b fd fa fb mk rm)
  | .vfmsac vd vs1 b fd fa fb mk rm => some (vfmsacMember vd vs1 b fd fa fb mk rm)
  | .vfnmsac vd vs1 b fd fa fb mk rm => some (vfnmsacMember vd vs1 b fd fa fb mk rm)
  | .vfma vd vs1 b vs3 fd fa fb mk rm => some (vfmaMember vd vs1 b vs3 fd fa fb mk rm)
  | .vfsgnj vd vs1 b fd fa fb mk rm => some (vfsgnjMember vd vs1 b fd fa fb mk rm)
  | .vfsgnjn vd vs1 b fd fa fb mk rm => some (vfsgnjnMember vd vs1 b fd fa fb mk rm)
  | .vfsgnjx vd vs1 b fd fa fb mk rm => some (vfsgnjxMember vd vs1 b fd fa fb mk rm)
  | .vfclass vd vs1 fd fa mk => some (vfclassMember vd vs1 fd fa mk)
  | .vmin vd vs1 b fd fa fb mk rm => some (vminMember vd vs1 b fd fa fb mk rm)
  | .vmax vd vs1 b fd fa fb mk rm => some (vmaxMember vd vs1 b fd fa fb mk rm)
  | .vmeq md vs1 b fa fb mk => some (vmeqMember md vs1 b fa fb mk)
  | .vmne md vs1 b fa fb mk => some (vmneMember md vs1 b fa fb mk)
  | .vmlt md vs1 b fa fb mk => some (vmltMember md vs1 b fa fb mk)
  | .vmle md vs1 b fa fb mk => some (vmleMember md vs1 b fa fb mk)
  | .vmgt md vs1 b fa fb mk => some (vmgtMember md vs1 b fa fb mk)
  | .vmge md vs1 b fa fb mk => some (vmgeMember md vs1 b fa fb mk)
  | .vmerge vd vs1 b fd fa fb mk rm => some (vmergeMember vd vs1 b fd fa fb mk rm)
  | .vsplat vd xs fd fb mk rm => some (vsplatMember vd xs fd fb mk rm)
  | .vbfly vd vs1 vs2 fd fa fb mk rm sh => some (vbflyMember vd vs1 vs2 fd fa fb mk rm sh)
  | .vcvt vd vs1 fd fa mk rm => some (vcvtMember vd vs1 fd fa mk rm)
  | .vcvtbs vd vs1 vs3 fd fa mk rm ty => some (vcvtbsMember vd vs1 vs3 fd fa mk rm ty)
  | .vcvtbd vd vs1 vs3 fd fa mk rm => some (vcvtbdMember vd vs1 vs3 fd fa mk rm)
  | .vexp vd vs1 sub fd fa mk => some (vexpMember vd vs1 sub fd fa mk)
  | .vexp2 vd vs1 sub fd fa mk => some (vexp2Member vd vs1 sub fd fa mk)
  | .vlog2 vd vs1 sub fd fa mk => some (vlog2Member vd vs1 sub fd fa mk)
  | .vrcp vd vs1 sub fd fa mk => some (vrcpMember vd vs1 sub fd fa mk)
  | .vrsqrt vd vs1 sub fd fa mk => some (vrsqrtMember vd vs1 sub fd fa mk)
  | .vsqrt vd vs1 sub fd fa mk => some (vsqrtMember vd vs1 sub fd fa mk)
  | .vsin vd vs1 sub fd fa mk => some (vsinMember vd vs1 sub fd fa mk)
  | .vcos vd vs1 sub fd fa mk => some (vcosMember vd vs1 sub fd fa mk)
  | .vtanh vd vs1 sub fd fa mk => some (vtanhMember vd vs1 sub fd fa mk)
  | .vsigmoid vd vs1 sub fd fa mk => some (vsigmoidMember vd vs1 sub fd fa mk)
  | .verf vd vs1 sub fd fa mk => some (verfMember vd vs1 sub fd fa mk)
  | .vlift vd vs1 off fd mk => some (vliftMember vd vs1 off fd mk)
  | .vdrop vd vs1 off fd mk => some (vdropMember vd vs1 off fd mk)
  | .vliftx vd vs1 xs fd mk => some (vliftxMember vd vs1 xs fd mk)
  | .vdropx vd vs1 xs fd mk => some (vdropxMember vd vs1 xs fd mk)
  | .vpick vd vs1 vs2 fd fb mk => some (vpickMember vd vs1 vs2 fd fb mk)
  | .vpack vd vs1 fd mk => some (vpackMember vd vs1 fd mk)
  | .vget xd vs1 fd => some (vgetMember xd vs1 fd)
  | .vplace vd xs fd => some (vplaceMember vd xs fd)
  | .vfredosum vd vs1 vs2 fd fa mk rm => some (vfredosumMember vd vs1 vs2 fd fa mk rm)
  | .vfredusum vd vs1 vs2 fd fa mk rm => some (vfredusumMember vd vs1 vs2 fd fa mk rm)
  | .vfredmax vd vs1 vs2 fd fa mk rm => some (vfredmaxMember vd vs1 vs2 fd fa mk rm)
  | .vfredmin vd vs1 vs2 fd fa mk rm => some (vfredminMember vd vs1 vs2 fd fa mk rm)
  | .vredsum vd vs1 vs2 fd fa mk rm => some (vredsumMember vd vs1 vs2 fd fa mk rm)
  | .vappend xd vs1 xb fd mk => some (vappendMember xd vs1 xb fd mk)
  | .wld wt vs1 fa => some (wldMember wt vs1 fa)
  | .wst vd wt => some (wstMember vd wt)
  | .mrow vd vs1 wt sc fa fc mk => some (mrowMember vd vs1 wt sc fa fc mk)
  | .mrowAcc vd vs1 wt sc fa fc mk => some (mrowAccMember vd vs1 wt sc fa fc mk)
  | .mslide vd vs1 wt fa fc mk => some (mslideMember vd vs1 wt fa fc mk)
  | .mslideAcc vd vs1 wt fa fc mk => some (mslideAccMember vd vs1 wt fa fc mk)
  | .macc wt vs1 vs2 fa fb mk => some (maccMember wt vs1 vs2 fa fb mk)
  | .maccz wt vs1 vs2 fa fb mk => some (macczMember wt vs1 vs2 fa fb mk)
  | _ => none

/-- The end check of the last member sends the hart to a slot outside the address range (R186, R190). -/
def backWide (h : Hart) (last : Word) : Option Word :=
  match endCheck h last with
  | .back _ t => if wide t then some t else none
  | .falls _ => none

/-- A gathered convoy issues and runs all its elements; it completes at CONVOY_COMPLETE (R159). DESIGN CHOICE (log 9). -/
def convoyStartOp (s : State) : State :=
  match s.hart.gathered.reverse.head? with
  | none => s
  | some (last, _) =>
    if s.hart.convoy.isSome then s else
    let ms := s.hart.gathered.filterMap (fun p => memberOf p.2)
    let s0 := s.onHart (fun h => { h with gathered := [] })
    match convoyChecks ms s0 with
    | some (c, v) => raiseCheck s0 c v
    | none =>
      match runConvoy ms s0 with
      | .complete s1 =>
        match backWide s1.hart last with
        | some t => takeTrap s0 0x0008 t
        | none =>
          let run : ConvoyRun := { nextPc := nextSlot last, lastPc := last, draws := drawCount (vesOf s0.hart) ms s0,
                                   count := ms.length }
          s1.onHart (fun h => { h with convoy := some run })
      | .trap s1 => s1
      | .wait s1 => s1

/-- CONVOY_START (R159). -/
def execConvoyStart (h : Nat) (s : State) : Out := .next (withHart s h convoyStartOp)

/-- The last element of the running convoy is written: VES returns to 0, RSEED advances once for each member that drew,
and its last member retires, in whose line control is (R147, R159). -/
def convoyCompleteOp (s : State) : State :=
  match s.hart.convoy with
  | none => s
  | some r => retireAt s (s.onHart (fun h =>
    { convoyEnd r.draws h with convoy := none, st := { h.st with line := h.st.ahead } })) r.lastPc

/-- CONVOY_COMPLETE (R159). -/
def execConvoyComplete (h : Nat) (s : State) : Out := .next (withHart s h convoyCompleteOp)

end Sys2Proof.Machine
end

