-- ==== Sys2Proof/Machine/Engines.lean ====
section
/-! DEFINITION. The memory system's own steps: walks, tiles, HBM, event records, the package reset and the mode change (R26,
R115 to R119, R127, R136, R137, R142, R390, R393, R395, R398, R442 to R445). -/

namespace Sys2Proof.Machine

/-! ### Translation (R115, R118, R425 to R428) -/

/-- The tables below a level that a walk goes through. -/
def tablesOn (s : State) (dev va : Nat) : Nat → Nat → List (Nat × Nat)
  | 0, _ => []
  | l + 1, tab =>
    let idx := match l with | 2 => bits va 47 39 | 1 => bits va 38 30 | _ => bits va 29 21
    match devRead s dev (tab + 8 * idx) 8 with
    | none => []
    | some bs =>
      let next := (bits (leNat bs) 47 8) <<< 8
      if (leNat bs).testBit 1 then [] else (l, next) :: tablesOn s dev va l next

/-- The non-leaf entries of a walk enter the walk cache of its die, in place of those they overlap. -/
def keepTables (m : Mem) (die ctx va : Nat) (l : List (Nat × Nat)) : Mem :=
  let es := l.map (fun t => ({ die := die, ctx := ctx, lvl := t.1, va := va / tabSpan t.1 * tabSpan t.1, tab := t.2 } : WalkEnt))
  { m with wcache := es ++ m.wcache.filter (fun e => es.all (fun x => !(x.die == e.die && x.ctx == e.ctx && x.lvl == e.lvl && x.va == e.va))) }

/-- A leaf enters the TLB of a core, which holds 2,048, in place of those it overlaps. -/
def keepLeaf (m : Mem) (e : TlbEnt) : Mem :=
  let here := fun t : TlbEnt => t.die == e.die && t.core == e.core
  let clash := fun t : TlbEnt => here t && t.ctx == e.ctx && decide (t.va < e.va + e.size) && decide (e.va < t.va + t.size)
  { m with tlb := e :: (m.tlb.filter (fun t => here t && !clash t)).take 2047 ++ m.tlb.filter (fun t => !here t) }

/-- PAGE_WALK: a walk that ends at a leaf enters it in the TLB of the core, and its non-leaf entries in the walk cache of the
die; one that faults keeps nothing. It starts from the walk cache, or, `cold`, at the root. Accesses that find no entry walk
for themselves. -/
def pageWalkOp (die core ctx : Nat) (va : Word) (cold : Bool) (s : State) : State :=
  match findCtx s ctx with
  | none => s
  | some c =>
    if wide va || devOfDie s.pkg die != c.dev then s
    else
      let from_ := if cold then none else cachedTab s.mem die ctx va.toNat
      let top := match from_ with | some e => (e.lvl, e.tab) | none => (3, c.ptroot)
      match walkLevel s c.dev va.toNat top.1 top.2 with
      | .fault _ => s
      | .leaf lva size pa w x dev ksel =>
        let e : TlbEnt := { die := die, core := core, ctx := ctx, va := lva, size := size, pa := pa, w := w, x := x, dev := dev, ksel := ksel }
        { s with mem := keepTables (keepLeaf s.mem e) die ctx va.toNat (tablesOn s c.dev va.toNat top.1 top.2) }

/-- PAGE_WALK (R115, R118). -/
def execPageWalk (walker : Walker) (core ctx : Nat) (va : Word) (s : State) : Out :=
  .next (pageWalkOp walker.die core ctx va walker.cold s)

/-! ### Tiles (R127) -/

/-- A stream command accepted before the `tfree` still holds the handle. -/
def tileHeld (s : State) (ctx h : Nat) : Bool :=
  s.ports.any (fun p => p.ctx == ctx && p.cmds.any (fun c => c.tiles.contains h))

/-- TILE_RELEASE: the last access to a FREEING tile has retired; its contents are discarded and the handle is free. -/
def tileReleaseOp (ctx h : Nat) (s : State) : State :=
  match findTile s ctx h with
  | some t =>
    if t.st = .freeing ∧ tileHeld s ctx h = false then
      modCtx (wipeTile s ctx h) ctx (fun c => { c with tiles := c.tiles.filter (fun t => t.h != h) })
    else s
  | none => s

/-- TILE_RELEASE (R127). -/
def execTileRelease (ctx handle : Nat) (s : State) : Out := .next (tileReleaseOp ctx handle s)

/-! ### HBM (R136, R137, R390, R442 to R445) -/

def findRefresh (s : State) (stack ch : Nat) : Refresh :=
  (s.mem.refresh.find? (fun r => r.stack == stack && r.ch == ch)).getD { stack := stack, ch := ch, owed := 0 }

def setRefresh (s : State) (r : Refresh) : State :=
  let rest := s.mem.refresh.filter (fun x => !(x.stack == r.stack && x.ch == r.ch))
  { s with mem := { s.mem with refresh := r :: rest } }

/-- HBM_PER_BANK_REFRESH: the refresh that falls due is made, or postponed while fewer than eight are owed (R136). -/
def perBankOp (stack ch : Nat) (postpone : Bool) (s : State) : State :=
  let r := findRefresh s stack ch
  if postpone && decide (r.owed < 8) then setRefresh s { r with owed := r.owed + 1 } else s

/-- HBM_PER_BANK_REFRESH (R136). -/
def execHbmPerBankRefresh (stack ch _bank : Nat) (postpone : Bool) (s : State) : Out := .next (perBankOp stack ch postpone s)

/-- HBM_ALL_BANK_REFRESH: with eight owed, all-bank refresh runs until none is owed (R136). -/
def allBankOp (stack ch : Nat) (s : State) : State :=
  let r := findRefresh s stack ch
  if 8 ≤ r.owed then setRefresh s { r with owed := 0 } else s

/-- HBM_ALL_BANK_REFRESH (R136). -/
def execHbmAllBankRefresh (stack ch : Nat) (s : State) : Out := .next (allBankOp stack ch s)

/-- ACTIVATION_ALERT (R137, R444). DESIGN CHOICE (log 60). -/
def activationAlertOp (stack : Nat) (ch bank : BitVec 16) (s : State) : State :=
  event s (srcOf 5 stack 0) 0x0403 0 none none none (natLe 2 ch.toNat ++ natLe 2 bank.toNat)

/-- ACTIVATION_ALERT (R444). -/
def execActivationAlert (stack : Nat) (ch bank : BitVec 16) (s : State) : Out := .next (activationAlertOp stack ch bank s)

/-- The part marks a granule that it cannot correct (R390). -/
def markHw (s : State) (g : Nat) : State :=
  { s with mem := { s.mem with pois := if s.mem.pois.contains g then s.mem.pois else g :: s.mem.pois,
                               hwPois := if s.mem.hwPois.contains g then s.mem.hwPois else g :: s.mem.hwPois } }

/-- An error in a granule of a stack: a corrected one is rewritten and recorded with its place in the stack, and an
uncorrectable one poisons the granule. The channel, bank and row of a granule are the stack's own map, and free values. -/
def hbmError (stack gran : Nat) (fixed : Bool) (s : State) : State :=
  let loc := stackLoc stack (64 * (gran % 2 ^ 30)); let src := srcOf 5 stack 0
  let addr := some (2, locPa s.pkg loc)
  if fixed then
    let f := fun k w => (Config.freeBits w 0 (loc * 4 + k)).toNat
    event s src 0x0401 0 none none addr (natLe 2 (f 0 16) ++ natLe 2 (f 1 16) ++ natLe 4 (f 2 32))
  else event (markHw s (granule loc)) src 0x0410 0 none none addr [] true

/-- An error in the local store of a die (R443): 0x0402 where it is corrected or the clean line fetched again, and otherwise
0x0410 with the granule that `mark` poisons. DEDUCED (log 99). -/
def storeError (die : Nat) (ctx : Option Nat) (addr : Nat × Nat) (fixed : Bool) (mark : State → State) (s : State) : State :=
  if fixed then event s (srcOf 3 die 0) 0x0402 0 ctx none (some addr) []
  else event (mark s) (srcOf 3 die 0) 0x0410 0 ctx none (some addr) [] true

/-- The spill banks hold a register of a hart: it has not left yet, or has not arrived (R53). -/
def inSpill (h : Hart) (reg : Nat) : Bool :=
  match h.st.life with
  | .leaving _ _ | .staged => true
  | .placed => !h.st.valid.getLsbD reg
  | _ => false

/-- A poisoned spill granule poisons the elements of the register that it covers (R389, R443). -/
def poisonReg (reg g : Nat) (h : Hart) : Hart :=
  let p := fun v : VBits => putBits v (512 * g) 512 (2 ^ 512 - 1)
  if h.vlen ≤ 512 * g then h
  else if reg < 64 then { h with vf := { h.vf with pv := h.vf.pv.setIfInBounds reg (p (h.vf.pv.toList.getD reg 0)) } }
  else if reg < 72 then { h with vf := { h.vf with pm := h.vf.pm.setIfInBounds (reg - 64) (p (h.vf.pm.toList.getD (reg - 64) 0)) } }
  else { h with vf := { h.vf with pw := h.vf.pw.setIfInBounds (reg - 72) (p (h.vf.pw.toList.getD (reg - 72) 0)) } }

/-- PATROL_READ of a granule: what its code finds is corrected and recorded, or the granule is poisoned (R390, R442, R443). -/
def patrolReadOp (store : EccStore) (gran : Nat) (res : EccResult) (s : State) : State :=
  let fixed := res == .corrected
  if res = .clean then s
  else match store with
    | .hbm stack => hbmError stack gran fixed s
    | .line stack dirty =>
      let loc := stackLoc stack (64 * (gran % 2 ^ 30))
      storeError (homeDieStack s.pkg loc) none (2, locPa s.pkg loc) (fixed || !dirty) (fun s => markHw s (granule loc)) s
    | .tile ctx h => match findTile s ctx h with
      | none => s
      | some t =>
        if t.size ≤ 64 * gran then s
        else storeError t.die (some ctx) (1, h * 2 ^ 40 + 64 * gran) fixed (fun s => markHw s (granule (tileLoc ctx h (64 * gran)))) s
    | .spill uid reg => match findHart s uid with
      | none => s
      | some h =>
        if !inSpill h reg.val then s
        else storeError h.id.die none (2, (Config.freeBits 41 0 (uid * 2 ^ 20 + reg.val * 2 ^ 10 + gran)).toNat) fixed
          (fun s => modHart s uid (poisonReg reg.val gran)) s

/-- PATROL_READ (R442, R443). -/
def execPatrolRead (store : EccStore) (granule : Nat) (res : EccResult) (s : State) : Out :=
  .next (patrolReadOp store granule res s)

/-- HBM_CHANNEL_LOST (R445). -/
def execHbmChannelLost (stack : Nat) (ch : BitVec 16) (s : State) : Out :=
  .next (event s (srcOf 5 stack 0) 0x0440 3 none none none (natLe 2 ch.toNat))

/-! ### Event records (R393) -/

/-- EVENT_RECORD_CLOSE: an open record is closed 1,000,000 ns after its TIME. -/
def eventRecordCloseOp (src : BitVec 16) (s : State) : State :=
  match (findSrc s src).open_ with
  | none => s
  | some (e, _) => if e.time + 1000000 ≤ (mkEv s src 0 0 none none none []).time then closeOpen s src else s

/-- EVENT_RECORD_CLOSE (R393). -/
def execEventRecordClose (src : BitVec 16) (s : State) : Out := .next (eventRecordCloseOp src s)

/-! ### Package reset (R26, R142, R395, R398) -/

/-- The devices of a mode. -/
def devicesOf (p : Pkg) : List Nat :=
  match p.mode with
  | .one => [0]
  | .half => [0, 1]
  | .die => (List.range 64).filter (fun d => d != p.hdie)

/-- Writes BASE and LOGN of a device's event area, which otherwise reads zero (R395). -/
def areaInit (s : State) (dev : Nat) : State :=
  let base := (natLe 8 (evArea s.pkg + 0x800000)).zipIdx.filter (fun p => p.1 != 0)
  (base ++ [((0x11 : Byte), 8)]).foldl (fun (st : State) (p : Byte × Nat) => devWrite st dev (evArea s.pkg + p.2) [p.1]) s

/-- The mode that the reset setting names (R26). -/
def resetMode (v : Option (BitVec 2)) : DMode :=
  match v with
  | some 1 => .half
  | some 2 => .die
  | _ => .one

/-- The package reset: the board's settings, the fuses and the FATAL records of the memory bridge stay, every controller
makes a new device key, and memory is zero-filled. DEDUCED (log 64). -/
def packageResetOp (s : State) : State :=
  let p := s.pkg
  let p1 := { Pkg.reset with hdie := p.hdie, fitted := p.fitted, fusedOff := p.fusedOff, mode := resetMode p.setMode,
                             setMode := p.setMode, setOvl := p.setOvl, wdp := p.wdp, hostAddr := p.hostAddr, fatal := p.fatal }
  let s1 := { State.bare with pkg := p1, agenda := s.agenda, free := s.free, fresh := s.fresh,
                              mem := { Mem.reset with keyGen := s.mem.keyGen + 1 } }
  (devicesOf p1).foldl areaInit s1

/-- PACKAGE_RESET (R142). -/
def execPackageReset (s : State) : Out := .next (packageResetOp s)

/-- FATAL_RESET: the package resets within 1 ms of a FATAL event (R398). -/
def fatalResetOp (s : State) : State := if s.pkg.fatalAt.isSome then packageResetOp s else s

/-- FATAL_RESET (R398). -/
def execFatalReset (s : State) : Out := .next (fatalResetOp s)

/-- MODE_CHANGE_DONE: all HBM reads as zero, the event areas of the new mode are set up, and CHG returns to 0 (R26, R395).
DEDUCED (log 29). -/
def modeChangeDoneOp (s : State) : State :=
  match s.pkg.chg with
  | none => s
  | some _ =>
    let m := { s.mem with cells := [], log := [], keyOf := [], pois := [], hwPois := [], tlb := [], wcache := [], ilines := [], ovl := [] }
    let s1 := mapHarts { s with mem := m, pkg := { s.pkg with chg := none } } (fun h => { h with own := [], snap := [] })
    (devicesOf s1.pkg).foldl areaInit s1

/-- MODE_CHANGE_DONE (R26). -/
def execModeChangeDone (s : State) : Out := .next (modeChangeDoneOp s)

end Sys2Proof.Machine
end

