-- ==== Sys2Proof/Machine/Fetch.lean ====
section
/-! DEFINITION. Instruction fetch: code lines, their translation, the instruction cache and the line checks (R144 to R150,
R415, R488). -/

namespace Sys2Proof.Machine

/-- The address of a line of code. -/
def lineAddr (line : Word) : Word := line <<< 6

/-- The translation of a line for a fetch (R150, R415). -/
def fetchChk (s : State) (h : Hart) (line : Word) : Chk := globalCheck s h (lineAddr line) 64 .fetch

/-- The line as memory holds it at its home. A poisoned line has no stated bytes and reads as a free value. -/
def memLine (s : State) (a : Acc) : BitVec 512 :=
  if homePois s.mem a.loc 64 then Config.freeBits 512 s.free a.loc
  else BitVec.ofNat 512 (leNat (homeBytes s a.key a.loc 64))

/-- The line that the hart's core holds in its instruction cache. -/
def cachedLine (s : State) (h : Hart) (line : Word) : Option (BitVec 512) :=
  (s.mem.ilines.find? (fun l => l.die == h.id.die && l.core == h.id.core && l.ctx == h.id.ctx && l.line == line.toNat)).map (·.bits)

/-- The line that a fetch returns: the copy in the cache, or memory (R150). DEDUCED (log 62). -/
def fetchLine (s : State) (h : Hart) (line : Word) (a : Acc) : BitVec 512 := (cachedLine s h line).getD (memLine s a)

/-- The instruction word of a slot (R144). -/
def slotWord (b : BitVec 512) (slot : Nat) : BitVec 96 := b.extractLsb' (96 * slot) 96

/-- TGT[k] and CEND[k] of a line (R145). -/
def tgtBit (b : BitVec 512) (k : Nat) : Bool := b.getLsbD (480 + k)
def cendBit (b : BitVec 512) (k : Nat) : Bool := b.getLsbD (485 + k)

/-- The PAR field of a line that holds these slot bits, in its place (R145). -/
def lineParity (code : BitVec 512) : BitVec 512 :=
  (List.range 8).foldl (fun (a : BitVec 512) j =>
    if parity 60 (code.extractLsb' (60 * j) 60).toNat then a ||| BitVec.twoPow 512 (494 + j) else a) 0

/-- The lowest j whose parity fails (R145, R147). DEDUCED (log 67). -/
def parityBad (b : BitVec 512) : Option Nat :=
  (List.range 8).find? (fun j => parity 60 (b.extractLsb' (60 * j) 60).toNat != b.getLsbD (494 + j))

/-- The index of the line bit that the second and third checks of R147 find. -/
def lineFault (b : BitVec 512) : Option Nat :=
  match (List.range' 502 10).find? b.getLsbD with
  | some i => some i
  | none => (List.range' 490 3).find? (fun i => b.getLsbD i && b.getLsbD (i + 1))

/-- The checked copy of a line that control has not left (R147). DEDUCED (log 67). -/
def heldLine (h : Hart) (line : Word) : Option (BitVec 512) :=
  match h.st.line with
  | some (l, b) => if l = line then some b else none
  | none => none

/-- What a hart finds at a line of code. -/
inductive LineRes where
  /-- A line that may be executed, with its bits. -/
  | ok (b : BitVec 512)
  /-- The translation of the line faults. -/
  | mem (code : Nat)
  /-- A parity of the line fails, and the line is fetched again first. -/
  | refetch
  /-- A line check finds this line bit. -/
  | bad (b : BitVec 512) (i : Nat)
  deriving DecidableEq, Repr

/-- The line checks, which are made when control enters the line (R147). -/
def lineIn (s : State) (line : Word) : LineRes :=
  match heldLine s.hart line with
  | some b => .ok b
  | none => match fetchChk s s.hart line with
    | .fault c => .mem c
    | .ok a =>
      let b := fetchLine s s.hart line a
      if (parityBad b).isSome then .refetch
      else match lineFault b with
        | some i => .bad b i
        | none => .ok b

/-- Control is in a line. -/
def enterLine (line : Word) (b : BitVec 512) (h : Hart) : Hart := { h with st := { h.st with line := some (line, b) } }

/-- The focus hart at its slot, in the line of that slot when the line passes its checks. -/
def atLine (s : State) : State :=
  match lineIn s (lineOf s.hart.pc) with
  | .ok b => s.onHart (enterLine (lineOf s.hart.pc) b)
  | _ => s

/-- The line is kept in the instruction cache of the hart's core. -/
def keepLine (s : State) (h : Hart) (line : Word) (b : BitVec 512) : State :=
  let e : ILine := { die := h.id.die, core := h.id.core, ctx := h.id.ctx, line := line.toNat, bits := b }
  let rest := s.mem.ilines.filter (fun l => !(l.die == e.die && l.core == e.core && l.ctx == e.ctx && l.line == e.line))
  { s with mem := { s.mem with ilines := e :: rest } }

/-- The line leaves the instruction cache of the hart's core. -/
def dropLine (s : State) (h : Hart) (line : Word) : State :=
  let keep := fun l : ILine => !(l.die == h.id.die && l.core == h.id.core && l.ctx == h.id.ctx && l.line == line.toNat)
  { s with mem := { s.mem with ilines := s.mem.ilines.filter keep } }

/-- A line that the focus hart is about to execute has a parity mismatch and is fetched again from memory. A good copy
is used, and recorded; a second mismatch is the line-parity trap (R147). -/
def refetchLine (line : Word) (s : State) : State :=
  let h := s.hart
  if h.st.life ≠ .placed then s
  else match fetchChk s h line with
    | .fault c => takeTrap s c (lineAddr line)
    | .ok a =>
      if parityBad (fetchLine s h line a) = none then s
      else
        let b := memLine s a
        match parityBad b with
        | some j => takeTrap s 0x0007 (BitVec.ofNat 64 j)
        | none => keepLine (event s h.src 0x0901 0 none none none []) h line b

/-- LINE_REFETCH of the line that holds the focus hart's next slot. -/
def lineRefetchOp (s : State) : State := refetchLine (lineOf s.hart.pc) s

/-- LINE_REFETCH (R147). -/
def execLineRefetch (h : Nat) (s : State) : Out := .next (withHart s h lineRefetchOp)

/-- The code of DATA byte 0 of 0x0902 (R488). -/
def pathFaultCode : FetchPathFault → Nat
  | .translation => 1
  | .parity => 2
  | .cacheError => 3

/-- FETCH_PATH_REFETCH: a line that was fetched and never entered met a fault. The copy is dropped, and the line is fetched
again from memory (R148, R488). -/
def fetchPathOp (line : Word) (why : FetchPathFault) (s : State) : State :=
  let h := s.hart
  let s1 := dropLine s h line
  let ok := match fetchChk s1 h line with
    | .fault _ => none
    | .ok a => if parityBad (memLine s1 a) = none then some (memLine s1 a) else none
  let s2 := match ok with | some b => keepLine s1 h line b | none => s1
  event s2 h.src 0x0902 0 (some h.id.ctx) none (some (3, (lineAddr line).toNat)) (natLe 1 (pathFaultCode why) ++ natLe 1 (b2n ok.isNone))

/-- FETCH_PATH_REFETCH (R488). -/
def execFetchPathRefetch (h : Nat) (line : Word) (why : FetchPathFault) (s : State) : Out :=
  .next (withHart s h (fetchPathOp line why))

end Sys2Proof.Machine
end

