-- ==== Sys2Proof/Machine/Streams.lean ====
section
/-! DEFINITION. Streams: majors 0xB0 and 0xB1, the stream dispatcher, completion rings and user-level delivery (R315 to
R332). -/

namespace Sys2Proof.Machine

/-! ### The descriptor (R317, R318) -/

def cSrc (d : Nat) : Nat := bits d 63 0
def cDst (d : Nat) : Nat := bits d 127 64
def cRing (d : Nat) : Nat := bits d 191 128
def cSsp (d : Nat) : Nat := bits d 193 192
def cDsp (d : Nat) : Nat := bits d 195 194
def cEsz (d : Nat) : Nat := bits d 198 196
def cNf (d : Nat) : Nat := bits d 201 199
def cDir (d : Nat) : Bool := d.testBit 202
def cMc (d : Nat) : Bool := d.testBit 203
def cUi (d : Nat) : Bool := d.testBit 204
def cMask (d : Nat) : Nat := bits d 231 224
def cTag (d : Nat) : Nat := bits d 703 640

/-- CNT0 to CNT3. -/
def cCnt (d k : Nat) : Nat := bits d (256 + 32 * k + 31) (256 + 32 * k)

/-- The first bits of the source and of the destination strides. -/
def srcStr : Nat := 384
def dstStr : Nat := 512

def cStr (d at_ k : Nat) : Int := sextInt 32 (bits d (at_ + 32 * k + 31) (at_ + 32 * k))

/-- NE. -/
def cNe (d : Nat) : Nat := cCnt d 0 * cCnt d 1 * cCnt d 2 * cCnt d 3

/-- `paddr` of R318. -/
def paddr (d base at_ e : Nat) : Nat :=
  let i0 := e % cCnt d 0; let i1 := e / cCnt d 0 % cCnt d 1
  let i2 := e / (cCnt d 0 * cCnt d 1) % cCnt d 2; let i3 := e / (cCnt d 0 * cCnt d 1 * cCnt d 2)
  let v := (base : Int) + i0 * cStr d at_ 0 + i1 * cStr d at_ 1 + i2 * cStr d at_ 2 + i3 * cStr d at_ 3
  (v % (2 ^ 64 : Int)).toNat

/-- Bytes of an element. -/
def cW (d : Nat) : Nat := 2 ^ cEsz d

/-- The bases of the destinations: one, or one for each multicast target (R321). -/
def cBases (d : Nat) : List Nat :=
  if cMc d then ((List.range 8).filter (cMask d).testBit).map (fun j => cDst d + j * 2 ^ 40) else [cDst d]

/-- The addresses that record `e` of a memory pattern takes up: one element, or its fields on the vector port. -/
def recAddrs (d base at_ e : Nat) : List Nat := (List.range (cNf d + 1)).map (fun f => paddr d base at_ e + f * cW d)

/-- The source addresses of record `e`; none for registers. -/
def srcAddrs (vp : Bool) (d e : Nat) : List Nat := if vp && cDir d then [] else recAddrs d (cSrc d) srcStr e

/-- The destination addresses of record `e`, target by target; none for registers. -/
def dstAddrs (vp : Bool) (d e : Nat) : List (List Nat) :=
  if vp && !cDir d then [] else (cBases d).map (fun b => recAddrs d b dstStr e)

/-! ### Rings (R328) -/

/-- A ring descriptor breaks R328. -/
def ringBad (b : List Byte) (dev : Bool) : Bool :=
  let n := fld b 8 4
  dev || !zeroAt b 12 4 || n == 0 || decide (16 < n) || fld b 0 8 % (32 * 2 ^ n) != 0

/-- The check of a completion ring's descriptor or slot, 32 bytes long: the requests carry the device key, whatever the
leaf's KSEL (R139). DEDUCED (log 91). -/
def ringCheck (s : State) (ea : Word) (u : Use) : Chk :=
  let h := s.hart
  if wide ea then .fault 0x0008
  else if ea.toNat % 32 ≠ 0 then .fault 0x0009
  else match translate s h.id.die h.id.core h.id.ctx ea.toNat with
    | .fault c => .fault c
    | .leaf va size pa w _ dev _ =>
      if u = .write && !w then .fault 0x000C
      else match (findCtx s h.id.ctx).bind (fun c => physLoc s.pkg c.dev (pa + (ea.toNat - va) % size)) with
        | none => .fault 0x000D
        | some l => .ok { loc := l, key := .device, dev := dev }

/-- The first reason of R324 that applies, or 0. -/
def strmReason (d : Nat) (vp pe : Bool) (room : Nat) (ring : Bool) : Nat :=
  let zero := fun at_ => (List.range 4).all (fun k => cStr d at_ k == 0)
  if bits d 1023 704 ≠ 0 ∨ bits d 223 205 ≠ 0 ∨ bits d 255 232 ≠ 0 then 1
  else if (List.range 4).any (fun k => cCnt d k == 0) ∨ 2 ^ 32 ≤ cNe d then 2
  else if 5 ≤ cEsz d ∨ (vp = true ∧ 2 < cEsz d) then 3
  else if cMc d && (cDsp d != 1 || cMask d == 0 || decide (0xFFF < bits (cDst d) 51 40 + 7) || vp) then 4
  else if !vp && (cNf d != 0 || cDir d) || pe && cDir d
    || vp && (if cDir d then cSrc d != 0 || !zero srcStr else cDst d != 0 || !zero dstStr) then 5
  else if vp && decide (room < cNe d) then 6
  else if ring then 7
  else 0

/-! ### Places of a copy -/

/-- The state as an engine on a die sees it when it checks an address of a context's space (R113 to R118): the engine
has a translation of its own, beside those of the die's cores. -/
def asEngine (s : State) (ctx die space : Nat) : State :=
  let id : HartId := { Hart.reset.id with ctx := ctx, die := die, core := 64 }
  { s with hart := { Hart.reset with id := id, vc := { VCtl.reset with vmt := BitVec.ofNat 2 space } } }

/-- Where an element of a copy lies. A tile that the command held at its acceptance serves it to the end (R127). -/
def engPlace (s : State) (ctx die : Nat) (tiles : List Nat) (space a w : Nat) (u : Use) : Place2 :=
  let free := fun h => match findTile s ctx h with
    | some t => t.st == .freeing && tiles.contains h
    | none => false
  if space = 1 ∧ free (bits a 51 40) = true ∧ a < 2 ^ 52 ∧ a % w = 0 then
    match findTile s ctx (bits a 51 40) with
    | some t => if t.size < a % 2 ^ 40 + w then .bad 0x000F
                else .mem { loc := tileLoc ctx (bits a 51 40) (a % 2 ^ 40), key := .device, dev := false }
    | none => .bad 0x000E
  else elemPlace (asEngine s ctx die space) (BitVec.ofNat 64 a) w u

/-- The hart that issued a command. -/
def portHart (s : State) (p : Port) (c : Cmd) : Option Hart :=
  (allHarts s).find? (fun h => h.id.launch == c.launch && h.id.flat == p.flat && !h.id.partner)

/-- The die whose dispatcher or Millrace runs a command: the one that holds its port (R315). -/
def cmdDie (p : Port) (c : Cmd) : Nat :=
  match c.fetch with
  | some f => f.2.1
  | none => p.die

/-- The locations of a list of elements of `w` bytes, up to the first that does not lie in memory. -/
def elemLocs (s : State) (ctx die : Nat) (tiles : List Nat) (space w : Nat) (u : Use) : List Nat → List Nat
  | [] => []
  | a :: r => match engPlace s ctx die tiles space a w u with
    | .mem x => x.loc :: elemLocs s ctx die tiles space w u r
    | _ => []

/-- The bytes a command reads and writes (R285). -/
def copyLocs (s : State) (ctx die : Nat) (tiles : List Nat) (vp : Bool) (d : Nat) : List Nat × List Nat :=
  let w := cW d; let es := List.range (cNe d)
  let bytes := fun (l : List Nat) => l.flatMap (fun o => (List.range w).map (o + ·))
  let src := elemLocs s ctx die tiles (cSsp d) w .read (es.flatMap (srcAddrs vp d))
  let dsts := (List.range (dstAddrs vp d 0).length).map (fun t =>
    elemLocs s ctx die tiles (cDsp d) w .write (es.flatMap (fun e => (dstAddrs vp d e).getD t [])))
  -- registers and remote places have no bytes here, and the other side counts whole
  let most := if src.isEmpty then w * cNe d * 16 else src.length
  let m := if decide (2 ≤ cDsp d) || (dstAddrs vp d 0).isEmpty then most else dsts.foldl (fun a l => min a l.length) most
  (bytes (src.take m), dsts.flatMap (fun l => bytes (l.take m)))

/-! ### Issue (R324) -/

/-- Reads a structure of `n` bytes as a load does, once its check has answered; poison in it is consumed. -/
def withChecked (s : State) (c : Chk) (ea : Word) (n : Nat) (k : State → List Byte → Bool → State) : State :=
  match c with
  | .fault c => memTrap s c ea
  | .ok a =>
    if a.dev then
      match ovlFires s s.hart a.loc n with
      | some r => ovlTrap s ea r
      | none => let r := devLoad s a n; if r.2.2 then poisonKill r.1 else k r.1 r.2.1 true
    else let r := plainRead s a.key a.loc n; if r.2.2 then poisonKill r.1 else k r.1 r.2.1 false

/-- Reads a structure of `n` bytes at an address aligned to `n`. -/
def withStruct (s : State) (ea : Word) (n : Nat) (k : State → List Byte → Bool → State) : State :=
  withChecked s (globalCheck s s.hart ea n .read) ea n k

/-- Reads a ring descriptor. -/
def withRing (s : State) (ea : Word) (k : State → List Byte → Bool → State) : State :=
  withChecked s (ringCheck s ea .read) ea 32 k

/-- The port of a context, flat index and number (R315). -/
def findPort (s : State) (ctx flat port : Nat) : Option Port :=
  s.ports.find? (fun p => p.ctx == ctx && p.flat == flat && p.port == port)

/-- The commands of a hart's port, those whose record is not yet appended. -/
def portCmds (s : State) (ctx flat port : Nat) : List Cmd := ((findPort s ctx flat port).map (·.cmds)).getD []

/-- The hart's commands at its vector port that have neither completed nor faulted (R323). -/
def vportCmds (s : State) (h : Hart) : List Cmd :=
  (portCmds s h.id.ctx h.id.flat 16).filter (fun c =>
    c.launch == h.id.launch && (match c.st with | .finished _ _ _ => false | _ => true))

def modPort (s : State) (ctx flat port die : Nat) (f : Port → Port) : State :=
  let d : Port := { ctx := ctx, flat := flat, port := port, die := die, cmds := [] }
  let l := upsert (fun p => p.ctx == ctx && p.flat == flat && p.port == port) d f s.ports
  { s with ports := l }

/-- A hart's ports pass to the dispatcher of the die where it is placed (R315). -/
def movePorts (s : State) (h : Hart) (die : Nat) : State :=
  let l := updWhere (fun p : Port => p.ctx == h.id.ctx && p.flat == h.id.flat && decide (p.port ≤ 16)) (fun p => { p with die := die }) s.ports
  { s with ports := l }

/-- The tile handles a command names that are allocated (R127). -/
def heldTiles (s : State) (ctx d : Nat) : List Nat :=
  let hs := (if cSsp d = 1 then [bits (cSrc d) 51 40] else []) ++ (if cDsp d = 1 then (cBases d).map (fun b => bits b 51 40) else [])
  hs.filter (fun h => match findTile s ctx h with | some t => t.st == .allocated | none => false)

/-- A command as it is accepted at a port. -/
def newCmd (s : State) (h : Hart) (d : Nat) (vp : Bool) (vr : Nat) (vi : Option Nat) : Cmd :=
  let ts := heldTiles s h.id.ctx d
  let ls := copyLocs s h.id.ctx h.id.die ts vp d
  { cid := s.fresh, launch := h.id.launch, desc := BitVec.ofNat 1024 d, st := .accepted, vr := vr, vi := vi, g := grp h,
    idx := match vi with | some v => (List.range (cNe d)).map (fun j => elem h v j 32) | none => [],
    ov := h.own.filter (·.ov), snap := h.snap, tiles := ts, got := none, rids := [], writes := [], src := ls.1,
    dst := ls.2, fetch := none, broken := [] }

/-- Accepts a command and retires the `strm`. -/
def acceptCmd (s : State) (port d : Nat) (vp : Bool) (vr : Nat) (vi : Option Nat) : State :=
  let h := s.hart
  let c := newCmd s h d vp vr vi
  let s1 := modPort s h.id.ctx h.id.flat port h.id.die (fun p => { p with die := h.id.die, cmds := p.cmds ++ [c] })
  retire s { s1 with fresh := s1.fresh + 1 }

/-- The checks of the groups of a `strm.v` (R324 step 3). -/
def strmGroups (h : Hart) (vr : Nat) (vi : Option Nat) (d : Nat) : Check :=
  let n := cNf d + 1
  firstFail [ckVl h [], ckGroup h vr 26 n, (vi.bind (fun v => ckGroup h v 64)),
    (vi.bind (fun v => if cDir d then none else ckBit (overlaps h vr n v 1) 64))]

/-- `strm` and `strm.v` (R324). The vector port is port 16. -/
def strmOp (vp : Option (Nat × Option Nat)) (port : Nat) (xs1 : XReg) (s : State) : State :=
  consume s [xs1] fun s => afterReleases s fun s =>
    withStruct s (s.x xs1) 128 fun s b _ =>
      let d := leNat b
      withRing s (BitVec.ofNat 64 (cRing d)) fun s rb rdev =>
        let h := s.hart
        let vr := (vp.map (·.1)).getD 0; let vi := vp.bind (·.2)
        match if vp.isSome then strmGroups h vr vi d else none with
        | some (c, v) => takeTrap s c v
        | none =>
          match strmReason d vp.isSome vi.isSome (grp h * (h.vlen / (8 * cW d))) (ringBad rb rdev) with
          | 0 =>
            let ne := cNe d
            if (match vi with | some v => (List.range ne).any (fun j => elemPois h v j 32) | none => false) then poisonKill s
            else if (portCmds s h.id.ctx h.id.flat port).length < (if vp.isSome then 4 else 8) then
              acceptCmd s port d vp.isSome vr vi
            else asleepOn s (.portRoom port)
          | r => takeTrap s 0x0017 (BitVec.ofNat 64 r)

/-- `strm` (R324). -/
def execStrm (xs1 : XReg) (port : Fin 16) (s : State) : Out := .next (strmOp none port.val xs1 s)

/-- `strm.v` (R324). -/
def execStrmV (xs1 : XReg) (vr : VReg) (vi : Option VReg) (s : State) : Out :=
  .next (strmOp (some (vr.val, vi.map (·.val))) 16 xs1 s)

/-! ### The dispatcher (R315, R319, R322) -/

/-- How one record of a copy ends. -/
inductive Adv where
  | done
  | wait
  | fault (code : Nat) (addr : Nat)
  deriving DecidableEq, Repr

/-- A strong access by an engine's party: the check of R440 records an event and never traps, and the access is kept. -/
def engStrong (s : State) (src : BitVec 16) (ctx flat party loc n va : Nat) : State :=
  let s1 := match (if s.pkg.setOvl then s.mem.ovl.find? (fun r => r.line == loc / 128) else none) with
    | some r => if r.party != party && ovlDiffers r loc n then
        event s src 0x0404 0 (some ctx) (some flat) (some (0, va)) (natLe 2 r.ctx ++ natLe 2 0 ++ natLe 4 r.flat)
      else s
    | none => s
  let r : OvlRec := { line := loc / 128, lo := loc % 128, len := n, ctx := ctx, flat := flat, party := party, at_ := s1.mem.phase }
  { s1 with mem := { s1.mem with ovl := r :: s1.mem.ovl, phase := s1.mem.phase + 1 } }

/-- SRC of a stream dispatcher (R383). -/
def srcStream (die : Nat) : BitVec 16 := srcOf 1 die 0

/-- The bytes of a range on which a copy's strong access races with one that is not ordered with its hart (R283). -/
def copyRaced (s : State) (p : Port) (c : Cmd) (loc n : Nat) : List Nat :=
  racedBytes s { (portHart s p c).getD Hart.reset with own := [] } loc n

/-- A strong access of a copy to a DEV page: raced bytes are undefined (R283). -/
def copyStrong (s : State) (p : Port) (c : Cmd) (x : Acc) (n va : Nat) : State :=
  let die := cmdDie p c
  scramble (engStrong s (srcStream die) p.ctx p.flat (copyParty c.cid) x.loc n va) x.key x.loc (copyRaced s p c x.loc n)

/-- What the command reads at a place in memory (R285, R319): its bytes, or none where they are poisoned. -/
def copyRead (s : State) (p : Port) (c : Cmd) (a w : Nat) (x : Acc) : State × Option (List Byte) :=
  if x.dev then
    let s1 := copyStrong s p c x w a
    (s1, if homePois s.mem x.loc w then none else some (homeBytes s1 x.key x.loc w))
  else
    let h := { Hart.reset with own := c.ov, snap := c.snap }
    let bs := (List.range w).map (fun i =>
      if c.broken.contains (x.loc + i) then Config.freeBits 8 s.free (x.loc + i) else viewByte s h x.key (x.loc + i))
    (s, if viewPois s h x.loc w then none else some bs)

/-- Reads the pieces of a record in memory, in order. -/
def copyReads (p : Port) (c : Cmd) (w : Nat) : List (Nat × Acc) → State → List Byte → State × Sum Nat (List Byte)
  | [], s, acc => (s, .inr acc)
  | (a, x) :: r, s, acc => match copyRead s p c a w x with
    | (s1, some bs) => copyReads p c w r s1 (acc ++ bs)
    | (s1, none) => (s1, .inl a)

/-- A write of a copy in memory: on a DEV page it is performed at once, and elsewhere it waits for the record. -/
def copyWrite (s : State) (p : Port) (c : Cmd) (a : Nat) (x : Acc) (bs : List Byte) : State × Cmd :=
  if x.dev then
    let s1 := strongPut (copyStrong s p c x bs.length a) x.key x.loc bs
    (scramble s1 x.key x.loc (copyRaced s p c x.loc bs.length), c)
  else (s, { c with writes := c.writes ++ bs.zipIdx.map (fun b => (x.loc + b.2, b.1, x.key)) })

/-- Sends one request for each remote piece of a record, and waits for them. -/
def sendPieces (s : State) (p : Port) (c : Cmd) (op : BitVec 8) (ps : List (Nat × RemEnt × Nat × List Byte)) : State × Cmd :=
  let base := s.fresh * 2 ^ 24
  let s1 := ps.zipIdx.foldl (fun st q =>
    let e := q.1.2.1
    sendReq st e.port e.addr6 op e.rctx (BitVec.ofNat 64 (e.rbase + q.1.2.2.1)) q.1.2.2.2 false (base + q.2) p.ctx)
    { s with fresh := s.fresh + 1 }
  (s1, { c with rids := (List.range ps.length).map (base + ·) })

/-- The answers of the record's requests: a fault at the piece of some index, still waiting, or the data. -/
def pieceAnswers (s : State) (rids : List Nat) (write : Bool) : Sum Nat (Option (List Byte)) :=
  match rids.zipIdx.find? (fun r => match answerOf s r.1 with | some a => a.data.isNone | none => false) with
  | some r => .inl r.2
  | none =>
    if write then .inr (if rids.all (fun r => (answerOf s r).isSome) then some [] else none)
    else
      let as := rids.filterMap (answerOf s)
      .inr (if as.length = rids.length then some (as.flatMap (fun a => a.data.getD [])) else none)

/-- The first bad place of a record, with the record's first address on its side. -/
def firstBad (srcs : List (Nat × Place2)) (dsts : List (List (Nat × Place2))) : Option (Nat × Nat) :=
  (srcs :: dsts).findSome? (fun l => l.findSome? (fun p => match p.2 with
    | .bad c => some (faultCode c, (l.map (·.1)).headD 0)
    | _ => none))

/-- The places in memory of a list. -/
def memPlaces (l : List (Nat × Place2)) : List (Nat × Acc) :=
  l.filterMap (fun p => match p.2 with | .mem x => some (p.1, x) | _ => none)

/-- The remote places of a list, with the offset at the remote home and a payload. -/
def remPlaces (l : List (Nat × Place2)) (pay : Nat → List Byte) : List (Nat × RemEnt × Nat × List Byte) :=
  l.zipIdx.filterMap (fun p => match p.1.2 with
    | .remote _ _ off e => some (p.1.1, e, off, pay p.2)
    | _ => none)

/-- The destination elements that record `e` of a load fills (R322). -/
def recTargets (c : Cmd) (ne e : Nat) : List Nat :=
  if c.vi.isSome then (List.range ne).filter (fun j => c.idx.getD j 0 == e) else [e]

/-- Writes fields to the registers of the hart, and of its redundant partner (R461). DEDUCED (log 45). -/
def copyRegs (s : State) (p : Port) (c : Cmd) (js : List Nat) (d : Nat) (data : List Byte) : State :=
  let w := cW d
  mapHarts s (fun h =>
    if h.id.launch = c.launch ∧ h.id.flat = p.flat then
      js.foldl (fun h j => forN (cNf d + 1) h (fun f h => setElem h (c.vr + f * c.g) j (8 * w) (fld data (f * w) w))) h
    else h)

/-- The register fields that record `e` of a store reads: the bytes, and the first poisoned field. -/
def regFields (s : State) (p : Port) (c : Cmd) (d e : Nat) : List Byte × Option Nat :=
  match portHart s p c with
  | none => (List.replicate ((cNf d + 1) * cW d) 0, none)
  | some h =>
    let fs := List.range (cNf d + 1)
    (fs.flatMap (fun f => natLe (cW d) (elem h (c.vr + f * c.g) e (8 * cW d))),
      fs.find? (fun f => elemPois h (c.vr + f * c.g) e (8 * cW d)))

/-- Writes the data of a record to its destinations. -/
def putRecord (s : State) (p : Port) (c : Cmd) (e d : Nat) (vp : Bool) (dsts : List (List (Nat × Place2))) (data : List Byte) :
    State × Cmd × Adv :=
  let w := cW d; let flat := dsts.flatMap id
  if vp && !cDir d then (copyRegs s p c (recTargets c (cNe d) e) d data, { c with got := none, rids := [] }, .done)
  else
    -- the fields of a record lie next to each other, and go out in one packet
    let rs := (remPlaces flat (fun _ => data)).take 1
    if rs.isEmpty then
      let r := dsts.foldl (fun (a : State × Cmd) t => (memPlaces t).zipIdx.foldl
        (fun a q => copyWrite a.1 p a.2 q.1.1 q.1.2 (slice data (q.2 * w) w)) a) (s, c)
      (r.1, { r.2 with got := none, rids := [] }, .done)
    else if c.rids.isEmpty then
      let r := sendPieces s p { c with got := some data } 3 rs
      (r.1, r.2, .wait)
    else match pieceAnswers s c.rids true with
      | .inl _ => (s, c, .fault 11 ((flat.map (·.1)).headD 0))
      | .inr none => (s, c, .wait)
      | .inr (some _) => (s, { c with got := none, rids := [] }, .done)

/-- One record of a copy (R319, R322): its checks, its reads, and then its writes. A fault names the element's address, the
first of the record's on its side (R326). -/
def copyStep (s : State) (p : Port) (c : Cmd) (e : Nat) : State × Cmd × Adv :=
  let d := c.desc.toNat; let vp := p.port == 16; let w := cW d; let die := cmdDie p c
  let skip := vp && !cDir d && (recTargets c (cNe d) e).isEmpty
  let srcs := (srcAddrs vp d e).map (fun a => (a, engPlace s p.ctx die c.tiles (cSsp d) a w .read))
  let dsts := (dstAddrs vp d e).map (fun t => t.map (fun a => (a, engPlace s p.ctx die c.tiles (cDsp d) a w .write)))
  let fresh := c.rids.isEmpty && c.got.isNone
  if skip then (s, c, .done)
  else match (if fresh then firstBad srcs dsts else none) with
    | some (code, a) => (s, c, .fault code a)
    | none =>
      match c.got with
      | some data => putRecord s p c e d vp dsts data
      | none =>
        if vp && cDir d then
          match regFields s p c d e with
          | (_, some _) => (s, c, .fault 9 (((dstAddrs vp d e).getD 0 []).headD 0))
          | (data, none) => putRecord s p c e d vp dsts data
        else
          let rs := remPlaces srcs (fun _ => natLe 4 w)
          if rs.isEmpty then
            match copyReads p c w (memPlaces srcs) s [] with
            | (s1, .inl _) => (s1, c, .fault 9 ((srcAddrs vp d e).headD 0))
            | (s1, .inr data) => putRecord s1 p c e d vp dsts data
          else if c.rids.isEmpty then
            let r := sendPieces s p c 1 rs
            (r.1, r.2, .wait)
          else match pieceAnswers s c.rids false with
            | .inl _ => (s, c, .fault 11 ((srcs.map (·.1)).headD 0))
            | .inr none => (s, c, .wait)
            | .inr (some data) => putRecord s p { c with rids := [], got := some data } e d vp dsts data

/-- The end of a load into registers: the elements whose record lies beyond the pattern become zero (R322). -/
def copyTail (s : State) (p : Port) (c : Cmd) : State :=
  let d := c.desc.toNat; let ne := cNe d
  if p.port = 16 ∧ cDir d = false ∧ c.vi.isSome = true then
    copyRegs s p c ((List.range ne).filter (fun j => decide (ne ≤ c.idx.getD j 0))) d []
  else s

/-- Runs up to `n` further records of a running command. -/
def runCopy (p : Port) : Nat → State → Cmd → State × Cmd
  | 0, s, c => (s, c)
  | n + 1, s, c => match c.st with
    | .running e => match copyStep s p c e with
      | (s1, c1, .wait) => (s1, c1)
      | (s1, c1, .fault code a) => (s1, { c1 with st := .finished e code (BitVec.ofNat 64 a), got := none, rids := [] })
      | (s1, c1, .done) =>
        if cNe c.desc.toNat ≤ e + 1 then (copyTail s1 p c1, { c1 with st := .finished (e + 1) 0 0 })
        else runCopy p n s1 { c1 with st := .running (e + 1) }
    | _ => (s, c)

/-- Replaces the head command of a port. -/
def setHead (s : State) (p : Port) (c : Cmd) : State :=
  modPort s p.ctx p.flat p.port p.die (fun q => { q with cmds := c :: q.cmds.drop 1 })

/-- STREAM_START: the head command of a port starts, or goes on, by up to `n` records (R315). -/
def streamStartOp (ctx flat port n : Nat) (s : State) : State :=
  match findPort s ctx flat port with
  | none => s
  | some p => match p.cmds with
    | [] => s
    | c :: _ =>
      if c.st = .accepted ∧ (findSrc s (srcStream (cmdDie p c))).fenced = true then s else
      let c1 := if c.st = .accepted then { c with st := .running 0 } else c
      let r := runCopy p n s c1
      setHead r.1 p r.2

/-- STREAM_START (R315). -/
def execStreamStart (ctx flat port n : Nat) (s : State) : Out := .next (streamStartOp ctx flat port n s)

/-! ### Records (R326, R327, R329) -/

/-- The writes of a copy take their place in the coherence order (R279); clean data over a whole granule clear its
mark (R388). Answers the numbers of the writes. DESIGN CHOICE (log 43). -/
def logCopy (s : State) (c : Cmd) : State × List Nat :=
  let gs := (c.writes.map (fun w => granule w.1)).eraseDups
  let whole := gs.filter (fun g => (List.range 64).all (fun i => c.writes.any (fun w => w.1 == 64 * g + i)))
  let s0 := { s with mem := clearPois s.mem whole }
  c.writes.foldl (fun (a : State × List Nat) w =>
    let b := if c.broken.contains w.1 then Config.freeBits 8 a.1.free w.1 else w.2.1
    let s1 := putHome a.1 w.2.2 w.1 [b] false
    let m := s1.mem
    let r : WRec := { wid := m.nextWid, loc := w.1, byte := b, pois := homePois m w.1 1, key := w.2.2, strong := false, pubs := [] }
    ({ s1 with mem := { m with nextWid := m.nextWid + 1, log := r :: m.log } }, a.2 ++ [m.nextWid])) (s0, [])

/-- The writes of a finished command are performed, and its completion can be observed from a ring slot. -/
def settleCopy (s : State) (p : Port) (c : Cmd) (slot : Option Nat) : State :=
  let r := logCopy s c
  let rec_ : CopyRec := { cid := c.cid, ctx := p.ctx, launch := c.launch, flat := p.flat, port := p.port, wids := r.2, src := c.src,
                          dst := c.dst, slot := slot }
  modPort { r.1 with copies := rec_ :: r.1.copies } p.ctx p.flat p.port p.die (fun q => { q with cmds := q.cmds.drop 1 })

/-- The 32 bytes of a completion record (R326, R430). -/
def recordBytes (p : Port) (c : Cmd) (e code : Nat) (faddr : Word) : List Byte :=
  let d := c.desc.toNat
  natLe 2 (if code = 0 then 0 else 1) ++ natLe 2 code ++ natLe 1 p.port ++ natLe 3 0
    ++ natLe 8 (e * (cNf d + 1) * cW d) ++ natLe 8 (cTag d) ++ natLe 8 faddr.toNat

/-- The record is lost (R329). DEDUCED (log 44). -/
def recordLost (s : State) (p : Port) (c : Cmd) (code : Nat) : State :=
  let d := c.desc.toNat
  event (settleCopy s p c none) (srcStream (cmdDie p c)) 0x0408 0 (some p.ctx) none (some (0, cRing d))
    (natLe 8 (cTag d) ++ natLe 2 code)

/-- The signal of a completion (R332). A hart that cannot take it at once has PEND set; for a saved hart the
dispatcher keeps the bit. -/
def uiSignal (s : State) (p : Port) (c : Cmd) : State :=
  mapHarts s (fun h =>
    if h.id.launch = c.launch ∧ h.id.flat = p.flat then
      match h.st.life with
      | .placed =>
        if h.ui.en && !h.ui.act then { h with st := { h.st with uiDue := true, uiAt := s.cycle } }
        else { h with ui := { h.ui with pend := true }, st := { h.st with uiAt := s.cycle } }
      | _ => { h with st := { h.st with uiDue := true } }
    else h)

/-- The append of a finished command's record, once the ring has room (R329). -/
def appendCmd (s : State) (p : Port) (c : Cmd) (e code : Nat) (faddr : Word) : State :=
  let d := c.desc.toNat; let die := cmdDie p c; let eng := asEngine s p.ctx die 0
  let ring := BitVec.ofNat 64 (cRing d)
  match ringCheck eng ring .write with
  | .fault f => recordLost s p c (faultCode f)
  | .ok a =>
    let hdr := homeBytes s a.key a.loc 32
    if homePois s.mem a.loc 32 then recordLost s p c 9
    else if ringBad hdr a.dev then recordLost s p c 0
    else
      let n := 2 ^ fld hdr 8 4; let head := fld hdr 16 8; let tail := fld hdr 24 8
      if n ≤ (head + 2 ^ 64 - tail) % 2 ^ 64 then s
      else
        let slot := BitVec.ofNat 64 (fld hdr 0 8 + 32 * (head % n))
        match ringCheck eng slot .write with
        | .fault f => recordLost s p c (faultCode f)
        | .ok b =>
          let s1 := engStrong s (srcStream die) p.ctx p.flat (engineParty die) a.loc 32 (cRing d)
          let s2 := strongPut s1 b.key b.loc (recordBytes p c e code faddr)
          let s3 := strongPut s2 a.key (a.loc + 16) (natLe 8 ((head + 1) % 2 ^ 64))
          let s4 := settleCopy s3 p c (some b.loc)
          if cUi d then uiSignal s4 p c else s4

/-- RECORD_APPEND: the head command of a port has finished, and its record is appended (R329). A FETCH has no record
(R334). -/
def recordAppendOp (ctx flat port : Nat) (s : State) : State :=
  match findPort s ctx flat port with
  | none => s
  | some p => match p.cmds with
    | [] => s
    | c :: _ => match c.st with
      | .finished e code faddr => if c.fetch.isSome then s else appendCmd s p c e code faddr
      | _ => s

/-- RECORD_APPEND (R329). -/
def execRecordAppend (ctx flat port : Nat) (s : State) : Out := .next (recordAppendOp ctx flat port s)

/-! ### Waits and rings (R330, R331) -/

/-- The hart observes copies (R286). -/
def observe (h : Hart) (cids : List Nat) : Hart := { h with obs := cids.filter (fun c => !h.obs.contains c) ++ h.obs }

/-- `strmw` (R330). -/
def strmwOp (port : Nat) (s : State) : State :=
  let h := s.hart
  if (portCmds s h.id.ctx h.id.flat port).isEmpty then
    let cs := (s.copies.filter (fun c => c.launch == h.id.launch && c.flat == h.id.flat && c.port == port)).map (·.cid)
    retire s (s.onHart (fun h => observe h cs))
  else asleepOn s (.strmw port)

/-- `strmw` (R330). -/
def execStrmw (port : Option (Fin 16)) (s : State) : Out := .next (strmwOp ((port.map (·.val)).getD 16) s)

/-- `crwait` from its checks on; `pd` tells whether the deadline is poisoned (R330). DEDUCED (log 46). -/
def crwaitOp (xd : XReg) (ea : Word) (deadline : Nat) (pd : Bool) (s : State) : State :=
  match ringCheck s ea .read with
  | .fault c => memTrap s c ea
  | .ok a => afterReleases s fun s =>
    let r := strongAccess s { a with loc := a.loc + 16 } 16 (fun _ => none) false
    let v := (fld r.2.1 0 8 + 2 ^ 64 - fld r.2.1 8 8) % 2 ^ 64
    if v ≠ 0 ∨ (deadline ≠ 0 ∧ deadline ≤ timeOn s s.hart.id.die) then
      match ovlFires s s.hart (a.loc + 16) 16 with
      | some r => ovlTrap s ea r
      | none => retire s (r.1.setX xd (BitVec.ofNat 64 v) (r.2.2 || pd))
    else asleepOn s (.crwait xd ea.toNat pd deadline)

/-- `crwait` (R330). -/
def execCrwait (xd xs1 xs2 : XReg) (s : State) : Out :=
  .next (consume s [xs1] fun s => crwaitOp xd (s.x xs1) (s.x xs2).toNat (poisX s.hart xs2) s)

/-- The register `k` above another. -/
def regUp (r : XReg) (k : Nat) : XReg := ⟨(r.val + k) % 64, Nat.mod_lt _ (by decide)⟩

/-- HEAD and TAIL of a ring after a record is taken (R330). -/
def popTail (v : Nat) : Option (List Byte) :=
  if v % 2 ^ 64 = v / 2 ^ 64 then none else some (natLe 8 v ++ natLe 8 ((v / 2 ^ 64 + 1) % 2 ^ 64))

/-- `crpop` from its checks on (R330). It reads BASE and LOGN, and its access to HEAD and TAIL is of the same range as
that of `crwait`. -/
def crpopOp (xd : XReg) (ea : Word) (s : State) : State :=
  match ringCheck s ea .write with
  | .fault c => memTrap s c ea
  | .ok a => afterReleases s fun s =>
    let a1 := { a with loc := a.loc + 16 }
    match ovlFires s s.hart a1.loc 16 with
    | some r => ovlTrap s ea r
    | none =>
      let q := strongAccess s a 16 (fun _ => none) false
      let p := strongAccess q.1 a1 16 (fun _ => none) false
      let head := fld p.2.1 0 8; let tail := fld p.2.1 8 8
      if q.2.2 || p.2.2 then poisonKill s
      else if head = tail then retire s (p.1.setX xd (BitVec.allOnes 64))
      else
        let slot := BitVec.ofNat 64 (fld q.2.1 0 8 + 32 * (tail % 2 ^ min 64 (fld q.2.1 8 4)))
        match ringCheck s slot .read with
        | .fault c => memTrap s c slot
        | .ok b =>
          let r := strongAccess p.1 b 32 (fun _ => none) false
          let w := strongAccess r.1 a1 16 popTail false
          let s2 := forN 4 w.1 (fun k st => st.setX (regUp xd k) (BitVec.ofNat 64 (fld r.2.1 (8 * k) 8)) r.2.2)
          let cs := ((s.copies.find? (fun c => c.slot == some b.loc)).map (·.cid)).toList
          retire s (s2.onHart (fun h => observe h cs))

/-- `crpop` (R330). -/
def execCrpop (xd xs1 : XReg) (s : State) : Out := .next (consume s [xs1] fun s => crpopOp xd (s.x xs1) s)

/-! ### Delivery (R332, R80) -/

/-- Delivers a completion at user level: control passes to UIVEC. `own` tells a delivery that does not come from
PEND, which writes x63 of copy B. DEDUCED (log 47). -/
def deliver (own : Bool) (h : Hart) : Hart :=
  { h with
    ui := { h.ui with uipc := h.pc, act := true, pend := h.ui.pend && own },
    sc := if own then { h.sc with xb := h.sc.xb.set 7 0, pxb := putBits h.sc.pxb 7 1 0 } else h.sc,
    pc := h.ui.uivec,
    st := { h.st with entry := some h.pc, uiDue := false, asleep := none, half := false },
    rreq := none, gathered := [], arr := { h.arr with chain := none } }

/-- UI_DELIVERY before the next instruction of the focus hart (R332). A wait is abandoned with the PC at it (R330). -/
def uiDeliveryOp (s : State) : State :=
  let h := s.hart
  if h.st.life ≠ .placed then s
  else if h.ui.en && !h.ui.act && (h.st.uiDue || h.ui.pend) then
    if wide h.ui.uivec then takeTrap (s.onHart (fun h => { h with st := { h.st with uiDue := false } })) 0x0008 h.ui.uivec
    else s.onHart (deliver h.st.uiDue)
  else if h.st.uiDue then s.onHart (fun h => { h with ui := { h.ui with pend := true }, st := { h.st with uiDue := false } })
  else s

/-- UI_DELIVERY (R332). -/
def execUiDelivery (h : Nat) (s : State) : Out := .next (withHart s h uiDeliveryOp)

end Sys2Proof.Machine
end

