-- ==== Sys2Proof/Machine/Millrace.lean ====
section
/-! DEFINITION. The Millrace: majors 0xB2 and 0xB3, the movement timetable and its actions (R333 to R340, R432 to R435,
R490 to R492). -/

namespace Sys2Proof.Machine

/-! ### Entries (R334, R335) -/

def TTEnt.tier (e : TTEnt) : Nat := e.tt.toNat % 4
def TTEnt.chk (e : TTEnt) : Bool := e.tt.getLsbD 2
def TTEnt.prio (e : TTEnt) : Nat := bits e.tt.toNat 5 3

/-- The entry serves the hart of a flat index. -/
def TTEnt.serves (e : TTEnt) (flat : Nat) : Bool := e.hidx == 0xFFFF || e.hidx == flat

def parseEnt (b : List Byte) : TTEnt :=
  { mark := fld b 0 4, dline := fld b 4 4, obj := BitVec.ofNat 64 (fld b 8 8), dst := BitVec.ofNat 64 (fld b 16 8),
    lines := fld b 24 4, act := fld b 28 1, tt := BitVec.ofNat 8 (fld b 29 1), hidx := fld b 30 2 }

/-- SRC of a Millrace (R383). -/
def srcMill (die : Nat) : BitVec 16 := srcOf 2 die 0

/-- The 64 KiB pages of a GLOBAL range translate and are not DEV; the first that fails, with its code. -/
def badPage (s : State) (ctx die : Nat) (base len : Nat) : Option (Nat × Nat) :=
  let eng := asEngine s ctx die 0
  (List.range' (base / 65536) ((base + len - 1) / 65536 + 1 - base / 65536)).findSome? (fun p =>
    match checkGlobal eng die 64 ctx (p * 65536) .read with
    | .fault c => some (p * 65536, c)
    | .ok a => if a.dev then some (p * 65536, 0) else none)

/-- The first cause of R335 that applies to an entry, with the page that has no key, or none. DEDUCED (log 50). -/
def entCause (s : State) (ctx die : Nat) (e : TTEnt) : Option (Nat × Option Nat) :=
  let base := if e.act = 3 then e.dst.toNat else e.obj.toNat
  let combo := match e.act with
    | 1 => e.tier == 0
    | 2 => e.tier == 1 || e.tier == 2
    | 3 => (e.tier == 1 || e.tier == 2) && e.hidx != 0xFFFF && decide (2 ≤ bits e.obj.toNat 63 62)
    | _ => false
  if 64 ≤ e.tt.toNat ∨ (e.act ≠ 3 ∧ e.dst ≠ 0) then some (0x0301, none)
  else if !combo || decide (e.dline < e.mark) then some (0x0302, none)
  else if e.lines = 0 ∨ 16777215 < e.lines ∨ base % 128 ≠ 0 ∨ 2 ^ 48 < base + 128 * e.lines then some (0x0303, none)
  else match badPage s ctx die base (128 * e.lines) with
    | some (p, c) => some (0x0304, if c = 0x0010 then some p else none)
    | none => none

/-! ### Timetables of a launch on a die -/

def millDflt (lid die : Nat) : Mill :=
  { launch := lid, die := die, passes := [], acts := [], markers := [], wantRead := [], fetches := [] }

def findMill (s : State) (lid die : Nat) : Mill :=
  (s.mills.find? (fun m => m.launch == lid && m.die == die)).getD (millDflt lid die)

def modMill (s : State) (lid die : Nat) (f : Mill → Mill) : State :=
  let l := upsert (fun m => m.launch == lid && m.die == die) (millDflt lid die) f s.mills
  { s with mills := l }

/-- The entries read for a pass. -/
def Mill.table (m : Mill) (pass : Nat) : Option (List TTEnt) := (m.passes.find? (fun p => p.1 == pass)).map (·.2)

/-- The state of an action in a pass. -/
def Mill.act (m : Mill) (pass i : Nat) : Option ActSt := (m.acts.find? (fun a => a.1 == pass && a.2.1 == i)).map (·.2.2)

def Mill.setAct (m : Mill) (pass i : Nat) (st : ActSt) : Mill :=
  { m with acts := (pass, i, st) :: m.acts.filter (fun a => !(a.1 == pass && a.2.1 == i)) }

/-- The marker of a hart; before its first `tmark` it has none and pass 0. -/
def Mill.marker (m : Mill) (flat : Nat) : Marker :=
  (m.markers.find? (fun k => k.flat == flat)).getD { flat := flat, marker := none, pass := 0, closed := [] }

def Mill.setMarker (m : Mill) (k : Marker) : Mill :=
  { m with markers := k :: m.markers.filter (fun x => x.flat != k.flat) }

def Marker.isOpen (k : Marker) (i : Nat) : Bool := !k.closed.any (fun c => c.1 == i)

/-- An entry is due for a hart in its present pass (R336). -/
def entDue (k : Marker) (e : TTEnt) : Bool := e.serves k.flat && (match k.marker with | some m => decide (e.mark ≤ m) | none => false)

/-- Adds 1 to a counter of `tmcnt` (R340). -/
def bumpCnt (s : State) (ctx k : Nat) : State :=
  modCtx s ctx (fun c => { c with tmcnt := c.tmcnt.setIfInBounds k (c.tmcnt.toArray.getD k 0 + 1) })

/-- Rejects an entry (R432, R490). -/
def rejectAct (s : State) (l : Launch) (die pass i : Nat) (e : TTEnt) (cause : Nat) (nokey : Option Nat) : State :=
  let s0 := match nokey with | some p => noKeyEvent s l.ctx p | none => s
  let s1 := event s0 (srcMill die) cause 0 (some l.ctx) (if e.hidx = 0xFFFF then none else some e.hidx)
    (some (0, l.ttptr + 32 * i)) (natLe 4 i)
  modMill (bumpCnt s1 l.ctx 4) l.lid die (fun m => m.setAct pass i .rejected)

/-- An entry that becomes due for the first time in a pass is checked, and rejected or left to start (R335, R336).
DEDUCED (log 50). -/
def firstDue (s : State) (l : Launch) (die pass i : Nat) (e : TTEnt) : State :=
  if ((findMill s l.lid die).act pass i).isSome then s
  else match entCause s l.ctx die e with
    | some (c, k) => rejectAct s l die pass i e c k
    | none => modMill s l.lid die (fun m => m.setAct pass i .due)

/-- Entries that have become due for some hart join the actions of their pass (R336). -/
def refreshDue (s : State) (l : Launch) (die : Nat) : State :=
  (findMill s l.lid die).markers.foldl (fun st k => match (findMill st l.lid die).table k.pass with
    | none => st
    | some es => (es.zipIdx.filter (fun e => entDue k e.1)).foldl (fun st e => firstDue st l die k.pass e.2 e.1) st) s

/-- Reads the entries of a timetable from entry `i` on, up to its end (R335, R434). -/
def readEnts (ctx die ttptr : Nat) : Nat → Nat → State → List TTEnt → State × List TTEnt
  | 0, _, s, acc => (s, acc.reverse)
  | n + 1, i, s, acc =>
    let va := ttptr + 32 * i; let eng := asEngine s ctx die 0
    let stop := fun (s : State) => (event s (srcMill die) 0x0306 0 (some ctx) none (some (0, va)) [], acc.reverse)
    match globalCheck eng eng.hart (BitVec.ofNat 64 va) 32 .read with
    | .fault c => stop (if c = 0x0010 then noKeyEvent s ctx va else s)
    | .ok a =>
      if homePois s.mem a.loc 32 then stop s
      else
        let e := parseEnt (homeBytes s a.key a.loc 32)
        let s1 := engStrong s (srcMill die) ctx 0 (engineParty die) a.loc 32 va
        if e.act = 0 then (s1, acc.reverse) else readEnts ctx die ttptr n (i + 1) s1 (e :: acc)

/-- Reads the timetable for a pass that begins on a die, once (R335). -/
def readPass (s : State) (l : Launch) (die pass : Nat) : State :=
  if ((findMill s l.lid die).table pass).isSome || l.ttptr == 0 then s
  else
    let r := readEnts l.ctx die l.ttptr 65536 0 s []
    modMill r.1 l.lid die (fun m => { m with passes := (pass, r.2) :: m.passes, wantRead := m.wantRead.filter (· != pass) })

/-- TIMETABLE_READ: the Millrace reads the table of each pass that has begun without it, as after a hand-over (R335, R336). -/
def timetableReadOp (lid die : Nat) (s : State) : State :=
  match findLaunch s lid with
  | none => s
  | some l => refreshDue ((findMill s lid die).wantRead.foldl (fun st p => readPass st l die p) s) l die

/-- TIMETABLE_READ (R335). -/
def execTimetableRead (launch die : Nat) (s : State) : Out := .next (timetableReadOp launch die s)

/-! ### Actions (R336, R337, R490) -/

/-- The actions in flight on a die. -/
def inFlight (s : State) (die : Nat) : Nat :=
  (s.mills.filter (fun m => m.die == die)).foldl (fun n m => n + (m.acts.filter (fun a => a.2.2 == .started)).length) 0

/-- A due action of a Millrace with its entry. -/
structure DueAct where
  launch : Nat
  pass : Nat
  i : Nat
  e : TTEnt
  deriving DecidableEq, Repr

/-- One due action comes before another: higher PRIO, then lower DLINE, then lower index (R336). -/
def DueAct.le (a b : DueAct) : Bool :=
  if a.e.prio ≠ b.e.prio then decide (b.e.prio < a.e.prio)
  else if a.e.dline ≠ b.e.dline then decide (a.e.dline < b.e.dline)
  else decide (a.i ≤ b.i)

/-- The due actions of one Millrace in the order they start. -/
def dueActs (s : State) (die : Nat) : List DueAct :=
  let l := (s.mills.filter (fun m => m.die == die)).flatMap (fun m => m.acts.filterMap (fun a =>
    if a.2.2 = .due then ((m.table a.1).bind (fun es => es[a.2.1]?)).map (fun e =>
      { launch := m.launch, pass := a.1, i := a.2.1, e := e : DueAct }) else none))
  sortBy DueAct.le l

/-- A timetable hold lies in a range of lines. -/
def holdHits (h : Hold) (base lines : Nat) : Bool := decide (base ≤ h.va) && decide (h.va < base + 128 * lines)

/-- Releases the holds of a context on a range (R333). -/
def dropHolds (s : State) (ctx base lines : Nat) : State :=
  modCtx s ctx (fun c => { c with holds := c.holds.filter (fun h => !holdHits h base lines) })

/-- The harts of a launch on a die that an entry serves, ended ones included: the end of a hart closes no window (R337). -/
def servedHarts (s : State) (lid die : Nat) (e : TTEnt) : List Nat :=
  ((allHarts s).filter (fun h => h.id.launch == lid && !h.id.partner && e.serves h.id.flat
    && (if e.hidx == 0xFFFF then h.id.die == die else true)
    && !(h.st.life == .killed || h.st.life == .absent))).map (·.id.flat)

/-- The window of an entry for a hart has closed in a pass with no passing check (R337). -/
def closedBad (m : Mill) (pass i flat : Nat) : Bool :=
  let k := m.marker flat
  if pass < k.pass then true
  else k.pass == pass && k.closed.any (fun c => c.1 == i && !c.2)

/-- The entry has windows, and every one has closed with no passing check. -/
def allClosed (s : State) (m : Mill) (pass i : Nat) (e : TTEnt) : Bool :=
  let hs := servedHarts s m.launch m.die e
  !hs.isEmpty && hs.all (closedBad m pass i)

/-- Ends an action as settled, and counts it: within its window, or with no window left to close (R490). DEDUCED (log 49). -/
def settleAct (s : State) (m : Mill) (ctx pass i : Nat) : State :=
  bumpCnt (modMill s m.launch m.die (fun m => m.setAct pass i .settled)) ctx 1

/-- The descriptor of the copy of a FETCH (R334). -/
def fetchDesc (e : TTEnt) : Nat :=
  let ctl := bits e.obj.toNat 63 62 + 4 * 16
  e.obj.toNat % 2 ^ 62 + e.dst.toNat * 2 ^ 64 + ctl * 2 ^ 192 + (e.lines * 8) * 2 ^ 256 + 2 ^ 288 + 2 ^ 320 + 2 ^ 352
    + 16 * 2 ^ 384 + 16 * 2 ^ 512

/-- Starts the copy of a FETCH, as a copy of its hart. -/
def startFetch (s : State) (lid ctx die pass i : Nat) (e : TTEnt) : State :=
  let d := fetchDesc e
  let c : Cmd := { cid := s.fresh, launch := lid, desc := BitVec.ofNat 1024 d, st := .running 0, vr := 0, vi := none, g := 1,
                   idx := [], ov := [], snap := [], tiles := [], got := none, rids := [], writes := [], src := [],
                   dst := (copyLocs s ctx die [] false d).2, fetch := some (lid, die, pass, i), broken := [] }
  let s1 := modPort s ctx e.hidx (32 + s.fresh) die (fun p => { p with cmds := p.cmds ++ [c] })
  modMill { s1 with fresh := s1.fresh + 1 } lid die (fun m => { m with fetches := (pass, i, c.cid) :: m.fetches })

/-- Starts a due action. An EVICT of lines without holds settles as it starts (R490). -/
def startAct (s : State) (l : Launch) (die : Nat) (a : DueAct) : State :=
  let s1 := modMill (bumpCnt s l.ctx 0) a.launch die (fun m => m.setAct a.pass a.i .started)
  match a.e.act with
  | 3 => startFetch s1 a.launch l.ctx die a.pass a.i a.e
  | 2 =>
    let held := match findCtx s l.ctx with
      | some c => c.holds.any (fun h => holdHits h a.e.obj.toNat a.e.lines)
      | none => false
    if held then s1 else settleAct s1 (findMill s1 a.launch die) l.ctx a.pass a.i
  | _ => s1

/-- MILLRACE_ACTION_START: the Millrace of a die starts its first due action, when it is one of this launch (R336). -/
def millStartOp (lid die : Nat) (s : State) : State :=
  match dueActs s die with
  | [] => s
  | a :: _ =>
    if a.launch ≠ lid ∨ 64 ≤ inFlight s die ∨ (findSrc s (srcMill die)).fenced = true then s
    else match findLaunch s lid with
      | none => s
      | some l => startAct s l die a

/-- MILLRACE_ACTION_START (R336). -/
def execMillraceActionStart (launch die : Nat) (s : State) : Out := .next (millStartOp launch die s)

/-- A line of a promotion is held. -/
def holdTo (lid die va line : Nat) (c : Ctx) : Ctx := { c with holds := { launch := lid, die := die, va := va, line := line } :: c.holds }

/-- A PROMOTE completes: its lines are held as far as the ways allow, or it is late and holds none (R333, R337). It settles
with the lines that the limit leaves unheld. DEDUCED (log 97). -/
def settlePromote (s : State) (m : Mill) (ctx pass i : Nat) (e : TTEnt) : State :=
  if allClosed s m pass i e then
    bumpCnt (modMill s m.launch m.die (fun m => m.setAct pass i .late)) ctx 3
  else
    settleAct (keepRange ctx e.obj.toNat (holdTo m.launch m.die) e.lines 0 s).1 m ctx pass i

/-- The copy of a FETCH has finished: it is settled, or faulted with event 0x0305 (R433). -/
def settleFetch (s : State) (m : Mill) (ctx pass i : Nat) (e : TTEnt) : State :=
  match s.ports.find? (fun p => p.cmds.any (fun c => match c.fetch with
      | some f => f.1 == m.launch && f.2.2 == (pass, i)
      | none => false)) with
  | none => s
  | some p => match p.cmds with
    | [] => s
    | c :: _ => match c.st with
      | .finished _ code faddr =>
        let s1 := settleCopy s p c none
        if code = 0 then settleAct s1 m ctx pass i
        else
          let s2 := event s1 (srcMill m.die) 0x0305 0 (some ctx) (some e.hidx) none
            (natLe 2 code ++ natLe 2 0 ++ natLe 4 i ++ natLe 8 faddr.toNat)
          modMill s2 m.launch m.die (fun m => m.setAct pass i .faulted)
      | _ => s

/-- ACTION_SETTLE: a started action of an entry in a pass completes (R334). -/
def actionSettleOp (lid die pass i : Nat) (s : State) : State :=
  let m := findMill s lid die
  match findLaunch s lid, (m.table pass).bind (fun es => es[i]?) with
  | some l, some e =>
    if m.act pass i ≠ some .started then s
    else match e.act with
      | 1 => settlePromote s m l.ctx pass i e
      | 2 => settleAct (dropHolds s l.ctx e.obj.toNat e.lines) m l.ctx pass i
      | _ => settleFetch s m l.ctx pass i e
  | _, _ => s

/-- ACTION_SETTLE (R334). -/
def execActionSettle (launch die : Nat) (entry : PassEntry) (s : State) : Out :=
  .next (actionSettleOp launch die entry.pass entry.entry s)

/-! ### Markers (R338, R339) -/

/-- W of R338. -/
def missWord (c i : Nat) : Nat := 2 ^ 63 + c * 2 ^ 60 + i

/-- Why the check of an entry fails, or none when it passes. -/
def missCode (st : Option ActSt) : Option Nat :=
  match st with
  | some .rejected => some 1
  | some .faulted => some 2
  | some .settled => none
  | _ => some 0

/-- A schedule miss stops the `tmark`: at user level where that can be, or by a trap (R339). -/
def missOp (s : State) (n c i : Nat) : State :=
  let h := s.hart; let w := BitVec.ofNat 64 (missWord c i)
  let s1 := bumpCnt s h.id.ctx 2
  if h.ui.en && !h.ui.act then
    if wide h.ui.uivec then takeTrap s1 0x0008 h.ui.uivec
    else s1.onHart (fun h =>
      { h with
        ui := { h.ui with uipc := h.pc, act := true },
        sc := { h.sc with xb := (h.sc.xb.set 7 w).set 6 (BitVec.ofNat 64 n), pxb := putBits h.sc.pxb 6 2 0 },
        pc := h.ui.uivec, st := { h.st with entry := some h.pc } })
  else takeTrap s1 0x0019 w

/-- The entries that a `tmark` checks, ascending: those with CHK whose deadline lies in the range and whose window is
open in the pass the marker belongs to (R338). DEDUCED (log 48). -/
def tmarkChecks (es : List TTEnt) (k : Marker) (newpass : Bool) (n : Nat) : List Nat :=
  let above := fun (e : TTEnt) => match k.marker with | some m => newpass || decide (m < e.dline) | none => true
  (es.zipIdx.filter (fun e => e.1.serves k.flat && e.1.chk && above e.1 && decide (e.1.dline ≤ n)
    && (newpass || k.isOpen e.2))).map (·.2)

/-- The windows that `tmark.nc` closes by passing their deadlines (R337). -/
def ncClosed (es : List TTEnt) (k : Marker) (newpass : Bool) (n : Nat) : List Nat :=
  let above := fun (e : TTEnt) => match k.marker with | some m => newpass || decide (m < e.dline) | none => true
  (es.zipIdx.filter (fun e => e.1.serves k.flat && above e.1 && decide (e.1.dline ≤ n) && (newpass || k.isOpen e.2))).map (·.2)

/-- The marker after a `tmark` that has passed. -/
def advanceMarker (k : Marker) (newpass : Bool) (n pass : Nat) (close : List (Nat × Bool)) : Marker :=
  { k with marker := some n, pass := pass, closed := close ++ (if newpass then [] else k.closed) }

/-- `tmark` and `tmark.nc` (R338). The first hart of a die to begin a pass finds its table read (R335); a miss leaves the pass
unbegun, and its reading with it. -/
def tmarkOp (n : Nat) (check : Bool) (s : State) : State :=
  let h := s.hart; let lid := h.id.launch; let die := h.id.die
  match findLaunch s lid with
  | none => retire s s
  | some l =>
    let k0 := (findMill s lid die).marker h.id.flat
    let newpass := match k0.marker with | none => true | some m => decide (n < m)
    let pass := if newpass then k0.pass + 1 else k0.pass
    if l.ttptr = 0 then
      retire s (modMill s lid die (fun m => m.setMarker (advanceMarker k0 newpass n pass [])))
    else
      let s1 := readPass s l die pass
      let m := findMill s1 lid die
      let es := (m.table pass).getD []
      let hit := if check then tmarkChecks es k0 newpass n else []
      match hit.find? (fun i => (missCode (m.act pass i)).isSome) with
      | some i => missOp s n ((missCode (m.act pass i)).getD 0) i
      | none =>
        let close := if check then hit.map (fun i => (i, true)) else (ncClosed es k0 newpass n).map (fun i => (i, false))
        let cids := (m.fetches.filter (fun f => f.1 == pass && hit.contains f.2.1)).map (·.2.2)
        let s2 := modMill s1 lid die (fun m => m.setMarker (advanceMarker k0 newpass n pass close))
        retire s ((refreshDue s2 l die).onHart (fun h => observe h cids))

/-- `tmark` (R338). -/
def execTmark (n : BitVec 32) (s : State) : Out := .next (tmarkOp n.toNat true s)

/-- `tmark.nc` (R338). -/
def execTmarkNc (n : BitVec 32) (s : State) : Out := .next (tmarkOp n.toNat false s)

/-! ### Tier control (R340) -/

/-- The hart's entry of an index when it is due in the present pass: the Millrace, the marker and the entry. -/
def dueEntry (s : State) (i : Nat) : Option (Mill × Marker × TTEnt) :=
  let h := s.hart
  let m := findMill s h.id.launch h.id.die
  let k := m.marker h.id.flat
  match (m.table k.pass).bind (fun es => es[i]?) with
  | some e => if entDue k e then some (m, k, e) else none
  | none => none

/-- Reads the table of the hart's present pass, where the Millrace still wants it. -/
def readMine (s : State) : State :=
  let h := s.hart; let m := findMill s h.id.launch h.id.die; let p := (m.marker h.id.flat).pass
  match findLaunch s h.id.launch with
  | some l => if m.wantRead.contains p then refreshDue (readPass s l h.id.die p) l h.id.die else s
  | none => s

/-- The result of a `tmwait`, or none while it waits. -/
def tmwaitCode (s : State) (i : Nat) : Option Nat :=
  match dueEntry s i with
  | none => some 4
  | some (m, k, _) => match m.act k.pass i with
    | some .settled => some 0
    | some .rejected => some 1
    | some .faulted => some 2
    | some .late => some 3
    | _ => if k.isOpen i then none else some 3

/-- `tmwait` for an entry index (R340). -/
def tmwaitOp (xd : XReg) (i : Nat) (p : Bool) (s : State) : State :=
  let s1 := readMine s
  match tmwaitCode s1 i with
  | some c => retire s (s1.setX xd (BitVec.ofNat 64 c) p)
  | none => asleepOn s1 (.tmwait xd i p)

/-- `tmwait` (R340). -/
def execTmwait (xd xs1 : XReg) (s : State) : Out :=
  .next (tmwaitOp xd ((s.x xs1).toNat % 65536) (poisX s.hart xs1) s)

/-- `tmwaive` (R340). -/
def tmwaiveOp (i : Nat) (s : State) : State :=
  let s1 := readMine s
  let h := s.hart
  match dueEntry s1 i with
  | none => retire s s1
  | some (m, k, _) =>
    if m.act k.pass i = some .settled ∨ k.isOpen i = false then retire s s1
    else retire s (modMill s1 h.id.launch h.id.die (fun m => m.setMarker { k with closed := (i, false) :: k.closed }))

/-- `tmwaive` (R340). -/
def execTmwaive (xs1 : XReg) (s : State) : Out := .next (tmwaiveOp ((s.x xs1).toNat % 65536) s)

/-- `tmcnt` (R340). -/
def execTmcnt (xd xs1 : XReg) (s : State) : Out :=
  let k := (s.x xs1).toNat % 8
  let v := match findCtx s s.hart.id.ctx with
    | some c => c.tmcnt.toList.getD k 0
    | none => 0
  .next (retire s (s.setX xd v (poisX s.hart xs1)))

/-! ### Hand-over, ends and kills (R333, R336, R450) -/

/-- Hands a hart's marker, and what the old die's Millrace has read and done for it, to the Millrace of another die. -/
def moveMarker (s : State) (lid flat old new : Nat) : State :=
  if old = new then s
  else
    let m := findMill s lid old
    match m.markers.find? (fun k => k.flat == flat) with
    | none => s
    | some k =>
      let es := m.table k.pass
      let mine := m.acts.filter (fun a => a.1 == k.pass && (match (es.getD [])[a.2.1]? with | some e => e.hidx == flat | none => false))
      let s1 := modMill s lid old (fun m =>
        { m with markers := m.markers.filter (fun x => x.flat != flat), acts := m.acts.filter (fun a => !mine.contains a) })
      let s2 := modMill s1 lid new (fun n =>
        let ps := match es with
          | some e => if (n.table k.pass).isSome then n.passes else (k.pass, e) :: n.passes
          | none => n.passes
        let want := if es.isSome || n.wantRead.contains k.pass then n.wantRead else k.pass :: n.wantRead
        { n.setMarker k with
          passes := ps, wantRead := want,
          acts := n.acts ++ mine.filter (fun a => (n.act a.1 a.2.1).isNone),
          fetches := n.fetches ++ m.fetches.filter (fun f => mine.any (fun a => a.1 == f.1 && a.2.1 == f.2.1)) })
      match findLaunch s2 lid with
      | some l => refreshDue s2 l new
      | none => s2

end Sys2Proof.Machine
end

