-- ==== Sys2Proof/Machine/Place.lean ====
section
/-! DEFINITION. Launch records, lane partitions and the fitting of gang instances to cores (R30 to R44, R57). -/

namespace Sys2Proof.Machine

/-! ### Launch records (R39 to R43) -/

/-- A level entry (R42). -/
def parseLevel (w : Nat) : Level :=
  { dom := w % 8, scope := bits w 5 3, gang := w.testBit 6, count := bits w 23 8 }

/-- The eight level words of a record. -/
def levelWords (b : List Byte) : List Nat := (List.range 8).map (fun i => fld b (0x60 + 4 * i) 4)

/-- H(i): the harts in an instance of level i (R37). -/
def hOf (ls : List Level) (i : Nat) : Nat := (((ls.take (i + 1)).drop 1).map (·.count)).foldl (· * ·) 1

/-- The narrowest scope of a domain (R35). -/
def domScope (d : Nat) : Nat := [0, 1, 2, 3, 4, 4, 5].getD d 8

/-- The level table is well formed (R36), but for the entries beyond NL; a reserved DOM or SCOPE code breaks it. DESIGN CHOICE
(log 82). -/
def levelsOk (ls : List Level) : Bool :=
  let at_ := fun i => ls.getD i { dom := 7, scope := 7, gang := false, count := 0 }
  let l0 := at_ 0
  l0.dom == 0 && l0.scope == 0 && l0.count == 1 && !l0.gang
  && (List.range' 1 (ls.length - 1)).all (fun i =>
      decide (1 ≤ (at_ i).count) && decide ((at_ (i - 1)).dom ≤ (at_ i).dom) && decide ((at_ (i - 1)).scope ≤ (at_ i).scope)
      && ((at_ i).dom != 6 || (i + 1 == ls.length && (at_ i).count == 1)))
  && ls.all (fun l => decide (l.dom < 7) && decide (l.scope < 6) && decide (domScope l.dom ≤ l.scope))

/-- VLCAP length of a context (R55). -/
def capLen (vlk : BitVec 2) : Nat := 8192 * 2 ^ vlk.toNat

/-- Lanes granted for a requested length under a cap (R33). -/
def lanesFor (vlreq : Nat) (vlk : BitVec 2) : Nat :=
  ([4, 8, 16, 32].find? (fun l => decide (min vlreq (capLen vlk) ≤ 2048 * l))).getD 32

/-- VLEN code of a hart with L lanes under a cap (R31). -/
def vkFor (lanes : Nat) (vlk : BitVec 2) : BitVec 2 :=
  BitVec.ofNat 2 (Nat.log2 (min (2048 * lanes) (capLen vlk) / 8192))

/-- The live dies of a device (R23). -/
def diesOf (p : Pkg) (dev : Nat) : List Nat := (List.range 64).filter (fun d => dieLive p d && devOfDie p d == dev)

/-- The domain instance of a core. -/
def domKey (dom : Nat) (c : Nat × Nat) : Nat :=
  match dom with
  | 0 | 1 => c.1 * 32 + c.2
  | 2 => c.1 * 4 + c.2 / 8
  | 3 => c.1
  | 4 => quadOf c.1
  | _ => 0

/-- Fenced cores of a part of the package (R385). -/
def fencedIn (s : State) (p : Nat → Nat → Bool) : Nat := (s.cores.filter (fun c => c.fenced && p c.die c.core)).length

/-- The capacity of a domain of the device in harts of L lanes, when empty: that of its instance with the most cores that are
not fenced (R35, R37, R385). -/
def domCap (s : State) (dev lanes dom : Nat) : Nat :=
  let ds := diesOf s.pkg dev; let c := 32 / lanes
  let all := 32 * ds.length - fencedIn s (fun d _ => ds.contains d)
  match dom with
  | 0 => min 1 all
  | 1 => min 1 all * c
  | 2 => (ds.flatMap (fun d => (List.range 4).map (fun k => 8 - fencedIn s (fun x y => x == d && y / 8 == k)))).foldl max 0 * c
  | 3 => (ds.map (fun d => 32 - fencedIn s (fun x _ => x == d))).foldl max 0 * c
  | 4 => (ds.map (fun d => 32 * (ds.filter (fun e => quadOf e == quadOf d)).length
      - fencedIn s (fun x _ => ds.contains x && quadOf x == quadOf d))).foldl max 0 * c
  | _ => all * c

/-- The launch fits an empty device (R37). -/
def fitsEmpty (s : State) (dev lanes : Nat) (ls : List Level) (red : Bool) : Bool :=
  ls.zipIdx.all (fun l =>
    decide (hOf ls l.2 * (if red && decide (3 ≤ l.1.dom) then 2 else 1) ≤ domCap s dev lanes l.1.dom))

/-- The format table at FTPTR; none when its 64 bytes cannot be read (R43). -/
def readTable (s : State) (ctx ftptr : Nat) : Option (Vector (BitVec 32) 16) :=
  if ftptr = 0 then some resetFt
  else
    let die := ((findCtx s ctx).map (fun c => ((diesOf s.pkg c.dev).head?).getD 0)).getD 0
    let eng := asEngine s ctx die 0
    match globalCheck eng eng.hart (BitVec.ofNat 64 ftptr) 64 .read with
    | .fault _ => none
    | .ok a =>
      if homePois s.mem a.loc 64 then none
      else
        let b := homeBytes s a.key a.loc 64
        some (Vector.ofFn (fun i : Fin 16 => BitVec.ofNat 32 (fld b (4 * i.val) 4)))

/-- A launch from its record, before its instances are known. -/
def parseLaunch (lid ctx dev q : Nat) (b : List Byte) : Launch :=
  let ctl := fld b 8 8
  { lid := lid, ctx := ctx, dev := dev, queue := q, entry := BitVec.ofNat 64 (fld b 0 8), prio := ctl % 8, red := ctl.testBit 3,
    ydl := bits ctl 23 8, arg := BitVec.ofNat 64 (fld b 16 8), stkbase := BitVec.ofNat 64 (fld b 24 8), stksz := fld b 32 4,
    vlreq := fld b 36 4, ft := resetFt, ttptr := fld b 48 8,
    deps := (List.range 4).map (fun i => BitVec.ofNat 32 (fld b (56 + 4 * i) 4)), doneTok := BitVec.ofNat 32 (fld b 72 4),
    levels := ((levelWords b).take (bits ctl 7 4)).map parseLevel, grant := none, insts := [], readyAt := none, ended := [],
    barriers := [] }

/-- The first cause of R43 that applies to a record that has been read, or its format table. -/
def launchCause (s : State) (l : Launch) (b : List Byte) : Sum Nat (Vector (BitVec 32) 16) :=
  let ctl := fld b 8 8; let nl := bits ctl 7 4; let ws := levelWords b
  let vlk := ((findCtx s l.ctx).map (·.vlk)).getD 0
  if !zeroAt b 0x4C 20 || bits l.entry.toNat 5 3 != 0 || decide (2 ^ 24 ≤ ctl) || ws.any (fun w => w.testBit 7 || decide (2 ^ 24 ≤ w))
    || (ws.drop nl).any (· != 0) then .inl 0x0101
  else if 4 < l.entry.toNat % 8 then .inl 0x0102
  else if nl = 0 ∨ 8 < nl then .inl 0x0103
  else if !levelsOk l.levels then .inl 0x0104
  else if 65536 < l.vlreq then .inl 0x0105
  else if fld b 40 8 % 64 ≠ 0 ∨ l.ttptr % 32 ≠ 0 ∨ l.stkbase.toNat % 16 ≠ 0 ∨ l.stksz % 16 ≠ 0 then .inl 0x0106
  else match readTable s l.ctx (fld b 40 8) with
    | none => .inl 0x0107
    | some ft =>
      if !fitsEmpty s l.dev (lanesFor l.vlreq vlk) l.levels l.red then .inl 0x0108 else .inr ft

/-- The gang instances of a launch (R38). -/
def instsOf (l : Launch) : List GInst :=
  let n := hOf l.levels (gangLevel l)
  (List.range (hOf l.levels (l.levels.length - 1) / n)).map (fun i => { first := i * n, n := n, st := .never })

/-! ### Scalar contexts in use (R30, R34) -/

/-- A scalar context in use: die, core, hart number and lanes. -/
abbrev Taken := Nat × Nat × Nat × Nat

/-- The contexts in use. -/
def takenNow (s : State) : List Taken :=
  ((allHarts s).filter Hart.takes).map (fun h => (h.id.die, h.id.core, h.id.hnum, h.lanes))

/-- The contexts in use on a core. -/
def onCore (t : List Taken) (c : Nat × Nat) : List Taken := t.filter (fun x => x.1 == c.1 && x.2.1 == c.2)

/-- The contexts in use, and those of a list that nothing uses yet. -/
def inUse (s : State) (held : List Taken) : List Taken :=
  takenNow s ++ held.filter (fun r => !(takenNow s).any (fun t => t.1 == r.1 && t.2.1 == r.2.1 && t.2.2.1 == r.2.2.1))

/-- The order in which cores suit a hart of L lanes: one of the matching partition by its free contexts, then an empty one
(R34). -/
def coreRank (t : List Taken) (lanes : Nat) (c : Nat × Nat) : Nat :=
  let n := 32 / lanes; let u := onCore t c
  if !u.isEmpty && decide (u.length < n) && u.all (fun x => x.2.2.2 == lanes) then n - u.length else n

/-- The core for a hart of L lanes among some: one of the matching partition with the fewest free contexts, or else an
empty one (R34). Of equal ones it is the first by die and core number, and the hart takes the lowest free hart number.
DESIGN CHOICE (log 81). -/
def pickCore (t : List Taken) (lanes : Nat) (cores : List (Nat × Nat)) : Option (Nat × Nat) :=
  let n := 32 / lanes
  let part := cores.filter (fun c =>
    let u := onCore t c
    !u.isEmpty && decide (u.length < n) && u.all (fun x => x.2.2.2 == lanes))
  let best := part.foldl (fun (b : Option (Nat × Nat)) c => match b with
    | none => some c
    | some d => if (onCore t d).length < (onCore t c).length then some c else b) none
  match best with
  | some c => some c
  | none => cores.find? (fun c => (onCore t c).isEmpty)

/-- The lowest free hart number of a core. -/
def freeHnum (t : List Taken) (lanes : Nat) (c : Nat × Nat) : Nat :=
  (lowestFree (fun h => (onCore t c).any (fun x => x.2.2.1 == h)) 0 (32 / lanes)).getD 0

/-- A place chosen for a hart: flat index, whether it is the partner, die, core and hart number. -/
structure Spot where
  flat : Nat
  partner : Bool
  die : Nat
  core : Nat
  hnum : Nat
  deriving DecidableEq, Repr

/-- What the fitting of a launch knows: its levels, its lanes, the level whose instances have partners (R37), and which
harts are to be placed: all of them, or some flat indices, with the partners among them. -/
structure FitEnv where
  levels : List Level
  lanes : Nat
  unit : Option Nat
  need : Option (List (Nat × Bool))
  deriving Repr

/-- One of `n` harts from `base` on is to be placed. -/
def FitEnv.wants (e : FitEnv) (partner : Bool) (base n : Nat) : Bool :=
  match e.need with
  | none => true
  | some l => l.any (fun p => p.2 == partner && decide (base ≤ p.1) && decide (p.1 < base + n))

/-- The contexts in use and the places chosen so far. -/
abbrev FitSt := List Taken × List Spot

/-- The different numbers of a list, each at its first place. -/
def firsts : List Nat → List Nat
  | [] => []
  | a :: l => a :: (firsts l).filter (· != a)

/-- The domain instances of some cores, those first that hold the cores that suit a hart best (R34). -/
def domKeys (dom lanes : Nat) (cores : List (Nat × Nat)) (t : List Taken) : List Nat :=
  let le := fun (a b : Nat × Nat) => decide (coreRank t lanes a * 2048 + domKey 1 a ≤ coreRank t lanes b * 2048 + domKey 1 b)
  let part := (t.map (fun x => (x.1, x.2.1))).eraseDups.filter (fun c => cores.contains c && decide (coreRank t lanes c < 32 / lanes))
  firsts ((sortBy le part ++ cores).map (domKey dom))

/-- Fits harts into one cluster, and their partners into another cluster of the same die (R37, R57). -/
def pairFit (lanes : Nat) (fit : Bool → List (Nat × Nat) → FitSt → Option FitSt) (cores pcores : List (Nat × Nat)) (st : FitSt) :
    Option FitSt :=
  (domKeys 2 lanes cores st.1).findSome? (fun k =>
    match fit false (cores.filter (fun c => domKey 2 c == k)) st with
    | none => none
    | some st1 => fit true (pcores.filter (fun c => c.1 == k / 4 && c.2 / 8 != k % 4)) st1)

/-- Fits an instance of a level that holds the harts from `base` on into one domain instance of some cores (R34, R36 to
R38). -/
def fitLevel (e : FitEnv) (partner : Bool) : Nat → List (Nat × Nat) → Nat → FitSt → Option FitSt
  | 0, cores, base, st =>
    if !e.wants partner base 1 then some st
    else match pickCore st.1 e.lanes cores with
    | none => none
    | some c =>
      let h := freeHnum st.1 e.lanes c
      some ((c.1, c.2, h, e.lanes) :: st.1, { flat := base, partner := partner, die := c.1, core := c.2, hnum := h } :: st.2)
  | i + 1, cores, base, st =>
    let l := e.levels.getD (i + 1) { dom := 0, scope := 0, gang := false, count := 1 }
    let n := hOf e.levels i
    if !e.wants partner base (l.count * n) then some st
    else (domKeys l.dom e.lanes cores st.1).findSome? (fun k =>
      let g := cores.filter (fun c => domKey l.dom c == k)
      (List.range l.count).foldl (fun (a : Option FitSt) j => match a with
        | none => none
        | some st =>
          if partner || e.unit ≠ some i then fitLevel e partner i g (base + j * n) st
          else pairFit e.lanes (fun p cs st => fitLevel e p i cs (base + j * n) st) g g st) (some st))

/-- The outermost level of a domain narrower than a die. -/
def unitLevel (ls : List Level) : Nat := ((ls.zipIdx.filter (fun l => decide (l.1.dom < 3))).map (·.2)).foldl max 0

/-- Fits a gang instance, its partners included; an instance that lies within a unit of R37 has its partners on `pcores`. -/
def fitInst (l : Launch) (lanes : Nat) (cores pcores : List (Nat × Nat)) (base : Nat) (t : List Taken) (need : Option (List (Nat × Bool))) :
    Option FitSt :=
  let g := gangLevel l; let u := unitLevel l.levels
  let e : FitEnv := { levels := l.levels, lanes := lanes, unit := if l.red then some u else none, need := need }
  if l.red && decide (g ≤ u) then pairFit lanes (fun p cs st => fitLevel e p g cs base st) cores pcores (t, [])
  else fitLevel e false g cores base (t, [])

/-- The other gang instances of a launch that hold lanes, and for a new instance those that have ended too, hold the outer
levels to their domain instances: those of the visible harts, and those of the partners (R36, R57). DEDUCED (log 101). -/
def outerOk (s : State) (l : Launch) (gi : Nat) (partner fresh : Bool) (base : Nat) (c : Nat × Nat) : Bool :=
  let hs := (allHarts s).filter (fun h => h.id.launch == l.lid && h.id.partner == partner && h.id.ginst != gi
    && (h.takes || (fresh && h.st.life == .ended)))
  (List.range' (gangLevel l + 1) (l.levels.length - (gangLevel l + 1))).all (fun j =>
    let dom := (l.levels.getD j { dom := 0, scope := 0, gang := false, count := 1 }).dom
    (hs.filter (fun h => h.id.flat / hOf l.levels j == base / hOf l.levels j)).all
      (fun h => domKey dom (h.id.die, h.id.core) == domKey dom c))

/-- A core takes harts of a launch: not fenced, not waiting for tests, and not overdue for a launch of low priority (R384,
R467, R483). -/
def coreTakes (s : State) (prio : Nat) (c : Nat × Nat) : Bool :=
  let x := findCore s c.1 c.2
  !x.fenced && !x.blocked && (x.overdue.isEmpty || decide (6 ≤ prio))

/-- The cores that may take a gang instance of a launch, or its partners, among those of a test. -/
def coresFor (s : State) (l : Launch) (gi : Nat) (partner fresh : Bool) (among : Nat × Nat → Bool) : List (Nat × Nat) :=
  let base := ((l.insts[gi]?).map (·.first)).getD 0
  ((diesOf s.pkg l.dev).flatMap (fun d => (List.range 32).map (fun c => (d, c)))).filter (fun c =>
    among c && coreTakes s l.prio c && outerOk s l gi partner fresh base c)

/-- Places for a gang instance that was never placed, given the contexts in use. -/
def freshSpots (s : State) (l : Launch) (gi lanes : Nat) (among : Nat × Nat → Bool) (t : List Taken) : Option (List Spot) :=
  let base := ((l.insts[gi]?).map (·.first)).getD 0
  (fitInst l lanes (coresFor s l gi false true among) (coresFor s l gi true true among) base t none).map (·.2)

/-! ### Entry (R44, R83, R346) -/

/-- idx(i) of a flat index (R44). -/
def idxOf (ls : List Level) (flat i : Nat) : Nat :=
  flat / hOf ls i % (ls.getD (i + 1) { dom := 0, scope := 0, gang := false, count := 1 }).count

/-- The scalar registers at entry. -/
def entryX (l : Launch) (flat vlen : Nat) : Vector Word 64 :=
  let nl := l.levels.length
  let v := (Vector.replicate 64 (0 : Word)).set 2 (l.stkbase + BitVec.ofNat 64 ((if l.stksz = 0 then 0 else flat + 1) * l.stksz))
  let v := (((v.set 3 l.arg).set 4 (BitVec.ofNat 64 flat)).set 5 (BitVec.ofNat 64 (hOf l.levels (nl - 1)))).set 6 (BitVec.ofNat 64 vlen)
  (List.range (nl - 1)).foldl (fun v i => v.setIfInBounds (8 + i) (BitVec.ofNat 64 (idxOf l.levels flat i))) v

/-- A hart of a launch as it is placed (R44, R83). -/
def entryHart (s : State) (l : Launch) (gi : Nat) (sp : Spot) (uid lanes : Nat) (vk : BitVec 2) : Hart :=
  let part : BitVec 2 := BitVec.ofNat 2 (Nat.log2 (32 / lanes))
  let id : HartId := { uid := uid, ctx := l.ctx, launch := l.lid, flat := sp.flat, ginst := gi, dev := l.dev, die := sp.die,
                       core := sp.core, hnum := sp.hnum, part := part, vk := vk, partner := sp.partner }
  let h := { Hart.reset with id := id, pc := l.entry }
  { h with
    st := { h.st with life := .placed, red := l.red, entry := some 0, lastRetire := nsNow s, issueFrom := s.cycle },
    sc := { h.sc with x := entryX l sp.flat (8192 * 2 ^ vk.toNat) }, vc := { h.vc with ft := l.ft } }

/-- The acquire at DEVICE scope with which a hart begins (R346); the twins of a pair take one snapshot. -/
def beginHart (s : State) (h : Hart) : Hart := { h with snap := takeSnap s .device h, acqAt := [(.device, s.mem.phase)] }

end Sys2Proof.Machine
end

