-- ==== Sys2Proof/Machine/Image.lean ====
section
/-! DEFINITION. The saved hart image: its bytes, its check and its loading (R84 to R86, R300, R389). -/

namespace Sys2Proof.Machine

/-! ### Writing (R84) -/

/-- Little-endian 64-bit words. -/
def words (l : List Nat) : List Byte := l.flatMap (natLe 8)

/-- The Bolter area (R300). -/
def bolterArea (h : Hart) : List Byte :=
  let b := h.bolter; let pins := b.pins.take 48
  natLe 64 b.desc.toNat ++ natLe 4 (b2n b.v + 2 * pins.length) ++ natLe 12 0
  ++ h.vf.td.toList.flatMap (fun t => natLe 4 t.toNat) ++ natLe 32 0
  ++ b.cols.toList.flatMap (fun c => natLe 32 c.toNat)
  ++ slice (words (pins.map (fun p => p.1 + b2n p.2))) 0 384

/-- The control registers of an image, in order (R84). -/
def controlWords (h : Hart) : List Nat :=
  [h.vc.vl.toNat, h.vc.vtype.toNat, h.vc.vmt.toNat, h.vc.ves.toNat, modeWord h.vc.mode, ashapeWord h.vc.ashape, fxmWord h.vc.fxm,
   phsWord h.phs, h.vc.sfth.toNat, h.vc.rseed.toNat, h.loop0.lc.toNat, h.loop0.lb.toNat, h.loop0.le.toNat, h.loop1.lc.toNat,
   h.loop1.lb.toNat, h.loop1.le.toNat, h.ui.uivec.toNat, h.ui.uipc.toNat, uistatWord h.ui, hstatWord h]

/-- The pending loop values LB0, LE0, LB1 and LE1 (R79). -/
def pendVals (h : Hart) : List (Option Word) := [h.loop0.lbP, h.loop0.leP, h.loop1.lbP, h.loop1.leP]

/-- FLAGS of an image. -/
def imageFlags (h : Hart) (forced : Bool) : Nat := b2n forced + 2 * b2n h.st.hung + 4 * b2n h.st.red + 8 * b2n h.id.partner

/-- The first 4,096 bytes of an image. -/
def imageHead (h : Hart) (forced : Bool) : List Byte :=
  let pv := pendVals h
  natLe 4 0x474D4951 ++ natLe 2 1 ++ natLe 2 (imageFlags h forced) ++ natLe 1 h.id.vk.toNat ++ natLe 1 h.id.part.toNat
  ++ natLe 1 h.id.hnum ++ natLe 1 0 ++ natLe 4 (imageBytes h.vlen) ++ natLe 8 h.pc.toNat ++ natLe 8 h.st.stopTime
  ++ natLe 1 (pv.zipIdx.foldl (fun a p => a + 2 ^ p.2 * b2n p.1.isSome) 0) ++ natLe 7 0
  ++ words (pv.map (fun p => (p.getD 0).toNat)) ++ natLe 184 0
  ++ words (h.sc.x.toList.map (·.toNat)) ++ words (h.sc.xb.toList.map (·.toNat))
  ++ words (controlWords h) ++ natLe 32 0
  ++ h.vc.ft.toList.flatMap (fun f => natLe 4 f.toNat) ++ natLe 960 0
  ++ bolterArea h ++ natLe 1024 0

/-- The registers of an image: v, m and w, VLEN / 8 bytes each. -/
def imageRegs (h : Hart) : List Byte :=
  let rb := h.vlen / 8
  (h.vf.v.toList ++ h.vf.m.toList ++ h.vf.w.toList).flatMap (fun r => natLe rb r.toNat)

/-- The granules of the image, by number from its start, that hold poisoned registers (R389) or flagged accumulators
(R456). -/
def imagePois (h : Hart) : List Nat :=
  let g := h.vlen / 512
  let sc := ((List.range 64).filter h.sc.px.getLsbD).map (fun k => (0x100 + 8 * k) / 64)
  let sb := if h.sc.pxb = 0 then [] else [0x300 / 64]
  let vr := (h.vf.pv.toList ++ h.vf.pm.toList ++ (h.vf.pw.zip h.vf.fw).toList.map (fun p => p.1 ||| p.2)).zipIdx.flatMap (fun r =>
    if r.1 = 0 then [] else
      ((List.range g).filter (fun j => getBits r.1 (512 * j) 512 != 0)).map (fun j => 64 + r.2 * g + j))
  sc ++ sb ++ vr

/-- The device physical address of a hart's image. -/
def imageAddr (s : State) (h : Hart) : Nat := ((findCtx s h.id.ctx).map (·.save)).getD 0 + h.st.img.getD 0

/-- Marks granules of device physical memory poisoned. -/
def markDev (s : State) (dev pa : Nat) (gs : List Nat) : State :=
  gs.foldl (fun st g => match physLoc st.pkg dev (pa + 64 * g) with
    | some l => { st with mem := markPois st.mem l 1 true }
    | none => st) s

/-- Writes a hart's image to its save area, with the device key (R349). DEDUCED (log 55). -/
def writeImage (s : State) (h : Hart) (forced : Bool) : State :=
  let pa := imageAddr s h; let dev := h.id.dev
  markDev (devWrite s dev pa (imageHead h forced ++ imageRegs h)) dev pa (imagePois h)

/-! ### The state of an instance (R349) -/

/-- Bytes of device physical memory, whatever their poison. -/
def devBytes (s : State) (dev pa n : Nat) : List Byte :=
  (List.range n).map (fun i => match physLoc s.pkg dev (pa + i) with
    | some l => homeByte s .device l
    | none => 0)

/-- The space of a save area that holds the barrier states and mailboxes of a gang instance. -/
def stateSpan (s : State) (l : Launch) (gi : Nat) : Option (Nat × SaveSpan) :=
  (findCtx s l.ctx).bind (fun c => (c.spans.find? (fun p => p.launch == l.lid && p.ginst == gi && p.len == 4096)).map (fun p => (c.save + p.off, p)))

/-- The bytes that stand for the state of an instance: its layout is not given, and they are free values. -/
def stateBytes (n off : Nat) : List Byte := (List.range 4096).map (fun i => Config.freeBits 8 n (off + i))

/-- Writes the state of a gang instance as it is saved. DESIGN CHOICE (log 103). -/
def saveState (s : State) (l : Launch) (gi : Nat) : State :=
  match stateSpan s l gi with
  | none => s
  | some (pa, p) =>
    modCtx (devWrite s l.dev pa (stateBytes s.free p.off)) l.ctx (fun c =>
      { c with spans := updWhere (fun x => x.off == p.off) (fun x => { x with wrote := some s.free }) c.spans })

/-- A barrier belongs to a gang instance. -/
def barrierOf (l : Launch) (i : GInst) (b : Barrier) : Bool :=
  let h := levelSize l b.level
  decide (b.level ≤ gangLevel l) && decide (i.first ≤ b.inst * h) && decide (b.inst * h < i.first + i.n)

/-- Reads the state of a gang instance back as it is restored: what another has written over it is no state of the device,
and the barrier generations and mailbox values are then free values. DESIGN CHOICE (log 103). -/
def loadState (s : State) (l : Launch) (gi : Nat) : State :=
  match stateSpan s l gi, l.insts[gi]? with
  | some (pa, p), some i => match p.wrote with
    | none => s
    | some n =>
      let clean := (List.range 64).all (fun g => match physLoc s.pkg l.dev (pa + 64 * g) with | some x => !homePois s.mem x 64 | none => false)
      if clean && devBytes s l.dev pa 4096 == stateBytes n p.off then s
      else
        let fr := fun w k => Config.freeBits w s.free (2 ^ 40 + k)
        let s1 := modLaunch s l.lid (fun l => { l with barriers := l.barriers.map (fun b =>
          if barrierOf l i b then { b with gen := fr 32 (b.level * 2 ^ 32 + b.inst) } else b) })
        mapHarts s1 (fun h => if h.id.launch = l.lid ∧ h.id.ginst = gi then
          { h with mbox := h.mbox.zipIdx.map (fun m => fr 64 (h.id.uid * 2 ^ 8 + m.2)) } else h)
  | _, _ => s

/-! ### Reading (R85, R86) -/

/-- A granule of device physical memory is poisoned. -/
def devPois (s : State) (dev pa : Nat) : Bool :=
  match physLoc s.pkg dev pa with
  | some l => homePois s.mem l 1
  | none => true

/-- The zero fields of an image are zero (R84, R300). -/
def imageZeros (b : List Byte) : Bool :=
  let pend := fld b 0x20 1; let np := bits (fld b 0x840 4) 6 1
  zeroAt b 0x0B 1 && decide (fld b 0x06 2 < 16) && decide (pend < 16) && zeroAt b 0x21 7
  && (List.range 4).all (fun k => pend.testBit k || zeroAt b (0x28 + 8 * k) 8) && zeroAt b 0x48 184 && zeroAt b 0x100 8
  && zeroAt b 0x3E0 32 && zeroAt b 0x440 960 && decide (fld b 0x840 4 < 128) && decide (np ≤ 48) && zeroAt b 0x844 12
  && zeroAt b 0x860 32 && zeroAt b (0xA80 + 8 * np) (384 - 8 * np) && zeroAt b 0xC00 1024

/-- The cause that refuses an image, or none (R85, R56). An image whose own words are poisoned is malformed. -/
def imageCause (b : List Byte) (clean : Bool) (vlk : BitVec 2) (lanes : Nat) : Option Nat :=
  let vk := fld b 8 1
  if !clean || fld b 0 4 ≠ 0x474D4951 || fld b 4 2 ≠ 1 then some 0x0201
  else if !imageZeros b || fld b 12 4 ≠ imageBytes (8192 * 2 ^ vk) then some 0x0201
  else if (fld b 6 2).testBit 1 then some 0x0202
  else if min (capLen vlk) (2048 * lanes) < 8192 * 2 ^ vk then some 0x0203
  else none

/-- The granules of an image that hold neither scalar nor vector registers are clean. -/
def headClean (s : State) (dev pa : Nat) : Bool :=
  (List.range 64).all (fun g => (decide (4 ≤ g) && decide (g < 13)) || !devPois s dev (pa + 64 * g))

/-- Reads a register of an image. -/
def imageReg (b : List Byte) (rb k : Nat) : VBits := BitVec.ofNat 65536 (fld b (4096 + k * rb) rb)

/-- The poison marks that the granules of an image give a register (R389). -/
def imageRegPois (gs : List Nat) (g k : Nat) : VBits :=
  (List.range g).foldl (fun (a : VBits) j =>
    if gs.contains (64 + k * g + j) then putBits a (512 * j) 512 (2 ^ 512 - 1) else a) 0

/-- The registers MODE, ASHAPE and FXM from their words. -/
def modeOf (v : Nat) : ModeReg :=
  { st := BitVec.ofNat 3 v, dtgt := BitVec.ofNat 3 (bits v 5 3), drow := BitVec.ofNat 7 (bits v 12 6), chn := v.testBit 13 }

def ashapeOf (v : Nat) : AShape :=
  { rows := BitVec.ofNat 8 v, cols := BitVec.ofNat 8 (bits v 15 8), pk := BitVec.ofNat 2 (bits v 17 16),
    cpos := BitVec.ofNat 4 (bits v 21 18), clen := BitVec.ofNat 4 (bits v 25 22) }

def fxmOf (v : Nat) : Fxm := { sel := BitVec.ofNat 3 v, rm := BitVec.ofNat 3 (bits v 5 3), acc := BitVec.ofNat 6 (bits v 13 8) }

/-- The Bolter slot and the tile latches of an image. -/
def bolterOf (b : List Byte) : Bolter :=
  let np := bits (fld b 0x840 4) 6 1
  { v := (fld b 0x840 4).testBit 0, desc := BitVec.ofNat 512 (fld b 0x800 64),
    cols := Vector.ofFn (fun i : Fin 16 => BitVec.ofNat 256 (fld b (0x880 + 32 * i.val) 32)),
    pins := (List.range np).map (fun k => let e := fld b (0xA80 + 8 * k) 8; (bits e 47 5 * 32, e.testBit 0)) }

/-- A code address of a register, in ENTRY layout: its reserved bits are zero, and SLOT is 0 to 4 (R40, R78). -/
def entryOf (v fix : Word) : Word := codeAddr (lineOf v) (if 4 < slotOf v then slotOf fix % 5 else slotOf v)

/-- The reserved bits of a code address read zero (R11, R79). -/
def codeBits (v : Word) : Word := codeAddr (lineOf v) (slotOf v)

/-- A pending loop value of an image. -/
def pendOf (b : List Byte) (k : Nat) : Option Word :=
  if (fld b 0x20 1).testBit k then some (codeBits (BitVec.ofNat 64 (fld b (0x28 + 8 * k) 8))) else none

/-- Loads a checked image into a hart (R85, R86): its overlay, snapshot, unpublished writes and mailbox are as the save
left them, HSTAT comes from the new placement, and the trap registers, which no image holds, are free values (R82). A held
acquire is held again, and a completion that the dispatcher has kept becomes PEND (R332). Reserved bits of the registers stay
zero (R11). DEDUCED (log 51). -/
def loadImage (s : State) (h : Hart) (b : List Byte) (gs : List Nat) : Hart :=
  let vk := BitVec.ofNat 2 (fld b 8 1); let rb := 1024 * 2 ^ vk.toNat; let g := rb / 64
  let w := fun k => fld b (0x340 + 8 * k) 8
  let w64 := fun k => BitVec.ofNat 64 (w k)
  let fr := fun k => Config.freeBits 64 s.free (h.id.uid * 8 + k)
  let ui := w 18; let ph := w 7
  let px := (List.range 64).foldl (fun (a : BitVec 64) k => if gs.contains ((0x100 + 8 * k) / 64) then putBits a k 1 1 else a) 0
  { h with
    id := { h.id with vk := vk }, pc := codeBits (BitVec.ofNat 64 (fld b 16 8)),
    sc := { x := Vector.ofFn (fun i : Fin 64 => BitVec.ofNat 64 (fld b (0x100 + 8 * i.val) 8)),
            xb := Vector.ofFn (fun i : Fin 8 => BitVec.ofNat 64 (fld b (0x300 + 8 * i.val) 8)),
            px := px, pxb := if gs.contains 12 then BitVec.allOnes 8 else 0 },
    vf := { v := Vector.ofFn (fun i : Fin 64 => imageReg b rb i.val), m := Vector.ofFn (fun i : Fin 8 => imageReg b rb (64 + i.val)),
            w := Vector.ofFn (fun i : Fin 4 => imageReg b rb (72 + i.val)),
            td := Vector.ofFn (fun i : Fin 4 => BitVec.ofNat 32 (fld b (0x850 + 4 * i.val) 4)),
            pv := Vector.ofFn (fun i : Fin 64 => imageRegPois gs g i.val), pm := Vector.ofFn (fun i : Fin 8 => imageRegPois gs g (64 + i.val)),
            pw := Vector.ofFn (fun i : Fin 4 => imageRegPois gs g (72 + i.val)), fw := Vector.replicate 4 0 },
    vc := { vl := BitVec.ofNat 17 (w 0), vtype := w64 1 &&& 0x80000000000001FF, vmt := BitVec.ofNat 2 (w 2), ves := BitVec.ofNat 17 (w 3), mode := modeOf (w 4),
            ashape := ashapeOf (w 5), fxm := fxmOf (w 6), sfth := BitVec.ofNat 32 (w 8), rseed := w64 9,
            ft := Vector.ofFn (fun i : Fin 16 => BitVec.ofNat 32 (fld b (0x400 + 4 * i.val) 4)) },
    phs := { h.phs with pcnt := BitVec.ofNat 32 ph, lrs := BitVec.ofNat 3 (bits ph 34 32), las := BitVec.ofNat 3 (bits ph 37 35),
                        pubp := !h.pend.isEmpty, hold := ph.testBit 39, holdUntil := s.cycle + 10 },
    loop0 := { lc := w64 10, lb := codeBits (w64 11), le := codeBits (w64 12), lbP := pendOf b 0, leP := pendOf b 1 },
    loop1 := { lc := w64 13, lb := codeBits (w64 14), le := codeBits (w64 15), lbP := pendOf b 2, leP := pendOf b 3 },
    ui := { uivec := codeBits (w64 16), uipc := codeBits (w64 17), en := ui.testBit 0, act := ui.testBit 1, pend := ui.testBit 2 || h.st.uiDue },
    trap := { tvec := entryOf (fr 0) (fr 0 >>> 3), tpc := entryOf (fr 1) (fr 1 >>> 3), code := Config.freeBits 16 s.free (h.id.uid * 8 + 2), ppriv := Config.freeBool s.free (h.id.uid * 8 + 3),
              puia := Config.freeBool s.free (h.id.uid * 8 + 4), tval := fr 5, tscr := fr 6 },
    bolter := bolterOf b,
    st := { h.st with yreq := false, priv := false, entry := none, half := false, fresh := false, inHandler := false,
                      stopDue := none, uiDue := false, asleep := none, lastRetire := nsNow s, wdStage := 0, hung := false, img := none,
                      line := none },
    convoy := none, rreq := none, gathered := [] }

end Sys2Proof.Machine
end

