-- ==== Sys2Proof/Machine/Sched.lean ====
section
/-! DEFINITION. The command unit and the scheduler: queues, tokens, placement rounds, victims, yields, stops, saves,
restores, ends (R45 to R58, R341 to R352), and major 0xC3 (R357). -/

namespace Sys2Proof.Machine

/-- SRC of a device's command unit (R383). -/
def srcCmd (dev : Nat) : BitVec 16 := srcOf 4 dev 0

/-! ### Taking and readiness (R343, R345) -/

/-- Every dependence of a launch is satisfied (R345). -/
def depsOk (s : State) (l : Launch) : Bool :=
  match findCtx s l.ctx with
  | none => false
  | some c => l.deps.all (fun t => t == 0 || tokenStatus c t == some true)

/-- Some dependence has failed. -/
def depFailed (s : State) (l : Launch) : Bool :=
  match findCtx s l.ctx with
  | none => false
  | some c => l.deps.any (fun t => t != 0 && tokenStatus c t == some false)

/-- Taken launches whose dependences are all satisfied become ready. -/
def markReady (s : State) : State :=
  let ls := s.launches.map (fun l => if l.readyAt.isNone && depsOk s l then { l with readyAt := some (nsNow s) } else l)
  { s with launches := ls }

/-- Adds 1 to REJ of a queue header (R341). -/
def bumpRej (s : State) (dev hdr : Nat) : State :=
  devWrite s dev (hdr + 0x20) (natLe 8 ((fld (devBytes s dev (hdr + 0x20) 8) 0 8 + 1) % 2 ^ 64))

/-- TAIL as the command unit takes it: from strong writes alone (R342). -/
def strongTail (s : State) (dev hdr : Nat) : Nat :=
  leNat ((List.range 8).map (fun i => match physLoc s.pkg dev (hdr + 0x10 + i) with
    | some l => ((s.mem.log.find? (fun w => w.strong && w.loc == l)).map (·.byte)).getD 0
    | none => 0))

/-- The next record of a queue, when one may be taken (R343): the header and the slot. -/
def nextRec (s : State) (dev q : Nat) : Option (Queue × Nat × Nat) :=
  match findQueue s dev q with
  | none => none
  | some x =>
    if x.paused || s.pkg.chg.isSome
        || s.launches.any (fun l => l.dev == dev && l.queue == q && l.insts.any (fun i => i.st == .never)) then none
    else match devRead s dev x.hdr 64 with
      | none => none
      | some b =>
        let tail := strongTail s dev x.hdr; let head := fld b 24 8
        if tail = head then none else some (x, head, fld b 0 8 + 128 * (head % 2 ^ min 64 (fld b 8 4)))

/-- A launch is rejected: REJ counts it, its DONE token fails, and an event records the cause (R43). -/
def rejectLaunch (s : State) (dev hdr ctx cause : Nat) (doneTok : BitVec 32) : State :=
  event (signalToken (bumpRej s dev hdr) ctx doneTok false) (srcCmd dev) cause 0 (some ctx) none none []

/-- LAUNCH_TAKE: reads a record, checks it and advances HEAD (R343). -/
def launchTakeOp (dev q : Nat) (s : State) : State :=
  match nextRec s dev q with
  | none => s
  | some (x, head, pa) =>
    let adv := fun st => devWrite st dev (x.hdr + 0x18) (natLe 8 ((head + 1) % 2 ^ 64))
    match devRead s dev pa 128 with
    | none =>
      let tok := match devRead s dev (pa + 64) 64 with | some b => BitVec.ofNat 32 (fld b 8 4) | none => 0
      rejectLaunch (adv s) dev x.hdr x.ctx 0x010A tok
    | some b =>
      let l := parseLaunch s.fresh x.ctx dev q b
      match launchCause s l b with
      | .inl c => rejectLaunch (adv s) dev x.hdr x.ctx c l.doneTok
      | .inr ft =>
        let l1 := { l with ft := ft, insts := instsOf l }
        let s1 := adv s
        markReady { s1 with launches := s1.launches ++ [l1], fresh := s1.fresh + 1 }

/-- LAUNCH_TAKE (R343). -/
def execLaunchTake (dev q : Nat) (s : State) : Out := .next (launchTakeOp dev q s)

/-- DEPENDENCE_FAIL: a launch with a failed dependence is removed (R345). -/
def dependenceFailOp (lid : Nat) (s : State) : State :=
  match findLaunch s lid with
  | none => s
  | some l =>
    if l.readyAt.isSome || !depFailed s l then s
    else
      let s1 := { s with launches := s.launches.filter (fun x => x.lid != lid) }
      match findQueue s l.dev l.queue with
      | some x => rejectLaunch s1 l.dev x.hdr l.ctx 0x0109 l.doneTok
      | none => event (signalToken s1 l.ctx l.doneTok false) (srcCmd l.dev) 0x0109 0 (some l.ctx) none none []

/-- DEPENDENCE_FAIL (R345). -/
def execDependenceFail (launch : Nat) (s : State) : Out := .next (dependenceFailOp launch s)

/-! ### Gang instances -/

def setInst (s : State) (lid gi : Nat) (st : InstSt) : State :=
  modLaunch s lid (fun l => { l with insts := l.insts.zipIdx.map (fun p => if p.2 = gi then { p.1 with st := st } else p.1) })

/-- The state of a gang instance. -/
def instState (l : Launch) (gi : Nat) : Option InstSt := (l.insts[gi]?).map (·.st)

/-- Every hart of an instance, partners included. -/
def instAll (s : State) (lid gi : Nat) : List Hart := (allHarts s).filter (fun h => h.id.launch == lid && h.id.ginst == gi)

/-- Applies `f` to the harts of an instance. -/
def mapInst (s : State) (lid gi : Nat) (f : Hart → Hart) : State :=
  mapHarts s (fun h => if h.id.launch = lid ∧ h.id.ginst = gi then f h else h)

/-- A core with no hart left on it is idle from now on (R463). -/
def noteIdle (s : State) (die core : Nat) : State :=
  if (allHarts s).any (fun h => h.id.die == die && h.id.core == core && h.takes) then s
  else modCore s die core (fun c => { c with idleSince := s.cycle })

/-- A hart that waits after its `yield` is stopped, as voluntary (R49). -/
def stopYielded (now time : Nat) (h : Hart) : Hart :=
  if h.st.life = .yielded then { h with st := { h.st with life := .stopped false now, stopTime := time } } else h

/-- What the states of its harts make of an instance: when every one has yielded, or the others have stopped, the
yielded ones stop; when none holds lanes any more, the instance is saved or has ended (R49, R50, R350). -/
def settleInst (s : State) (lid gi : Nat) : State :=
  match findLaunch s lid with
  | none => s
  | some l =>
    let hs := instAll s lid gi
    let on := hs.filter Hart.takes
    let running := on.filter (fun h => h.st.life == .placed || h.st.life == .ending || h.st.life == .staged)
    let s1 := if running.isEmpty then
        mapInst s lid gi (fun h => stopYielded s.cycle (timeOn s h.id.die) h) else s
    match instState l gi with
    | some (.placed o) =>
      if !on.isEmpty then s1
      else if hs.any (fun h => h.st.life == .saved) then saveState (setInst s1 lid gi (.saved o (nsNow s) false)) l gi
      else if hs.any (fun h => h.st.life == .ended) && hs.all (fun h => h.st.life == .ended) then
        freeSave (setInst s1 lid gi .ended) l.ctx lid gi
      else s1
    | _ => s1

/-- Settles every instance. -/
def settleAll (s : State) : State :=
  s.launches.foldl (fun st l => (List.range l.insts.length).foldl (fun st gi => settleInst st l.lid gi) st) s

/-! ### Placing (R33, R34, R44, R54, R85) -/

/-- Adds a hart to the machine. -/
def addHart (s : State) (h : Hart) : State :=
  if s.hart.st.life = .absent then { s with hart := h } else { s with others := s.others ++ [h] }

/-- A placement ends a structural test on the core (R464). -/
def endTest (s : State) (die core : Nat) : State :=
  if (findCore s die core).test.isSome then modCore s die core (fun c => { c with test := none }) else s

/-- Places the harts of a fresh instance. -/
def placeSpots (s : State) (l : Launch) (gi lanes : Nat) (vk : BitVec 2) (spots : List Spot) : State :=
  let s1 := sortBy (fun (a b : Spot) => decide (a.flat ≤ b.flat)) spots |>.foldl (fun st sp =>
    let h := beginHart st (entryHart st l gi sp st.fresh lanes vk)
    movePorts (addHart { endTest st sp.die sp.core with fresh := st.fresh + 1 } h) h sp.die) s
  let red := l.red
  let pairs := spots.filterMap (fun sp => if sp.partner || !red then none else
    match (allHarts s1).find? (fun h => h.id.launch == l.lid && h.id.flat == sp.flat && !h.id.partner),
          (allHarts s1).find? (fun h => h.id.launch == l.lid && h.id.flat == sp.flat && h.id.partner) with
    | some a, some b => some { uid := a.id.uid, partner := b.id.uid, req := none, joint := none : Pair }
    | _, _ => none)
  let s2 := { s1 with pairs := s1.pairs ++ pairs, mem := { s1.mem with phase := s1.mem.phase + 1 } }
  modLaunch (setInst { s2 with fresh := s2.fresh + 1 } l.lid gi (.placed s2.fresh)) l.lid (fun l => { l with grant := some (lanes, vk) })

/-- Lanes and VLEN code of a launch's harts (R31, R33, R55). -/
def grantOf (s : State) (l : Launch) : Nat × BitVec 2 :=
  l.grant.getD (
    let vlk := ((findCtx s l.ctx).map (·.vlk)).getD 0
    let lanes := lanesFor l.vlreq vlk
    (lanes, vkFor lanes vlk))

/-- Places one instance that was never placed, with some contexts held back; none when it does not fit. -/
def placeOne (s : State) (l : Launch) (gi : Nat) (held : List Taken) : Option State :=
  let g := grantOf s l
  (freshSpots s l gi g.1 (fun _ => true) (inUse s held)).map (placeSpots s l gi g.1 g.2)

/-- The instances never placed, ascending. -/
def neverInsts (l : Launch) : List Nat := ((l.insts.zipIdx.filter (fun i => i.1.st == .never)).map (·.2))

/-- Places as many instances as fit, in ascending flat index (R347). -/
def placeMany (lid : Nat) (held : List Taken) : List Nat → State → Bool → State × Bool
  | [], s, any => (s, any)
  | gi :: r, s, any => match (findLaunch s lid).bind (fun l => placeOne s l gi held) with
    | some s1 => placeMany lid held r s1 true
    | none => placeMany lid held r s any

/-- The chain holds a restored instance to the cores it had (R268). -/
def chained (hs : List Hart) : Bool := hs.any (fun h => h.vc.mode.chn)

/-- The places for the saved harts of an instance among some cores, given the contexts in use. -/
def savedSpots (s : State) (l : Launch) (gi : Nat) (among : Nat × Nat → Bool) (t : List Taken) : Option (List Spot) :=
  let hs := (instAll s l.lid gi).filter (fun h => h.st.life == .saved)
  let first := ((l.insts[gi]?).map (·.first)).getD 0
  if chained hs then
    let own := hs.map (fun h => { flat := h.id.flat, partner := h.id.partner, die := h.id.die, core := h.id.core, hnum := h.id.hnum : Spot })
    if own.all (fun sp => coreTakes s l.prio (sp.die, sp.core) && among (sp.die, sp.core)
        && (onCore t (sp.die, sp.core)).all (fun x => x.2.2.1 != sp.hnum && hs.all (fun h => h.lanes == x.2.2.2))) then some own else none
  else match hs.head? with
    | none => none
    | some h => (fitInst l h.lanes (coresFor s l gi false false among) (coresFor s l gi true false among) first t
        (some (hs.map (fun h => (h.id.flat, h.id.partner))))).map (·.2)

/-- The contexts that may be exchanged with an incoming hart of as many lanes (R54): those of harts that have stopped, and
those of harts that have been asked to stop for it (R351). -/
def switchable (s : State) (lanes : Nat) (mine : List Taken) (h : Hart) : Bool :=
  (match h.st.life with
    | .stopped _ _ => true
    | .placed | .yielded => h.st.yreq && mine.contains (h.id.die, h.id.core, h.id.hnum, h.lanes)
    | _ => false) && h.lanes == lanes
  && !(allHarts s).any (fun x => x.st.life == .staged && x.id.die == h.id.die && x.id.core == h.id.core && x.id.hnum == h.id.hnum)

/-- The refusal of a saved instance, if one of its images fails its check (R85). -/
def instCause (s : State) (l : Launch) (gi : Nat) : Option Nat :=
  let vlk := ((findCtx s l.ctx).map (·.vlk)).getD 0
  ((instAll s l.lid gi).filter (fun h => h.st.life == .saved)).findSome? (fun h =>
    let pa := imageAddr s h
    imageCause (devBytes s h.id.dev pa (max 4096 (imageBytes h.vlen))) (headClean s h.id.dev pa) vlk h.lanes)

/-- A scalar context that a hart takes up. -/
def spotBusy (s : State) (sp : Spot) : Bool :=
  (allHarts s).any (fun x => x.takes && x.id.die == sp.die && x.id.core == sp.core && x.id.hnum == sp.hnum)

/-- Loads one hart of a checked instance at its new place: at once, or into the shadow bank (R52, R54). -/
def loadHart (s : State) (sp : Spot) (late : Bool) (uid : Nat) : State :=
  match findHart s uid with
  | none => s
  | some h =>
    let pa := imageAddr s h; let n := max 4096 (imageBytes h.vlen)
    let b := devBytes s h.id.dev pa n
    let gs := (List.range (n / 64)).filter (fun g => devPois s h.id.dev (pa + 64 * g))
    let h0 := { h with id := { h.id with die := sp.die, core := sp.core, hnum := sp.hnum } }
    let h1 := loadImage s h0 b gs
    let h2 := { h1 with st := { h1.st with life := if late then .staged else .placed, valid := 0, issueFrom := s.cycle + 96, outCyc := 0 } }
    let s1 := movePorts (modHart (endTest s sp.die sp.core) uid (fun _ => h2)) h2 sp.die
    moveMarker s1 h.id.launch h.id.flat h.id.die sp.die

/-- Restores a saved instance to some places: its harts run at once, or are all staged while a context is still taken up. -/
def restoreAt (s : State) (l : Launch) (gi : Nat) (spots : List Spot) : State :=
  let late := spots.any (spotBusy s)
  let s1 := spots.foldl (fun st sp =>
    match (instAll s l.lid gi).find? (fun h => h.st.life == .saved && h.id.flat == sp.flat && h.id.partner == sp.partner) with
    | some h => loadHart st sp late h.id.uid
    | none => st) (loadState s l gi)
  freeSave (setInst { s1 with fresh := s1.fresh + 1 } l.lid gi (.placed s1.fresh)) l.ctx l.lid gi

/-- The refusal of a restore: its event, and the instance is no candidate (R56). -/
def refuseRestore (s : State) (l : Launch) (gi cause : Nat) : State :=
  let s1 := event s (srcCmd l.dev) cause 0 (some l.ctx) none none []
  match instState l gi with
  | some (.saved o t _) => setInst s1 l.lid gi (.saved o t true)
  | _ => s1

/-- The contexts reserved for a candidate (R348). -/
def resvOf (d : Device) (key : Nat × Nat) : List Taken := (d.resv.filter (fun r => r.1 == key)).flatMap (·.2)

/-- Where a saved instance can go, with some contexts held back: onto free contexts, or onto those of harts that it is
exchanged with (R54). -/
def restoreSpots (s : State) (l : Launch) (gi : Nat) (held : List Taken) : Option (List Spot) :=
  match savedSpots s l gi (fun _ => true) (inUse s held) with
  | some r => some r
  | none =>
    let lanes := (((instAll s l.lid gi).head?).map (·.lanes)).getD 32
    let mine := resvOf (findDev s l.dev) (l.lid, gi)
    let t := ((allHarts s).filter (fun h => h.takes && !switchable s lanes mine h)).map (fun h => (h.id.die, h.id.core, h.id.hnum, h.lanes))
    savedSpots s l gi (fun _ => true) (t ++ held.filter (fun r => !(t.any (fun x => x.1 == r.1 && x.2.1 == r.2.1 && x.2.2.1 == r.2.2.1))))

/-- Restores a saved instance, or refuses it; the flag tells whether it was placed. -/
def restoreInst (s : State) (l : Launch) (gi : Nat) (held : List Taken) : State × Bool :=
  match restoreSpots s l gi held with
  | none => (s, false)
  | some spots => match instCause s l gi with
    | some c => (refuseRestore s l gi c, false)
    | none => (restoreAt s l gi spots, true)

/-- RESTORE: the saved instance of a hart is checked and loaded, when the hart's place is the one named (R85). -/
def restoreOp (uid die core hnum : Nat) (s : State) : State :=
  match findHart s uid with
  | none => s
  | some h => match findLaunch s h.id.launch with
    | none => s
    | some l => match instState l h.id.ginst with
      | some (.saved _ _ false) =>
        match restoreSpots s l h.id.ginst [] with
        | none => s
        | some spots =>
          if spots.any (fun sp => sp.flat == h.id.flat && sp.partner == h.id.partner && sp.die == die && sp.core == core && sp.hnum == hnum)
          then (restoreInst s l h.id.ginst []).1 else s
      | _ => s

/-- RESTORE (R85). -/
def execRestore (h die core hnum : Nat) (s : State) : Out := .next (restoreOp h die core hnum s)

/-! ### Switching in (R52 to R54, R351) -/

/-- Cycles that the transfer of one register takes (R53). -/
def regCycles (h : Hart) : Nat := max 1 (h.vlen / 8 / 1024)

/-- Two harts name one scalar context. -/
def sameCtx (a b : Hart) : Bool := a.id.die == b.id.die && a.id.core == b.id.core && a.id.hnum == b.id.hnum

/-- The hart whose registers leave the context that a staged hart is to take. -/
def outgoing (s : State) (h : Hart) : Option Hart :=
  (allHarts s).find? (fun x => sameCtx x h && (match x.st.life with | .leaving _ _ => true | _ => false))

/-- No hart runs or waits any more in the context that a staged hart is to take, and its core is not fenced (R384). -/
def ctxClear (s : State) (h : Hart) : Bool :=
  !(findCore s h.id.die h.id.core).fenced
  && (allHarts s).all (fun x => !(sameCtx x h && x.onCore) || (match x.st.life with | .leaving _ _ => true | _ => false))

/-- The cycle from which a staged hart could issue: 96 cycles after its bank was loaded, and after the outgoing hart stopped
(R52). -/
def readyFrom (s : State) (h : Hart) : Nat :=
  match outgoing s h with
  | none => h.st.issueFrom
  | some x => match x.st.life with
    | .leaving _ t => max h.st.issueFrom (t + 96)
    | _ => h.st.issueFrom

/-- Switches the staged harts of an instance in, all from one cycle on, once every context that they take is clear (R54,
R351). A completion that came while a hart was staged becomes PEND (R332). DEDUCED (log 102). -/
def switchIn (s : State) (lid gi least : Nat) : State :=
  let hs := (instAll s lid gi).filter (fun h => h.st.life == .staged)
  if hs.isEmpty || !hs.all (ctxClear s) then s
  else
    let go := (hs.map (readyFrom s)).foldl max least
    mapHarts s (fun h =>
      if h.id.launch = lid ∧ h.id.ginst = gi ∧ h.st.life = .staged then
        { h with st := { h.st with life := .placed, issueFrom := go, valid := 0, uiDue := false, lastRetire := nsNow s,
                                   outCyc := ((outgoing s h).map regCycles).getD 0 },
                 ui := { h.ui with pend := h.ui.pend || h.st.uiDue } }
      else h)

/-- The instances with a hart staged on the context of a hart. -/
def stagedOn (s : State) (h : Hart) : List (Nat × Nat) :=
  (((allHarts s).filter (fun x => x.st.life == .staged && sameCtx x h)).map (fun x => (x.id.launch, x.id.ginst))).eraseDups

/-- Switches every staged instance in that can be. -/
def switchAll (s : State) : State :=
  ((((allHarts s).filter (fun x => x.st.life == .staged)).map (fun x => (x.id.launch, x.id.ginst))).eraseDups).foldl
    (fun st i => switchIn st i.1 i.2 (s.cycle + 96)) s

/-! ### Rounds and victims (R46, R47, R347, R348) -/

/-- A candidate of a placement round. -/
structure Cand where
  ep : Nat
  q : Nat
  saved : Bool
  since : Nat
  lid : Nat
  gi : Nat
  deriving DecidableEq, Repr

/-- Effective priority of waiting work (R46). -/
def effPrio (s : State) (prio since : Nat) : Nat := min 8 (prio + (nsNow s - since) / 4000000)

/-- The candidates of a device (R347). -/
def candidates (s : State) (dev : Nat) : List Cand :=
  let d := findDev s dev
  s.launches.flatMap (fun l =>
    if l.dev ≠ dev ∨ ((findCtx s l.ctx).bind (·.kill)).isSome then []
    else
      let fresh := match l.readyAt, neverInsts l with
        | some t, gi :: _ =>
          if d.queues.any (fun q => q.q == l.queue && !q.paused) then
            [{ ep := effPrio s l.prio t, q := l.queue, saved := false, since := t, lid := l.lid, gi := gi : Cand }] else []
        | _, _ => []
      let old := l.insts.zipIdx.filterMap (fun i => match i.1.st with
        | .saved _ t false => some { ep := effPrio s l.prio t, q := l.queue, saved := true, since := t, lid := l.lid, gi := i.2 : Cand }
        | _ => none)
      fresh ++ old)

/-- The order of candidates: effective priority, then queues from the round-robin pointer, then saved instances first, then
the oldest (R347). -/
def Cand.le (rr nq : Nat) (a b : Cand) : Bool :=
  let ka := (a.q + nq - rr % nq) % nq; let kb := (b.q + nq - rr % nq) % nq
  if a.ep ≠ b.ep then decide (b.ep < a.ep)
  else if ka ≠ kb then decide (ka < kb)
  else if a.saved ≠ b.saved then a.saved
  else decide (a.since ≤ b.since)

/-- Tries to place a candidate, with some contexts held back. -/
def tryCand (s : State) (c : Cand) (held : List Taken) : State × Bool :=
  match findLaunch s c.lid with
  | none => (s, false)
  | some l =>
    if c.saved then restoreInst s l c.gi held else placeMany c.lid held (neverInsts l) s false

/-- The contexts that reservations hold against a candidate (R348). -/
def reservedFrom (d : Device) (cs : List Cand) (c : Cand) : List Taken :=
  d.resv.flatMap (fun r =>
    let ep := ((cs.find? (fun x => (x.lid, x.gi) == r.1)).map (·.ep)).getD 0
    if (c.lid, c.gi) = r.1 ∨ ep < c.ep then [] else r.2)

/-- Tries the candidates in order; the one that was placed. -/
def tryAll (d : Device) (cs : List Cand) : List Cand → State → State × Option Cand
  | [], s => (s, none)
  | c :: r, s => match tryCand s c (reservedFrom d cs c) with
    | (s1, true) => (s1, some c)
    | (s1, false) => tryAll d cs r s1

/-- One instance of a candidate would fit among some cores, given the contexts in use (R348). DEDUCED (log 53). -/
def candFits (s : State) (c : Cand) (t : List Taken) (among : Nat × Nat → Bool) : Bool :=
  match findLaunch s c.lid with
  | none => false
  | some l =>
    if c.saved then (savedSpots s l c.gi among t).isSome
    else (neverInsts l).any (fun gi => (freshSpots s l gi (grantOf s l).1 among t).isSome)

/-- The placed instances that may be victims of a candidate, the first to be chosen first (R348). -/
def victimPool (s : State) (dev : Nat) (c : Cand) : List (Nat × Nat) :=
  let all := s.launches.flatMap (fun l =>
    if l.dev ≠ dev ∨ l.lid = c.lid ∨ c.ep ≤ l.prio then []
    else l.insts.zipIdx.filterMap (fun i => match i.1.st with
      | .placed o =>
        let hs := instHarts s l.lid i.2
        let no := ((findCtx s l.ctx).map (·.saveRefused)).getD [(l.lid, i.2)]
        if no.contains (l.lid, i.2) || hs.isEmpty || hs.any (fun h => h.st.yreq || h.st.stopDue.isSome) then none else some (l.prio, o, l.lid, i.2)
      | _ => none))
  (sortBy (fun (a b : Nat × Nat × Nat × Nat) => if a.1 ≠ b.1 then decide (a.1 < b.1) else decide (b.2.1 ≤ a.2.1)) all).map
    (fun v => (v.2.2.1, v.2.2.2))

/-- Adds victims until their release would let the candidate fit: the state with their save space held, and the
victims; and the instances whose save has no space. -/
def chooseVictims (c : Cand) (held : List Taken) :
    List (Nat × Nat) → State → List (Nat × Nat) → List (Nat × Nat) → Option (State × List (Nat × Nat)) × List (Nat × Nat)
  | [], _, _, no => (none, no)
  | v :: r, s, took, no => match holdSave s v.1 v.2 with
    | none => chooseVictims c held r s took (v :: no)
    | some s1 =>
      let took1 := v :: took
      let t := ((allHarts s1).filter (fun h => h.takes && !took1.contains (h.id.launch, h.id.ginst))).map
        (fun h => (h.id.die, h.id.core, h.id.hnum, h.lanes))
      if candFits s1 c (t ++ held) (fun _ => true) then (some (s1, took1), no) else chooseVictims c held r s1 took1 no

/-- Sets YREQ in the harts of an instance (R49); with no grace every one is to stop. -/
def askYield (s : State) (v : Nat × Nat) : State :=
  let ydl := ((findLaunch s v.1).map (·.ydl)).getD 0
  mapInst s v.1 v.2 (fun h => if h.live = true then
    { h with st := { h.st with yreq := true, yreqAt := s.cycle, stopDue := if ydl = 0 then some true else none } } else h)

/-- Selects victims for a candidate and reserves what they will free (R348). -/
def selectVictims (s : State) (dev : Nat) (cs : List Cand) (c : Cand) : State :=
  let r := chooseVictims c (reservedFrom (findDev s dev) cs c) (victimPool s dev c) s [] []
  let refuse := fun st => r.2.foldl (fun st v => match findLaunch st v.1 with | some l => saveRefusedEv st l.ctx v.1 v.2 | none => st) st
  match r.1 with
  | none => refuse s
  | some (s1, vs) =>
    let ctxs := ((allHarts s1).filter (fun h => h.takes && vs.contains (h.id.launch, h.id.ginst))).map
      (fun h => (h.id.die, h.id.core, h.id.hnum, h.lanes))
    modDev (vs.foldl askYield (refuse s1)) dev (fun d => { d with resv := ((c.lid, c.gi), ctxs) :: d.resv })

/-- A candidate is entitled to pre-empt some placed instance (R47). -/
def entitled (s : State) (dev : Nat) (c : Cand) : Bool :=
  s.launches.any (fun l => l.dev == dev && l.lid != c.lid && decide (l.prio < c.ep)
    && l.insts.any (fun i => match i.st with | .placed _ => true | _ => false))

/-- PLACEMENT_ROUND: one round of a device's command unit (R347). -/
def placementRoundOp (dev : Nat) (s : State) : State :=
  let d0 := findDev s dev
  if d0.lastRound ≠ 0 ∧ s.cycle < d0.lastRound + 64 then s
  else
    let s1 := switchAll (settleAll (markReady (modDev s dev (fun d => { d with lastRound := s.cycle }))))
    let nq := queueCount s1.pkg.mode
    let cs := sortBy (Cand.le d0.rr nq) (candidates s1 dev)
    let s2 := modDev s1 dev (fun d => { d with resv := d.resv.filter (fun r => cs.any (fun c => (c.lid, c.gi) == r.1)) })
    let d := findDev s2 dev
    match tryAll d cs cs s2 with
    | (s3, some c) =>
      let met := fun (r : (Nat × Nat) × List Taken) => r.1 == (c.lid, c.gi) || (allHarts s3).any (fun h => h.id.launch == c.lid && h.takes
        && r.2.any (fun t => t.1 == h.id.die && t.2.1 == h.id.core && t.2.2.1 == h.id.hnum))
      modDev s3 dev (fun d => { d with rr := (c.q + 1) % nq, resv := d.resv.filter (fun r => !met r) })
    | (s3, none) =>
      -- a candidate whose restore was refused in this round is one no more (R56)
      let left := cs.filter (fun c => (candidates s3 dev).any (fun x => x.lid == c.lid && x.gi == c.gi && x.saved == c.saved))
      match left.find? (entitled s3 dev) with
      | none => s3
      | some c => if d.resv.any (fun r => r.1 == (c.lid, c.gi)) then s3 else selectVictims s3 dev left c

/-- PLACEMENT_ROUND (R347). -/
def execPlacementRound (dev : Nat) (s : State) : Out := .next (placementRoundOp dev s)

/-! ### Stops and saves (R49 to R53) -/

/-- What remains of an array operation when the hart stops: the rows a drain has written count, and the rest starts
again (R253, R410). -/
def stopArr (a : ArrayRun) : ArrayRun := { a with since := none, drain := none, chain := none, prod := none, began := none, entered := [] }

/-- The focus hart stops at this boundary (R49, R352, R410). -/
def stopHere (forced : Bool) (s : State) : State :=
  let s1 := match s.hart.vc.mode.st with
    | 4 => if s.hart.arr.since.isSome then drainProgress s else s
    | _ => s
  s1.onHart (fun h =>
    { h with
      st := { h.st with life := .stopped forced s.cycle, stopDue := none, asleep := none, half := false, uiDue := false,
                        stopTime := timeOn s h.id.die },
      ui := { h.ui with pend := h.ui.pend || h.st.uiDue },
      arr := stopArr h.arr, rreq := none, gathered := [] })

/-- The stop of a hart at the boundary before its next instruction. -/
def stopOp (s : State) : State :=
  match s.hart.st.stopDue with
  | none => s
  | some f => settleInst (stopHere f s) s.hart.id.launch s.hart.id.ginst

/-- YIELD_DEADLINE: the harts that have not yielded are to stop as forced, and those that have are stopped as
voluntary (R49). -/
def yieldDeadlineOp (lid gi : Nat) (s : State) : State :=
  match findLaunch s lid with
  | none => s
  | some l => mapInst s lid gi (fun h =>
    if h.st.yreq = true ∧ h.st.yreqAt + 256 * l.ydl ≤ s.cycle then
      (if h.live = true then { h with st := { h.st with stopDue := some true } }
       else stopYielded s.cycle (timeOn s h.id.die) h)
    else h)

/-- YIELD_DEADLINE (R49). -/
def execYieldDeadline (launch ginst : Nat) (s : State) : Out := .next (yieldDeadlineOp launch ginst s)

/-- SHADOW_SWITCH: 96 cycles after its stop, a hart's bank is exchanged with that of a staged hart (R52); a staged hart whose
context has fallen free otherwise is switched in from now on. -/
def shadowSwitchOp (uid : Nat) (s : State) : State :=
  match findHart s uid with
  | none => s
  | some h => match h.st.life with
    | .stopped f t =>
      if s.cycle < t + 96 then s
      else (stagedOn s h).foldl (fun st i => switchIn st i.1 i.2 0)
        (modHart s uid (fun h => { h with st := { h.st with life := .leaving f t } }))
    | .staged => switchIn s h.id.launch h.id.ginst (s.cycle + 96)
    | _ => s

/-- SHADOW_SWITCH (R52). -/
def execShadowSwitch (h : Nat) (s : State) : Out := .next (shadowSwitchOp h s)

/-- The cycles from the switch after which a register's inward transfer is complete: each register comes in after the one
before it, and after the outgoing one has left (R53, R54). -/
def fillTime (h : Hart) (reg : Nat) : Nat :=
  let o := h.st.outCyc; let c := regCycles h
  max (o + (reg + 1) * c) ((reg + 1) * o + c)

/-- SPILL_REG_DONE: the inward transfer of a register completes, in order (R53, R54). -/
def spillRegDoneOp (uid reg : Nat) (s : State) : State :=
  modHart s uid (fun h =>
    if h.st.life = .placed ∧ h.st.valid.getLsbD reg = false ∧ (List.range reg).all h.st.valid.getLsbD = true
      ∧ h.st.issueFrom + fillTime h reg ≤ s.cycle then
      { h with st := { h.st with valid := putBits h.st.valid reg 1 1 } } else h)

/-- SPILL_REG_DONE (R53). -/
def execSpillRegDone (h : Nat) (reg : Fin 76) (s : State) : Out := .next (spillRegDoneOp h reg.val s)

/-- A command of the hart's vector port has neither completed nor faulted (R323). -/
def portBusy (s : State) (h : Hart) : Bool :=
  !(vportCmds s h).isEmpty

/-- IMAGE_WRITEBACK: the image of a hart whose registers have left is in its save area (R53), once its vector-port
commands have ended (R323). A hart whose watchdog
reached stage 2 in its save is marked hung, and its context is killed (R482). Flagged accumulators are recorded
(R456). -/
def imageWritebackOp (uid : Nat) (s : State) : State :=
  match findHart s uid with
  | none => s
  | some h => match h.st.life with
    | .leaving f t =>
      if s.cycle < t + 96 + 76 * regCycles h || portBusy s h then s
      else
        let s0 := if h.vf.fw.toList.any (fun r => r != 0) then withHart s uid residueFail else s
        let s1 := writeImage s0 h (f || h.st.hung)
        let s2 := noteIdle (modHart s1 uid (fun h => { h with st := { h.st with life := .saved } })) h.id.die h.id.core
        if h.st.hung then containedKill s2 h.src 0x0831 h.id.ctx (some h.id.flat) none []
        else settleInst s2 h.id.launch h.id.ginst
    | _ => s

/-- IMAGE_WRITEBACK (R53). -/
def execImageWriteback (h : Nat) (s : State) : Out := .next (imageWritebackOp h s)

/-! ### `yield` and `sleep` (R51, R357) -/

/-- Work of equal or greater effective priority waits and could be placed on what the focus hart's instance holds.
DEDUCED (log 52). -/
def offerTaken (s : State) (l : Launch) : Bool :=
  let me := s.hart.id
  let mine := instHarts s me.launch me.ginst
  let cores := (mine.map (fun h => (h.id.die, h.id.core))).eraseDups
  let t := ((allHarts s).filter (fun h => h.takes && !(h.id.launch == me.launch && h.id.ginst == me.ginst))).map
    (fun h => (h.id.die, h.id.core, h.id.hnum, h.lanes))
  let cs := candidates (markReady s) l.dev
  cs.any (fun c => decide (l.prio ≤ c.ep) && candFits s c (t ++ reservedFrom (findDev s l.dev) cs c) cores.contains)

/-- The state after a `yield` has retired, with `k` unless its retirement trapped. -/
def yieldRetire (s : State) (k : State → State) : State :=
  let s1 := retire s s
  if s1.hart.st.retired = s.hart.st.retired then s1 else k s1

/-- `yield` (R49 to R51, R404). -/
def yieldOp (s : State) : State :=
  afterReleases s fun s =>
    let me := s.hart.id
    match findLaunch s me.launch with
    | none => retire s s
    | some l =>
      if s.hart.st.inHandler then retire s s
      else if s.hart.st.yreq then
        yieldRetire s fun s1 => settleInst (s1.onHart (fun h => { h with st := { h.st with life := .yielded } })) me.launch me.ginst
      else if !offerTaken s l then retire s s
      else match holdSave s me.launch me.ginst with
        | none => retire s (saveRefusedEv s me.ctx me.launch me.ginst)
        | some s1 => yieldRetire s1 fun s2 =>
          let s3 := mapInst s2 me.launch me.ginst (fun h => if h.live = true then { h with st := { h.st with stopDue := some false } } else h)
          stopOp s3

/-- `yield` (R51). -/
def execYield (s : State) : Out := .next (yieldOp s)

/-- The wake condition of a `sleep` that began in cycle `since`: the first that arose, and the lowest code of those that
arose in one cycle (R357). -/
def sleepCode (s : State) (deadline since : Nat) : Option Nat :=
  let h := s.hart
  let ui := h.st.uiDue || (h.ui.pend && h.ui.en)
  let came := fun (c : Nat) => min s.cycle (max since c)
  let first := min (if ui then came h.st.uiAt else s.cycle) (if h.st.yreq then came h.st.yreqAt else s.cycle)
  if deadline ≤ timeAt h.id.die first then some 0
  else if ui && decide (came h.st.uiAt ≤ first) then some 1
  else if h.st.yreq then some 2
  else if ui then some 1
  else none

/-- `sleep` until a TIME, from the cycle in which it began (R357). -/
def sleepFrom (xd : XReg) (deadline since : Nat) (s : State) : State :=
  match sleepCode s deadline since with
  | some c => retire s (s.setX xd (BitVec.ofNat 64 c))
  | none => asleepOn s (.sleep xd deadline since)

/-- `sleep` as it begins. -/
def sleepOp (xd : XReg) (deadline : Nat) (s : State) : State := sleepFrom xd deadline s.cycle s

/-- `sleep` (R357). -/
def execSleep (xd xs1 : XReg) (s : State) : Out := .next (consume s [xs1] fun s => sleepOp xd (s.x xs1).toNat s)

/-! ### Ends (R58, R346) -/

/-- HART_END: a placed hart of a launch ends; its release is at the scope of the outermost level (R58). DEDUCED (log 54). -/
def hartEndOp (s : State) : State :=
  let h := s.hart
  if h.st.life ≠ .placed then s
  else match findLaunch s h.id.launch with
    | none => s
    | some l =>
      let sc := numScope ((l.levels.getLast?).map (·.scope) |>.getD 0)
      let s1 := releaseStart s sc .hartEnd false
      let s2 := flushPend (s1.onHart (fun h =>
        { h with st := { h.st with life := .ending, asleep := none, stopDue := none }, convoy := none }))
      (stagedOn s2 h).foldl (fun st i => switchIn st i.1 i.2 (s.cycle + 96))
        (settleInst (noteIdle s2 h.id.die h.id.core) h.id.launch h.id.ginst)

/-- HART_END (R58). -/
def execHartEnd (h : Nat) (s : State) : Out := .next (withHart s h hartEndOp)

/-- LAUNCH_COMPLETE: every hart has ended, and the DONE token signals (R58, R346). -/
def launchCompleteOp (lid : Nat) (s : State) : State :=
  match findLaunch s lid with
  | none => s
  | some l =>
    let hs := (allHarts s).filter (fun h => h.id.launch == lid && !h.id.partner)
    if l.ended.length ≠ hOf l.levels (l.levels.length - 1) ∨ ((findCtx s l.ctx).bind (·.kill)).isSome = true then s
    else
      let die := ((hs.head?).map (·.id.die)).getD 0
      let place : Place := { dev := l.dev, die := die, core := 0, uid := 0 }
      let m := publish s.mem (hs.flatMap (publishedSet s)) { scope := .device, place := place }
      let s1 := signalToken { s with mem := { m with phase := m.phase + 1 } } l.ctx l.doneTok true
      markReady (dropLaunch s1 l)

/-- LAUNCH_COMPLETE (R58). -/
def execLaunchComplete (launch : Nat) (s : State) : Out := .next (launchCompleteOp launch s)

end Sys2Proof.Machine
end

