-- ==== Sys2Proof/Machine/Integrity.lean ====
section
/-! DEFINITION. Kill and quiesce, divergence of redundant pairs, structural tests and watchdogs (R448 to R452, R458 to R468,
R480 to R483). -/

namespace Sys2Proof.Machine

/-! ### Quiesce (R450, R451) -/

/-- No hart of the context holds lanes, and no request of it waits for a remote acknowledgement. -/
def quiesceReady (s : State) (c : Nat) : Bool :=
  (allHarts s).all (fun h => !(h.id.ctx == c && h.onCore))
  && s.paths.all (fun p => p.failed || p.out.all (fun o => o.ctx != c))

/-- The writes that the copies of a context have made stay, without a record. -/
def cancelCopies (s : State) (c : Nat) : State :=
  (s.ports.filter (fun p => p.ctx == c)).foldl (fun st p =>
    p.cmds.foldl (fun st d => if d.st = .accepted then st else (logCopy st d).1) st) s

/-- Releases every pin of the harts of a context, saved ones included (R438, R439). -/
def releasePins (s : State) (c : Nat) : State :=
  ((allHarts s).filter (fun h => h.id.ctx == c && !h.bolter.pins.isEmpty)).foldl
    (fun st h => withHart st h.id.uid (fun st => dropPins st (fun _ => true))) s

/-- The fence is passed: every operation of the context is gone, 0x0406 is recorded and the number is free. -/
def quiesceEnd (s : State) (x : Ctx) : State :=
  let c := x.num
  let s1 := releasePins (cancelCopies s c) c
  let s2 := x.tiles.foldl (fun st t => wipeTile st c t.h) s1
  let s3 := event s2 (srcOf 4 x.dev 0) 0x0406 0 (some c) none none []
  let ls := (s3.launches.filter (fun l => l.ctx == c)).map (·.lid)
  let gone := ((allHarts s3).filter (fun h => h.id.ctx == c)).map (·.id.uid)
  { s3 with
    hart := if s3.hart.id.ctx = c then Hart.reset else s3.hart,
    others := s3.others.filter (fun h => h.id.ctx != c),
    pairs := s3.pairs.filter (fun p => !gone.contains p.uid),
    ctxs := s3.ctxs.filter (fun y => y.num != c),
    launches := s3.launches.filter (fun l => l.ctx != c),
    mills := s3.mills.filter (fun m => !ls.contains m.launch),
    ports := s3.ports.filter (fun p => p.ctx != c),
    copies := s3.copies.filter (fun p => p.ctx != c) }

/-- QUIESCE_DONE on a context being killed (R450). -/
def quiesceDoneOp (c : Nat) (s : State) : State :=
  match findCtx s c with
  | none => s
  | some x => if x.kill.isSome && quiesceReady s c then quiesceEnd s x else s

/-- QUIESCE_DONE (R450). -/
def execQuiesceDone (ctx : Nat) (s : State) : Out := .next (quiesceDoneOp ctx s)

/-- The units that still hold operations of a context: dispatchers, Millraces, Ethernet ports and cores. -/
def holders (s : State) (c : Nat) : List (BitVec 16) :=
  let ds := (s.ports.filter (fun p => p.ctx == c)).flatMap (fun p => p.cmds.map (fun d => srcStream (cmdDie p d)))
  let ms := (s.mills.filter (fun m => ((findLaunch s m.launch).map (·.ctx)) == some c
    && m.acts.any (fun a => a.2.2 == .started))).map (fun m => srcMill m.die)
  let es := (s.paths.filter (fun p => !p.failed && p.out.any (fun o => o.ctx == c))).map (fun p => srcOf 8 0 p.port)
  let cs := ((allHarts s).filter (fun h => h.id.ctx == c && h.onCore)).map (·.src)
  (ds ++ ms ++ es ++ cs).eraseDups

/-- Records 0x0407 at a unit and fences it (R384, R385). -/
def fenceUnit (s : State) (c : Nat) (src : BitVec 16) : State :=
  let s1 := event s src 0x0407 2 (some c) none none []
  if src.toNat < 4096 then fenceCore s1 (src.toNat / 64) (src.toNat % 64) true 0x0407 else fenceSrc s1 src

/-- QUIESCE_OVERRUN: 20 ms after the kill's start the units that hold operations are fenced, their operations count as
cancelled, and the quiesce completes (R451). -/
def quiesceOverrunOp (c : Nat) (s : State) : State :=
  match findCtx s c with
  | none => s
  | some x => match x.kill with
    | none => s
    | some t =>
      if s.cycle < t + 24000000 ∨ quiesceReady s c then s
      else
        let s1 := (holders s c).foldl (fun st u => fenceUnit st c u) s
        let ps := s1.paths.map (fun p => { p with out := p.out.filter (fun o => o.ctx != c) })
        quiesceEnd { s1 with paths := ps } x

/-- QUIESCE_OVERRUN (R451). -/
def execQuiesceOverrun (ctx : Nat) (s : State) : Out := .next (quiesceOverrunOp ctx s)

/-! ### Divergence of a redundant pair (R460 to R462) -/

/-- The pair of a visible hart, with both harts. -/
def redPair (s : State) (uid : Nat) : Option (Pair × Hart × Hart) :=
  match s.pairs.find? (fun p => p.uid == uid) with
  | none => none
  | some p => match findHart s p.uid, findHart s p.partner with
    | some a, some b => some (p, a, b)
    | _, _ => none

/-- The next idle time of a core runs every structural test first (R462). -/
def testAllFirst (s : State) (die core : Nat) : State := modCore s die core (fun c => { c with testFirst := [1, 2, 3, 4] })

/-- A divergence kills the context, recorded by the visible hart's core; the partner's core counts it too (R462). -/
def diverge (s : State) (a b : Hart) (cause : Nat) (sig : BitVec 64) : State :=
  let s1 := containedKill s a.src cause a.id.ctx (some a.id.flat) none (natLe 2 b.src.toNat ++ natLe 6 0 ++ natLe 8 sig.toNat)
  let off := 0x100000 + 32 * b.src.toNat + 4
  let v := areaGet s1 a.id.dev off 4
  let s2 := if v = 0xFFFFFFFF then s1 else areaPut s1 a.id.dev off 4 (v + 1)
  testAllFirst (testAllFirst s2 a.id.die a.id.core) b.id.die b.id.core

/-- The oldest release of a hart that waits for the comparison. -/
def waitingRel (h : Hart) : Option PendRel := h.pend.find? (fun r => !r.agreed)

/-- Marks the oldest waiting release as agreed. -/
def agreeFirst : List PendRel → List PendRel
  | [] => []
  | r :: l => if r.agreed then r :: agreeFirst l else { r with agreed := true } :: l

/-- SIGNATURE_COMPARE: both signatures of a release have arrived; equal ones let it be performed, others kill (R460). -/
def signatureCompareOp (uid : Nat) (s : State) : State :=
  match redPair s uid with
  | none => s
  | some (_, a, b) => match waitingRel a, waitingRel b with
    | some ra, some rb =>
      if ra.sig = rb.sig then
        mapHarts s (fun h => if h.id.uid = a.id.uid ∨ h.id.uid = b.id.uid then { h with pend := agreeFirst h.pend } else h)
      else diverge s a b 0x0610 ra.sig
    | _, _ => s

/-- SIGNATURE_COMPARE (R460). -/
def execSignatureCompare (h : Nat) (s : State) : Out := .next (signatureCompareOp h s)

/-- One of the two has waited more than 10 ms for its twin, at a release or at a comparison point (R462). -/
def twinLate (s : State) (p : Pair) (a b : Hart) : Bool :=
  let old := fun c : Nat => decide (c + 12000000 < s.cycle)
  (match waitingRel a, waitingRel b with
    | some r, none | none, some r => old r.since
    | _, _ => false)
  || (match p.req with | some (_, _, c) => old c | none => false)

/-- DIVERGENCE_TIMEOUT (R462). -/
def divergenceTimeoutOp (uid : Nat) (s : State) : State :=
  match redPair s uid with
  | none => s
  | some (p, a, b) => if twinLate s p a b then diverge s a b 0x0611 0 else s

/-- DIVERGENCE_TIMEOUT (R462). -/
def execDivergenceTimeout (h : Nat) (s : State) : Out := .next (divergenceTimeoutOp h s)

/-! ### Structural tests (R463 to R467) -/

/-- Cycles of a run of a kind (R463). -/
def testCycles (kind : Nat) : Nat :=
  match kind with
  | 1 => 200000
  | 2 => 150000
  | 3 => 40000
  | _ => 20000

/-- No hart is placed on the core or staged for it, and none has been for 4,096 cycles (R463). -/
def coreIdle (s : State) (c : Core) : Bool :=
  (allHarts s).all (fun h => !(h.id.die == c.die && h.id.core == c.core && h.takes)) && decide (c.idleSince + 4096 ≤ s.cycle)

/-- The bank may hold no tile: its slice has a bank to spare. A floor bank needs the other one in service (R463).
DEDUCED (log 65). -/
def bankIdle (s : State) (c : Core) (bank : Nat) : Bool :=
  let stacked := s.pkg.fitted.getLsbD c.die && !s.pkg.fusedOff.getLsbD c.die
  decide (bank < 64) && (decide (bank < 32) || stacked) && !c.retired.getLsbD bank
  && (if bank < 2 then !c.retired.getLsbD (1 - bank) else decide (banksUsed s c.die c.core < sliceBanks s c.die c.core))

/-- STRUCT_TEST_START: a core or bank that is idle starts a run; kind 1 waits for the rows of its core, and kinds that a
divergence or a save timeout put first go first (R462, R463, R483). -/
def structTestStartOp (die core kind bank : Nat) (s : State) : State :=
  let c := findCore s die core
  let turn := c.testFirst.isEmpty || c.testFirst.contains kind
  if !dieLive s.pkg die || decide (32 ≤ core) || c.fenced || c.test.isSome || !turn then s
  else
    let t : TestRun := { kind := kind, bank := bank, since := s.cycle }
    let go := modCore s die core (fun c => { c with test := some t })
    match kind with
    | 1 =>
      if !coreIdle s c then s
      else if c.gr = 64 then modCore go die core (fun c => { c with lastPe := s.cycle + 200000, rel := none })
      else modCore s die core (fun c => { c with req := some (c.req.getD s.cycle) })
    | 2 | 3 => if coreIdle s c then go else s
    | 4 => if bankIdle s c bank then go else s
    | _ => s

/-- STRUCT_TEST_START (R463). -/
def execStructTestStart (die core kind bank : Nat) (s : State) : Out := .next (structTestStartOp die core kind bank s)

/-- The offset of a core's test record in the event area (R465). -/
def testRec (die core : Nat) : Nat := 0x1000 + 64 * (32 * die + core)

/-- Adds to a 32-bit field of a test record, modulo 2^32 or stopping at the largest value. -/
def bumpField (s : State) (dev off : Nat) (stops : Bool) : State :=
  let v := areaGet s dev off 4
  if stops && v == 0xFFFFFFFF then s else areaPut s dev off 4 ((v + 1) % 2 ^ 32)

/-- A run has passed: LAST and RUNS are written, and the kind is no longer overdue or first (R465, R467). -/
def testPass (s : State) (dev die core : Nat) (t : TestRun) : State :=
  let now := timeOn s die; let base := testRec die core
  let s1 := bumpField (areaPut s dev (base + 8 * (t.kind - 1)) 8 now) dev (base + 0x20) false
  modCore s1 die core (fun c =>
    let first := c.testFirst.filter (· != t.kind)
    { c with test := none, testFirst := first, blocked := c.blocked && !first.isEmpty,
             overdue := c.overdue.filter (fun o => o.1 != t.kind),
             bankPass := if t.kind = 4 then (t.bank, now) :: c.bankPass.filter (fun b => b.1 != t.bank) else c.bankPass })

/-- A run has failed: the core is fenced, or the bank retired, and a slice with nine retired banks fences its core
(R466). -/
def testFail (s : State) (dev die core : Nat) (t : TestRun) (lanes units : BitVec 32) : State :=
  let base := testRec die core; let src := srcCore die core
  let s1 := bumpField (bumpField (modCore s die core (fun c => { c with test := none })) dev (base + 0x20) false) dev (base + 0x24) true
  if t.kind = 4 then
    let s2 := modCore s1 die core (fun c => { c with retired := putBits c.retired t.bank 1 1 })
    let r := (findCore s2 die core).retired
    let s3 := event (areaPut s2 dev (base + 0x30) 8 r.toNat) src 0x0A03 0 none none none [BitVec.ofNat 8 t.bank]
    if 9 ≤ ((List.range 64).filter r.getLsbD).length then fenceCore (event s3 src 0x0A04 2 none none none []) die core true 0x0A04
    else s3
  else
    let lf := BitVec.ofNat 32 (areaGet s1 dev (base + 0x28) 4) ||| lanes
    let uf := (BitVec.ofNat 32 (areaGet s1 dev (base + 0x2C) 4) ||| units) &&& 0x1FF
    let s2 := areaPut (areaPut s1 dev (base + 0x28) 4 lf.toNat) dev (base + 0x2C) 4 uf.toNat
    let s3 := event s2 src 0x0A02 2 none none none (natLe 1 t.kind ++ natLe 3 0 ++ natLe 4 lf.toNat ++ natLe 4 uf.toNat)
    fenceCore s3 die core true 0x0A02

/-- STRUCT_TEST_DONE: the run under way has lasted its cycles (R463, R466). -/
def structTestDoneOp (die core : Nat) (res : TestResult) (s : State) : State :=
  match (findCore s die core).test with
  | none => s
  | some t =>
    if s.cycle < t.since + testCycles t.kind then s
    else
      let dev := devOfDie s.pkg die
      match res with
      | .pass => testPass s dev die core t
      | .fail lanes units => testFail s dev die core t lanes units

/-- STRUCT_TEST_DONE (R466). -/
def execStructTestDone (die core : Nat) (res : TestResult) (s : State) : Out := .next (structTestDoneOp die core res s)

/-- TIME of the last pass of a kind; for banks, of the bank tested longest ago (R465, R467). -/
def lastPass (s : State) (die core kind : Nat) : Nat :=
  if kind = 4 then
    let c := findCore s die core
    let stacked := s.pkg.fitted.getLsbD die && !s.pkg.fusedOff.getLsbD die
    let bs := (List.range (if stacked then 64 else 32)).filter (fun b => !c.retired.getLsbD b)
    let ts := bs.map (fun b => ((c.bankPass.find? (fun p => p.1 == b)).map (·.2)).getD 0)
    ts.foldl min (timeOn s die)
  else areaGet s (devOfDie s.pkg die) (testRec die core + 8 * (kind - 1)) 8

/-- A day in nanoseconds. -/
def dayNs : Nat := 86400000000000

/-- STRUCT_TEST_OVERDUE: a kind whose last pass is older than 24 hours is recorded, once in every 24 hours (R467). -/
def structTestOverdueOp (die core kind : Nat) (s : State) : State :=
  let now := timeOn s die; let c := findCore s die core
  let told := (c.overdue.find? (fun o => o.1 == kind)).map (·.2)
  if !dieLive s.pkg die || decide (32 ≤ core) || kind == 0 || decide (4 < kind) || decide (now ≤ lastPass s die core kind + dayNs) then s
  else if (match told with | some t => decide (now < t + dayNs) | none => false) then s
  else
    let s1 := event s (srcCore die core) 0x0A10 0 none none none [BitVec.ofNat 8 kind]
    modCore s1 die core (fun c => { c with overdue := (kind, now) :: c.overdue.filter (fun o => o.1 != kind) })

/-- STRUCT_TEST_OVERDUE (R467). -/
def execStructTestOverdue (die core kind : Nat) (s : State) : Out := .next (structTestOverdueOp die core kind s)

/-! ### Watchdogs (R480 to R483) -/

/-- The hart sleeps with its deadline in the future, which the watchdog does not count (R480). -/
def sleepsOn (s : State) (h : Hart) : Bool :=
  match h.st.asleep with
  | some (.sleep _ d _) => decide (timeOn s h.id.die < d)
  | _ => false

/-- Stops the gang instance of a hart as forced, holding the space of its save unless it is held (R49, R350). -/
def stopForced (s : State) (h : Hart) : State :=
  if h.st.img.isSome then forceStop s h.id.launch h.id.ginst
  else match holdSave s h.id.launch h.id.ginst with
    | some s1 => forceStop s1 h.id.launch h.id.ginst
    | none => saveRefusedEv s h.id.ctx h.id.launch h.id.ginst

/-- WATCHDOG_STAGE1: the hart has retired nothing for WDP (R480). -/
def watchdogStage1Op (uid : Nat) (s : State) : State :=
  match findHart s uid with
  | none => s
  | some h =>
    if h.st.life ≠ .placed ∨ h.st.wdStage ≠ 0 ∨ sleepsOn s h ∨ nsNow s < h.st.lastRetire + s.pkg.wdp then s
    else
      let s1 := event s h.src 0x0830 0 (some h.id.ctx) (some h.id.flat) none []
      stopForced (modHart s1 uid (fun h => { h with st := { h.st with wdStage := 1, wdSince := nsNow s } })) h

/-- WATCHDOG_STAGE1 (R480). -/
def execWatchdogStage1 (h : Nat) (s : State) : Out := .next (watchdogStage1Op h s)

/-- WATCHDOG_STAGE2: the instance has not stopped within a further WDP. A hart whose save is under way is saved first, its
image marked hung; otherwise the context is killed at once (R481, R482). -/
def watchdogStage2Op (uid : Nat) (s : State) : State :=
  match findHart s uid with
  | none => s
  | some h =>
    if h.st.wdStage ≠ 1 ∨ nsNow s < h.st.wdSince + s.pkg.wdp then s
    else match h.st.life with
      | .placed | .yielded =>
        containedKill (modHart s uid (fun h => { h with st := { h.st with wdStage := 2 } })) h.src 0x0831 h.id.ctx (some h.id.flat) none []
      | .stopped _ _ | .leaving _ _ => modHart s uid (fun h => { h with st := { h.st with wdStage := 2, hung := true } })
      | _ => s

/-- WATCHDOG_STAGE2 (R481). -/
def execWatchdogStage2 (h : Nat) (s : State) : Out := .next (watchdogStage2Op h s)

/-- The image of a save that stalled: its header with FLAGS.HUNG, the rest undefined (R483). DEDUCED (log 66). -/
def hungImage (s : State) (h : Hart) (forced : Bool) : State :=
  let pa := imageAddr s h
  let hd := (imageHead { h with st := { h.st with hung := true } } forced).take 256
  let rest := (List.range (imageBytes h.vlen - 256)).map (fun i => Config.freeBits 8 s.free (pa + 256 + i))
  devWrite s h.id.dev pa (hd ++ rest)

/-- SAVE_TIMEOUT: a save that has not completed 2 · WDP after it began resets its core and kills the contexts on it; tests
of kinds 1 to 3 then run before anything is placed (R483). -/
def saveTimeoutOp (uid : Nat) (s : State) : State :=
  match findHart s uid with
  | none => s
  | some h => match h.st.life with
    | .stopped f t | .leaving f t =>
      if (s.cycle - t) * 5 / 6 < 2 * s.pkg.wdp then s
      else
        let die := h.id.die; let core := h.id.core
        let here := fun x : Hart => x.id.die == die && x.id.core == core && x.takes
        let cs := (((allHarts s).filter here).map (·.id.ctx)).eraseDups
        let s1 := mapHarts (hungImage s h f) (fun x => if here x then killHart x else x)
        let s2 := cs.foldl (fun st c => containedKill st h.src 0x0832 c none none []) s1
        modCore s2 die core (fun c =>
          { c with test := none, req := none, testFirst := [1, 2, 3], blocked := true, idleSince := s.cycle })
    | _ => s

/-- SAVE_TIMEOUT (R483). -/
def execSaveTimeout (h : Nat) (s : State) : Out := .next (saveTimeoutOp h s)

end Sys2Proof.Machine
end

