-- ==== Sys2Proof/Machine/Power.lean ====
section
/-! DEFINITION. The Weir, the budget arbiter, supply events and the die clocks (R359 to R361, R475 to R479). -/

namespace Sys2Proof.Machine

/-! ### The Weir (R360) -/

/-- The grant of a core once the steps already taken are in effect. -/
def grAfter (c : Core) : Nat := match c.grNext.reverse with | p :: _ => p.2 | [] => c.gr

/-- The grants that have come into effect. -/
def settleGr (now : Nat) (c : Core) : Core :=
  let done := c.grNext.filter (fun p => decide (p.1 ≤ now))
  { c with gr := match done.reverse with | p :: _ => p.2 | [] => c.gr,
           grNext := c.grNext.filter (fun p => decide (now < p.1)) }

/-- The cores of a cluster, by index, with the grants that are in effect. -/
def clusterCores (s : State) (die clus : Nat) : List Core :=
  (List.range 8).map (fun i => settleGr s.cycle (findCore s die (clus * 8 + i)))

/-- The rows that a cluster's cores hold granted. -/
def rowsHeld (cs : List Core) : Nat := (cs.map grAfter).foldl (· + ·) 0

/-- The row limit of a cluster: its budget, halved after a draw over the module's limit, but never below what it holds
granted (R359, R477). -/
def rowLimit (s : State) (w : Weir) (held : Nat) : Nat :=
  max held (if s.pkg.halvedAt.isSome then w.budget / 16 * 8 else w.budget)

/-- A request or release made in cycle r takes part at boundaries after r. -/
def before (r : Option Nat) (b : Nat) : Bool := match r with | some x => decide (x < b) | none => false

/-- Service order: the cycle of the request or release, then the core index. -/
def serveOrder (f : Core → Option Nat) (cs : List Core) : List Core :=
  sortBy (fun a b => decide ((f a).getD 0 < (f b).getD 0) || (f a == f b && decide (a.core ≤ b.core))) cs

/-- The cores that take an up step of 8 rows: at most `steps`, and at most `room` rows. -/
def upSteps : List Core → Nat → Nat → List Nat
  | [], _, _ => []
  | _ :: _, 0, _ => []
  | c :: r, n + 1, room => if 8 ≤ room then c.core :: upSteps r n (room - 8) else []

/-- One boundary of a Weir. A core that has a step under way from this boundary takes no second one. -/
def weirStepOp (die clus : Nat) (s : State) : State :=
  let b := s.cycle
  let w := findWeir s die clus
  let cs0 := clusterCores s die clus
  if b % 4 ≠ 0 ∨ cs0.any (fun c => c.grNext.any (fun p => p.1 == b + 4)) then
    cs0.foldl (fun st c => modCore st die c.core (settleGr b)) s
  else
    let cs := cs0.map (fun c => if before c.req b then { c with rel := none } else c)
    let held := rowsHeld cs
    let asking := serveOrder (·.req) (cs.filter (fun c => before c.req b && decide (grAfter c < 64) && !c.fenced))
    let ups := upSteps asking (if w.slow.isSome then 1 else 2) (rowLimit s w held - held)
    let leaving := serveOrder (·.rel) (cs.filter (fun c => before c.rel b && decide (0 < grAfter c)))
    let downs := (leaving.take 2).map (·.core)
    cs.foldl (fun st c =>
      let g := grAfter c
      let g1 := if ups.contains c.core then g + 8 else if downs.contains c.core then g - 8 else g
      let next := if g1 = g then c.grNext else c.grNext ++ [(b + 4, g1)]
      let c1 := { c with grNext := next, req := if 64 ≤ g1 then none else c.req, rel := if g1 = 0 then none else c.rel }
      modCore st die c.core (fun _ => c1)) s

/-- WEIR_STEP (R360). -/
def execWeirStep (die clus : Nat) (s : State) : Out := .next (weirStepOp die clus s)

/-- CORE_ARRAY_IDLE: 64 cycles after its last PE cycle a core that asks for no rows releases those it holds (R360). -/
def coreArrayIdleOp (die core : Nat) (s : State) : State :=
  let c := settleGr s.cycle (findCore s die core)
  if c.lastPe + 64 ≤ s.cycle ∧ 0 < grAfter c ∧ c.req = none ∧ c.rel = none then
    modCore s die core (fun _ => { c with rel := some s.cycle })
  else s

/-- CORE_ARRAY_IDLE (R360). -/
def execCoreArrayIdle (die core : Nat) (s : State) : Out := .next (coreArrayIdleOp die core s)

/-! ### Budgets (R359, R477) -/

/-- Every cluster of the package asks for or holds all its rows. -/
def fullUse (s : State) : Bool :=
  (List.range 64).all (fun d => !dieLive s.pkg d || (List.range 4).all (fun k =>
    (clusterCores s d k).all (fun c => decide (grAfter c = 64) || c.req.isSome)))

/-- BUDGET_RECOMPUTE: each cluster gets a budget of 0 to 512 rows, not below what it holds, and 512 at full use. The
arbiter's choice below full use is a free value (R359). DEDUCED (log 58). -/
def budgetRecomputeOp (s : State) : State :=
  if s.cycle % 1200 ≠ 0 then s
  else
    let full := fullUse s
    forN 256 s (fun i st =>
      let d := i / 4; let k := i % 4
      if dieLive s.pkg d then
        let held := rowsHeld (clusterCores s d k)
        let v := if full then 512 else max held ((Config.freeBits 16 s.free i).toNat % 513)
        modWeir st d k (fun w => { w with budget := v })
      else st)

/-- BUDGET_RECOMPUTE (R359). -/
def execBudgetRecompute (s : State) : Out := .next (budgetRecomputeOp s)

/-- DRAW_OVER_BUDGET: every row budget is halved for 10 ms (R477). -/
def drawOverBudgetOp (s : State) : State :=
  let s1 := event s (srcOf 10 0 0) 0x0801 0 none none none []
  { s1 with pkg := { s1.pkg with halvedAt := some (nsNow s) } }

/-- DRAW_OVER_BUDGET (R477). -/
def execDrawOverBudget (s : State) : Out := .next (drawOverBudgetOp s)

/-- BUDGET_HALVING_END (R477). -/
def budgetHalvingEndOp (s : State) : State :=
  match s.pkg.halvedAt with
  | some t => if t + 10000000 ≤ nsNow s then { s with pkg := { s.pkg with halvedAt := none } } else s
  | none => s

/-- BUDGET_HALVING_END (R477). -/
def execBudgetHalvingEnd (s : State) : Out := .next (budgetHalvingEndOp s)

/-! ### Slew and supply (R478, R479) -/

/-- The fence of a cluster: its Weir and its eight cores, whose harts' state is intact (R385, R478). -/
def fenceCluster (s : State) (die clus : Nat) : State :=
  let s1 := fenceSrc (modWeir s die clus (fun w => { w with fenced := true })) (srcOf 9 die clus)
  (List.range 8).foldl (fun st i => fenceCore st die (clus * 8 + i) true 0x0803) s1

/-- SLEW_VIOLATION: a current change of more than 16 rows; a second within a second fences the cluster (R478). -/
def slewViolationOp (die clus : Nat) (s : State) : State :=
  let src := srcOf 9 die clus
  let s1 := event s src 0x0802 0 none none none []
  match (findWeir s die clus).slow with
  | some t =>
    if nsNow s < t + 1000000000 then fenceCluster (event s1 src 0x0803 2 none none none []) die clus
    else modWeir s1 die clus (fun w => { w with slow := some (nsNow s) })
  | none => modWeir s1 die clus (fun w => { w with slow := some (nsNow s) })

/-- SLEW_VIOLATION (R478). -/
def execSlewViolation (die clus : Nat) (s : State) : Out := .next (slewViolationOp die clus s)

/-- SLEW_LIMIT_END: the second of the 8-row limit is over (R478). -/
def slewLimitEndOp (die clus : Nat) (s : State) : State :=
  match (findWeir s die clus).slow with
  | some t => if t + 1000000000 ≤ nsNow s then modWeir s die clus (fun w => { w with slow := none }) else s
  | none => s

/-- SLEW_LIMIT_END (R478). -/
def execSlewLimitEnd (die clus : Nat) (s : State) : Out := .next (slewLimitEndOp die clus s)

/-- UNDERVOLTAGE (R479). -/
def execUndervoltage (s : State) : Out := .next (event s (srcOf 12 0 0) 0x0804 3 none none none [])

/-! ### Hops and die clocks (R475, R476) -/

/-- The state of a hop on which nothing has failed. -/
def hopDflt (die edge : Nat) : Hop :=
  { die := die, edge := edge, spare0 := none, spare1 := none, bad := [], waiting := [], replays := 0, replayUntil := 0,
    half := none, busyUntil := 0 }

def findHop (s : State) (die edge : Nat) : Hop :=
  (s.hops.find? (fun h => h.die == die && h.edge == edge)).getD (hopDflt die edge)

def modHop (s : State) (die edge : Nat) (f : Hop → Hop) : State :=
  let l := upsert (fun h => h.die == die && h.edge == edge) (hopDflt die edge) f s.hops
  { s with hops := l }

/-- The die at an edge of a die of the 8 × 8 mesh: 0 east, 1 south, 2 west, 3 north (R16, R383). -/
def neighbour (die edge : Nat) : Option Nat :=
  let x := die % 8; let y := die / 8
  match edge with
  | 0 => if x < 7 then some (die + 1) else none
  | 1 => if y < 7 then some (die + 8) else none
  | 2 => if 0 < x then some (die - 1) else none
  | _ => if 0 < y then some (die - 8) else none

/-- The hops into and out of a die, each by its receiving side. -/
def dieHops (die : Nat) : List (Nat × Nat) :=
  (List.range 4).flatMap (fun e => match neighbour die e with
    | some n => [(die, e), (n, (e + 2) % 4)]
    | none => [])

/-- No replay, repair or width change is in progress on a hop or waits on it (R476). -/
def hopStable (s : State) (h : Hop) : Bool :=
  decide (h.replayUntil ≤ s.cycle) && h.waiting.isEmpty && decide (h.busyUntil ≤ s.cycle)

/-- A hop of a die that is not stable. -/
def unstableHop (s : State) (die : Nat) : Option (Nat × Nat) :=
  (dieHops die).find? (fun p => !hopStable s (findHop s p.1 p.2))

def clockDflt (die : Nat) : DieClock := { die := die, step := 0, want := none, pause := none }

def findClock (s : State) (die : Nat) : DieClock := (s.clocks.find? (fun c => c.die == die)).getD (clockDflt die)

def modClock (s : State) (die : Nat) (f : DieClock → DieClock) : State :=
  let l := upsert (fun c => c.die == die) (clockDflt die) f s.clocks
  { s with clocks := l }

/-- The clock of a die is paused (R475). -/
def clockPaused (s : State) (die : Nat) : Bool :=
  match (findClock s die).pause with | some t => decide (nsNow s < t) | none => false

/-- A link change on a hop goes before the waiting clock changes of the dies it joins, and delays them (R476). -/
def delayClocks (s : State) (die edge : Nat) : State :=
  let ds := die :: (neighbour die edge).toList
  ds.foldl (fun st d => modClock st d (fun c => match c.want, c.pause with
    | some (low, none), none => { c with want := some (low, some (die, edge)) }
    | _, _ => c)) s

/-- Requests a clock change of a live die, when it has a step to take (R475, R489). -/
def clockRequest (low : Bool) (die : Nat) (s : State) : State :=
  let c := findClock s die
  if dieLive s.pkg die && c.want.isNone && c.pause.isNone && (if low then decide (c.step < 2) else decide (0 < c.step)) then
    modClock s die (fun c => { c with want := some (low, unstableHop s die) })
  else s

/-- CLOCK_LOWER (R475). -/
def execClockLower (die : Nat) (s : State) : Out := .next (clockRequest true die s)

/-- CLOCK_RAISE (R475). -/
def execClockRaise (die : Nat) (s : State) : Out := .next (clockRequest false die s)

/-- The clock of a step in units of 100 MHz. -/
def clockOf (step : Nat) : Nat := 12 - 2 * step

/-- CLOCK_PAUSE_START: the pause begins once every hop of the die is stable, and the change is recorded, under the hop that
delayed it or under the package (R475, R476). -/
def clockPauseStartOp (die : Nat) (s : State) : State :=
  let c := findClock s die
  match c.want with
  | none => s
  | some (low, hop) =>
    if c.pause.isSome then s
    else match unstableHop s die with
      | some h => modClock s die (fun c => { c with want := some (low, some (hop.getD h)) })
      | none =>
        let step := if low then c.step + 1 else c.step - 1
        let src := match hop with | some h => srcOf 7 h.1 h.2 | none => srcOf 12 0 0
        let s1 := event s src (if low then 0x0810 else 0x0811) 0 none none none [BitVec.ofNat 8 (clockOf step)]
        modClock s1 die (fun c => { c with step := step, pause := some (nsNow s + 2000) })

/-- CLOCK_PAUSE_START (R476). -/
def execClockPauseStart (die : Nat) (s : State) : Out := .next (clockPauseStartOp die s)

/-- CLOCK_PAUSE_END: after 2,000 ns the die runs at its new clock (R475). -/
def clockPauseEndOp (die : Nat) (s : State) : State :=
  match (findClock s die).pause with
  | some t => if t ≤ nsNow s then modClock s die (fun c => { c with want := none, pause := none }) else s
  | none => s

/-- CLOCK_PAUSE_END (R475). -/
def execClockPauseEnd (die : Nat) (s : State) : Out := .next (clockPauseEndOp die s)

end Sys2Proof.Machine
end

