-- ==== Sys2Proof/Machine/Links.lean ====
section
/-! DEFINITION. Die-to-die links, HBM channels and Ethernet ports (R136, R137, R442 to R445, R469 to R474, R485). -/

namespace Sys2Proof.Machine

/-! ### Replay (R470) -/

/-- The hop exists: a die of the grid receives from its neighbour (R16, R469). -/
def hopThere (die edge : Nat) : Bool := decide (die < 64) && (neighbour die edge).isSome

/-- A lost link resets the package (R473). -/
def linkLost (s : State) (die edge : Nat) : State := event s (srcOf 7 die edge) 0x0704 3 none none none []

/-- LINK_CRC_FAIL: the group is discarded and replayed; a group that fails 8 replays in a row loses the link. The end of a
replay, whose length no rule gives, is a free value (R470). -/
def linkCrcFailOp (die edge : Nat) (s : State) : State :=
  let h := findHop s die edge
  let k := if s.cycle ≤ h.replayUntil then h.replays else 0
  if !hopThere die edge then s
  else if 8 ≤ k then linkLost s die edge
  else
    let s1 := event s (srcOf 7 die edge) 0x0701 0 none none none []
    let s2 := modHop s1 die edge (fun h =>
      { h with replays := k + 1, replayUntil := s.cycle + 1 + (Config.freeBits 16 s.free 0).toNat })
    delayClocks s2 die edge

/-- LINK_CRC_FAIL (R470). -/
def execLinkCrcFail (die : Nat) (edge : Fin 4) (s : State) : Out := .next (linkCrcFailOp die edge.val s)

/-! ### Lanes (R471 to R473) -/

/-- The lane or spare that carries a lane. -/
def carrier (h : Hop) (lane : Nat) : Nat :=
  if h.spare1 = some lane then 65 else if h.spare0 = some lane then 64 else lane

/-- A lane is in use at the hop's width. -/
def laneUsed (h : Hop) (lane : Nat) : Bool :=
  match h.half with
  | none => decide (lane < 64)
  | some hi => decide (lane < 64) && (decide (32 ≤ lane) == hi)

/-- LANE_BAD: a lane that fails its parity in 16 groups within 100,000 ns is bad, and waits for its repair (R471). -/
def laneBadOp (die edge lane : Nat) (s : State) : State :=
  let h := findHop s die edge
  if !hopThere die edge || !laneUsed h lane || h.waiting.any (fun p => p.1 == lane) then s
  else delayClocks (modHop s die edge (fun h =>
    { h with bad := carrier h lane :: h.bad, waiting := h.waiting ++ [(lane, s.cycle)] })) die edge

/-- LANE_BAD (R471). -/
def execLaneBad (die : Nat) (edge : Fin 4) (lane : Nat) (s : State) : Out := .next (laneBadOp die edge.val lane s)

/-- The lower free spare. -/
def freeSpare (h : Hop) : Option Nat :=
  if h.spare0 = none ∧ ¬ h.bad.contains 64 then some 64
  else if h.spare1 = none ∧ ¬ h.bad.contains 65 then some 65
  else none

/-- The bad lanes of a half. -/
def badIn (h : Hop) (hi : Bool) : List Nat :=
  (List.range 64).filter (fun l => h.bad.contains l && (decide (32 ≤ l) == hi))

/-- The spares that still work. -/
def goodSpares (h : Hop) : List Nat := [64, 65].filter (fun k => !h.bad.contains k)

/-- The spares can cover every bad lane of a half. -/
def covers (h : Hop) (hi : Bool) : Bool := decide ((badIn h hi).length ≤ (goodSpares h).length)

/-- The lane that a spare carries at reduced width. -/
def spareFor (h : Hop) (hi : Bool) (k : Nat) : Option Nat := (badIn h hi)[(goodSpares h).findIdx (· == k)]?

/-- Reduces a hop to a half of its lanes (R473). DEDUCED (log 59). -/
def reduceHop (s : State) (die edge : Nat) (hi : Bool) : State :=
  let s1 := event s (srcOf 7 die edge) 0x0703 0 none none none [BitVec.ofNat 8 (b2n hi)]
  modHop s1 die edge (fun h =>
    { h with spare0 := spareFor h hi 64, spare1 := spareFor h hi 65, half := some hi, waiting := [],
             busyUntil := s.cycle + 128 })

/-- LANE_REPAIR: the oldest bad lane is mapped onto a spare once the replay has completed, or 256 cycles after it was judged
bad; without a spare the hop narrows, or is lost (R471 to R473). No change is made in a pause of either die's clock (R476). -/
def laneRepairOp (die edge : Nat) (s : State) : State :=
  let h := findHop s die edge
  match h.waiting with
  | [] => s
  | (lane, t) :: rest =>
    let paused := (die :: (neighbour die edge).toList).any (clockPaused s)
    if paused || decide (s.cycle < h.busyUntil) || (decide (s.cycle < h.replayUntil) && decide (s.cycle < t + 256)) then s
    else match freeSpare h with
      | some k =>
        let s1 := event s (srcOf 7 die edge) 0x0702 0 none none none [BitVec.ofNat 8 lane, BitVec.ofNat 8 k]
        modHop s1 die edge (fun h =>
          { h with spare0 := if k = 64 then some lane else h.spare0, spare1 := if k = 65 then some lane else h.spare1,
                   waiting := rest, busyUntil := s.cycle + 64 })
      | none =>
        if h.half.isSome then linkLost s die edge
        else if covers h false then reduceHop s die edge false
        else if covers h true then reduceHop s die edge true
        else linkLost s die edge

/-- LANE_REPAIR (R472). -/
def execLaneRepair (die : Nat) (edge : Fin 4) (s : State) : Out := .next (laneRepairOp die edge.val s)

/-! ### Ethernet ports (R485) -/

/-- The state of an Ethernet port. -/
def modEth (s : State) (port : Nat) (f : EthPort → EthPort) : State :=
  let l := upsert (fun e => e.port == port) { port := port, down := false, discarded := 0 } f s.eth
  { s with eth := l }

def portDown (s : State) (port : Nat) : Bool := s.eth.any (fun e => e.port == port && e.down)

/-- PORT_LINK_DOWN (R485). -/
def portLinkDownOp (port : Nat) (s : State) : State :=
  if portDown s port then s
  else modEth (event s (srcOf 8 0 port) 0x0720 0 none none none []) port (fun e => { e with down := true })

def execPortLinkDown (port : Fin 33) (s : State) : Out := .next (portLinkDownOp port.val s)

/-- PORT_LINK_UP (R485). -/
def portLinkUpOp (port : Nat) (s : State) : State :=
  if portDown s port then modEth (event s (srcOf 8 0 port) 0x0721 0 none none none []) port (fun e => { e with down := false })
  else s

def execPortLinkUp (port : Fin 33) (s : State) : Out := .next (portLinkUpOp port.val s)

end Sys2Proof.Machine
end

