-- ==== Sys2Proof/Machine/Net.lean ====
section
/-! DEFINITION. The Mbostiha transport: packets that arrive, acknowledgements, timers and failed paths (R342, R363 to R369,
R485, R486). -/

namespace Sys2Proof.Machine

/-! ### Discards (R362, R364) -/

/-- A packet that R364 discards: a bad OP, VER, reserved field or length. -/
def badPacket (p : Packet) : Bool :=
  p.ver != 1 || p.op == 0 || decide (9 < p.op.toNat) || p.flags >>> 2 != 0 || p.rsv != 0 || decide (4096 < p.payload.length)

/-- The packet needs the command path: a CMD, or one that addresses device physical memory (R362, R363). -/
def needsCommand (p : Packet) : Bool := p.op == 8 || p.ctx == 0xFFFF

/-- The packet is discarded and counted: one that needs the command path comes from the host's address, under its MACsec
association, on the command port (R362). -/
def discards (s : State) (p : Packet) : Bool :=
  badPacket p || (needsCommand p && !(p.port == 32 && p.trusted && p.addr6 == s.pkg.hostAddr))

/-- Counts a discarded packet at its port. -/
def discard (s : State) (p : Packet) : State := modEth s p.port (fun e => { e with discarded := e.discarded + 1 })

/-- PACKET_DISCARD (R364). -/
def packetDiscardOp (p : Packet) (s : State) : State :=
  if discards s p && !portDown s p.port then discard s p else s

def execPacketDiscard (p : Packet) (s : State) : Out := .next (packetDiscardOp p s)

/-! ### Paths (R363, R365) -/

/-- The path that a packet names at its receiver. -/
def isPath (p : Packet) (q : Path) : Bool := q.port == p.port && q.num == p.path && q.addr6 == p.addr6 && !q.failed

def pathOf (s : State) (p : Packet) : Option Path := s.paths.find? (isPath p)

/-- The path of a packet, opened when it is new. -/
def openPath (s : State) (p : Packet) : State :=
  if s.paths.any (isPath p) then s
  else { s with paths := s.paths ++ [{ newPath s p.port p.addr6 with num := p.path }] }

def modPath (s : State) (p : Packet) (f : Path → Path) : State :=
  let ps := updWhere (isPath p) f s.paths
  { s with paths := ps }

/-- Sends a packet that carries no request of its own: a response, a refusal, an acknowledgement or a congestion notice. -/
def sendBack (s : State) (q : Path) (op : BitVec 8) (seq ack : BitVec 32) (payload : List Byte)
    (pois : Bool := false) : State :=
  { s with sent := s.sent ++ [packet q.port q.addr6 q.num op 0 seq ack 0 0 payload pois] }

/-- What a receiver answers to a request. -/
inductive Reply where
  | none
  | data (l : List Byte)
  | nak (code : Nat)
  deriving DecidableEq, Repr

/-- The bitmap of an acknowledgement: bit k is set when SEQ ACK + 1 + k was received (R364). -/
def ackBitmap (q : Path) : List Byte :=
  let m := q.held.foldl (fun (m : BitVec 256) h => m ||| BitVec.twoPow 256 (h.seq - q.rxNext).toNat) 0
  natLe 32 m.toNat

/-- Sends the acknowledgement of a path (R365). -/
def sendAck (s : State) (q : Path) : State := sendBack s q 6 0 (q.rxNext - 1) (ackBitmap q)

/-! ### Requests at the home (R282, R288, R364, R369) -/

/-- A fault code that the spec does not give. -/
def openCode (s : State) : Nat := (Config.freeBits 16 s.free 0x369).toNat

/-- The context that a remote request names is present and not being killed (R448). -/
def remoteCtx (s : State) (n : Nat) : Option Ctx :=
  match findCtx s n with
  | some x => if x.kill.isSome then none else some x
  | none => none

/-- Where the bytes of a remote access lie: device physical memory for context 0xFFFF, and else the context's GLOBAL space;
or the code of the first fault. -/
def remotePlaces (s : State) (ctx : BitVec 16) (addr n : Nat) (u : Use) : Sum Nat (List Acc) :=
  let at_ : Nat → Sum Nat Acc := fun a =>
    if ctx = 0xFFFF then
      match physLoc s.pkg (lowestDev s.pkg) a with
      | some l => .inr { loc := l, key := .device, dev := false }
      | none => .inl 5
    else match remoteCtx s ctx.toNat with
      | none => .inl 11
      | some x =>
        let die := (devicesOf s.pkg).getD 0 0
        let eng := asEngine s x.num (if s.pkg.mode = .one then die else x.dev * (if s.pkg.mode = .half then 32 else 1)) 0
        match globalCheck eng eng.hart (BitVec.ofNat 64 a) 1 u with
        | .fault c => .inl (faultCode c)
        | .ok b => .inr b
  (List.range n).foldl (fun (r : Sum Nat (List Acc)) i => match r with
    | .inl c => .inl c
    | .inr l => match at_ (addr + i) with
      | .inl c => .inl c
      | .inr b => .inr (l ++ [b])) (.inr [])

/-! ### The remote party's writes (R288) -/

/-- The remote party of a path, whose place shares an instance with others at SYSTEM scope only. -/
def partyHart (q : Path) : Hart :=
  let u := pathParty q
  { Hart.reset with id := { Hart.reset.id with uid := u, dev := u, die := u, core := u }, own := q.rxw }

/-- The bytes of a packet in pieces that lie next to each other in one granule, on pages of one kind. -/
def accPieces : List (Acc × Byte) → List (Acc × List Byte)
  | [] => []
  | (a, b) :: r => match accPieces r with
    | (c, bs) :: l =>
      if c.loc = a.loc + 1 ∧ granule c.loc = granule a.loc ∧ c.dev = a.dev ∧ c.key = a.key then (a, b :: bs) :: l
      else (a, [b]) :: (c, bs) :: l
    | [] => [(a, [b])]

/-- The remote party's writes of some numbers are performed at their homes. -/
def performRx (s : State) (p : Packet) (set : List Nat) : State :=
  match pathOf s p with
  | none => s
  | some q =>
    let r := performOwn s (partyHart q) set false
    modPath r.1 p (fun q => { q with rxw := r.2.own.filter (fun o => !o.done) })

/-- The remote party's release of SYSTEM scope is performed: its writes are performed and published (R288). -/
def publishRx (s : State) (p : Packet) : State :=
  match pathOf s p with
  | none => s
  | some q =>
    let set := q.rxw.map (·.wid)
    let s1 := performRx s p set
    let m := publish s1.mem set { scope := .system, place := (partyHart q).place }
    modPath { s1 with mem := { m with phase := m.phase + 1 } } p (fun q => { q with relAt := s1.mem.phase :: q.relAt })

/-- A strong access of the remote party of a path: its own earlier writes to the bytes are performed first (R184), the access
is kept, and bytes that race are undefined (R283). `f` gives the new bytes from the old ones. -/
def rxStrong (s : State) (p : Packet) (a : Acc) (n : Nat) (f : Nat → Option (List Byte)) (pois : Bool) : State × List Byte :=
  match pathOf s p with
  | none => (s, [])
  | some q =>
    let s1 := performRx s p (earlierStores q.rxw a.loc n)
    let raced := racedBytes s1 { partyHart q with own := [] } a.loc n
    let s2 := scramble (keepOvl s1 (partyHart q) a.loc n) a.key a.loc raced
    let old := homeBytes s2 a.key a.loc n
    match f (leNat old) with
    | none => (strongTick s2, old)
    | some bs => (scramble (strongLay s2 a.key a.loc bs pois) a.key a.loc raced, old)

/-- Adds a piece of a WRITE to the writes that the party's release has yet to publish. -/
def rxStore (s : State) (p : Packet) (va : Nat) (a : Acc) (bs : List Byte) : State :=
  let n := s.mem.nextWid
  let l := (bs.zipIdx).map (fun b =>
    ({ wid := n + b.2, loc := a.loc + b.2, va := va + b.2, byte := b.1, pois := p.pois, key := a.key, acc := n, done := false,
       ov := false } : OwnByte))
  modPath { s with mem := { s.mem with nextWid := n + bs.length } } p (fun q => { q with rxw := l.reverse ++ q.rxw })

/-- READ: the latest bytes performed at the home (R288). -/
def doRead (s : State) (p : Packet) : State × Reply :=
  let n := fld p.payload 0 4
  if p.payload.length ≠ 4 ∨ n = 0 ∨ 4096 < n then (s, .nak (openCode s))
  else match remotePlaces s p.ctx p.addr.toNat n .read with
    | .inl c => (s, .nak c)
    | .inr l =>
      if l.any (fun a => homePois s.mem a.loc 1) then (s, .nak 9)
      else
        let r := (accPieces (l.map (fun a => (a, 0)))).foldl (fun (r : State × List Byte) a =>
          if a.1.dev then let q := rxStrong r.1 p a.1 a.2.length (fun _ => none) false; (q.1, r.2 ++ q.2)
          else (r.1, r.2 ++ homeBytes r.1 a.1.key a.1.loc a.2.length)) (s, [])
        (strongTick r.1, .data r.2)

/-- WRITE: on a DEV page performed at once, and elsewhere when a release of SYSTEM scope of the remote party is performed
(R288, R369). DEDUCED (log 6). -/
def doWrite (s : State) (p : Packet) : State × Reply :=
  match remotePlaces s p.ctx p.addr.toNat p.payload.length .write with
  | .inl c => (s, .nak c)
  | .inr l =>
    let r := (accPieces (l.zip p.payload)).foldl (fun (r : State × Nat) a =>
      (if a.1.dev then (rxStrong r.1 p a.1 a.2.length (fun _ => some a.2) p.pois).1 else rxStore r.1 p r.2 a.1 a.2,
        r.2 + a.2.length)) (s, p.addr.toNat)
    (r.1, .none)

/-- QAPPEND: the append of R342, at a header in device physical memory. During a mode change it answers BUSY, whatever context
it names (R26). -/
def doQappend (s : State) (p : Packet) : State × Reply :=
  if p.payload.length ≠ 128 then (s, .nak (openCode s))
  else
    let dev := if p.ctx = 0xFFFF ∨ s.pkg.chg.isSome = true then some (lowestDev s.pkg) else (remoteCtx s p.ctx.toNat).map (·.dev)
    match dev with
    | none => (s, .nak 11)
    | some d => match qappendOp s d p.addr.toNat p.payload with
      | (s1, .unreadable) => (s1, .nak (if (physLoc s.pkg d (p.addr.toNat + 63)).isSome then 9 else 5))
      | (s1, r) => (s1, .data (natLe 8 r.word.toNat))

/-- The new bytes of an ATOMIC from the old value; none when it changes nothing. Operation 9 adds in the format of its last
operand. -/
def atomicNew (op w : Nat) (b : List Byte) (old : Nat) : Option (List Byte) :=
  let v := fld b 2 w
  if op = 0xF then (if old = v then some (natLe w (fld b (2 + w) w)) else none)
  else if op = 9 then some (natLe w (vamoNew 9 (parseFmt (BitVec.ofNat 32 (fld b (2 + w) 4))) old v).1)
  else some (natLe w (amoNew op (8 * w) old v))

/-- ATOMIC: performed once at the home; the response carries the old value (R282, R364). Poisoned bytes answer with fault
code 9, as a READ does. DESIGN CHOICE (log 24). -/
def doAtomic (s : State) (p : Packet) : State × Reply :=
  let b := p.payload; let op := fld b 0 1 % 16; let w := fld b 1 1
  if !(decide (op ≤ 9) || op == 0xF) || !(w == 2 || w == 4 || w == 8 || w == 16) then (s, .nak (openCode s))
  else if p.addr.toNat % w ≠ 0 then (s, .nak 6)
  else match remotePlaces s p.ctx p.addr.toNat w .write with
    | .inl c => (s, .nak c)
    | .inr [] => (s, .nak (openCode s))
    | .inr (a :: _) =>
      if homePois s.mem a.loc w then (s, .nak 9)
      else let r := rxStrong s p a w (atomicNew op w b) p.pois; (r.1, .data r.2)

/-- CMD: a form of R199 performed by system software on the device; the response carries xd (R364). -/
def doCmd (s : State) (p : Packet) : State × Reply :=
  let dev := lowestDev s.pkg
  let x1 := fld p.payload 8 8; let x2 := fld p.payload 16 8; let op := fld p.payload 24 8
  let ans := fun (r : State × Nat) => (r.1, Reply.data (natLe 8 r.2))
  match fld p.payload 0 8 with
  | 0 => ans (keysetOp s dev x1 (x2 % 1024))
  | 1 => ans (keydelOp s dev (x1 % 1024))
  | 2 => let r := ctxnewOp s dev x1; ans (r.1, r.2.toNat)
  | 3 => ans (ctxkillOp s (srcOf 4 dev 0) none (x1 % 65536))
  | 4 => match op with
    | 0 => ans (qbindOp s dev (x1 % 65536) x2)
    | 1 => ans (qunbindOp s dev (x1 % 65536))
    | 2 => ans (qpauseOp s dev (x1 % 65536) true)
    | 3 => ans (qpauseOp s dev (x1 % 65536) false)
    | 4 => ans (qctlAppendOp s dev (x1 % 65536) x2)
    | _ => (s, .nak (openCode s))
  | 5 => ans (scrubOp s dev x1 x2)
  | _ => (s, .nak (openCode s))

/-- Performs a request. -/
def doRequest (s : State) (p : Packet) : State × Reply :=
  match p.op.toNat with
  | 1 => doRead s p
  | 3 => doWrite s p
  | 4 => doQappend s p
  | 5 => doAtomic s p
  | 8 => doCmd s p
  | _ => (s, .none)

/-- The bytes of a READ lie on a DEV page, so its answer is kept (R365). -/
def readsDev (s : State) (p : Packet) : Bool :=
  match remotePlaces s p.ctx p.addr.toNat (min 4096 (fld p.payload 0 4)) .read with
  | .inr l => l.any (·.dev)
  | .inl _ => false

/-- Sends the answer to a request. A refusal names the request as SEQ ACK + 1 (R364). -/
def sendReply (s : State) (p : Packet) (r : Reply) : State :=
  match pathOf s p, r with
  | some q, .data l => sendBack s q 2 p.seq (q.rxNext - 1) l
  | some q, .nak c => sendBack s q 9 p.seq (p.seq - 1) (natLe 2 c)
  | _, _ => s

/-- An answer as it is kept: its data, or none with the code of a refusal. -/
def Reply.kept : Reply → Option (Option (List Byte) × Nat)
  | .none => Option.none
  | .data l => some (some l, 0)
  | .nak c => some (Option.none, c)

/-- Performs the next packet of a path in order and answers it; the answers of ATOMIC, QAPPEND and CMD are kept (R365). With it
the remote party's release may be performed (R288). -/
def performPacket (s : State) (p : Packet) : State :=
  let keep := p.op == 4 || p.op == 5 || p.op == 8 || (p.op == 1 && readsDev s p)
  let r := doRequest s p
  let s0 := if p.rel then publishRx r.1 p else r.1
  let s1 := modPath s0 p (fun q =>
    { q with rxNext := q.rxNext + 1,
             stored := match r.2.kept, keep with | some a, true => (p.seq, a) :: q.stored | _, _ => q.stored })
  sendReply s1 p r.2

/-- Performs the held packets that are now in order. -/
def drainHeld (p : Packet) : Nat → State → State
  | 0, s => s
  | n + 1, s => match pathOf s p with
    | none => s
    | some q => match q.held.find? (fun h => h.seq == q.rxNext) with
      | none => s
      | some h =>
        drainHeld p n (performPacket (modPath s p (fun q => { q with held := q.held.filter (fun x => x.seq != h.seq) })) h)

/-- A packet that was performed before is answered from the store, or read again (R365). -/
def repeatPacket (s : State) (q : Path) (p : Packet) : State :=
  match q.stored.find? (fun e => e.1 == p.seq) with
  | some (_, some l, _) => sendReply s p (.data l)
  | some (_, none, c) => sendReply s p (.nak c)
  | none => if p.op = 1 then let r := doRead s p; sendReply r.1 p r.2 else s

/-- A congestion notice for a packet with CE set, at most once every 50 µs (R366). -/
def noticeCe (s : State) (p : Packet) : State :=
  match pathOf s p with
  | none => s
  | some q =>
    if p.ce && (q.lastCnpSent == 0 || decide (q.lastCnpSent + 50000 ≤ nsNow s)) then
      modPath (sendBack s q 7 0 (q.rxNext - 1) []) p (fun q => { q with lastCnpSent := max 1 (nsNow s) })
    else s

/-- SEQ `a` is at or below `b` on a path. -/
def seqLe (a b : BitVec 32) : Bool := decide ((b - a).toNat < 2 ^ 31)

/-- The answers that the sender has acknowledged need not be kept: its ACK field covers them (R365). DEDUCED (log 25). -/
def dropStored (s : State) (p : Packet) : State :=
  modPath s p (fun q => { q with stored := q.stored.filter (fun e => e.1 == p.seq || !seqLe e.1 p.ack) })

/-- Acknowledges at once when asked to, or after 16 packets (R365). -/
def noteArrival (s : State) (p : Packet) : State :=
  let s1 := modPath s p (fun q => { q with unacked := q.unacked + 1, lastArrival := nsNow s })
  match pathOf s1 p with
  | none => s1
  | some q =>
    if p.flags.getLsbD 0 || decide (16 ≤ q.unacked) then modPath (sendAck s1 q) p (fun q => { q with unacked := 0 }) else s1

/-- A request arrives: performed in ascending SEQ order, held up to 256 beyond ACK, or discarded (R365). -/
def requestOp (p : Packet) (s : State) : State :=
  if portDown s p.port then s
  else if discards s p then discard s p
  else
    let s1 := dropStored (openPath s p) p
    match pathOf s1 p with
    | none => s1
    | some q =>
      let d := (p.seq - q.rxNext).toNat
      if 256 ≤ d ∧ d < 2 ^ 31 then noticeCe s1 p
      else
        let s2 := if d = 0 then drainHeld p 256 (performPacket s1 p)
          else if d < 256 then
            modPath s1 p (fun q => if q.held.any (fun h => h.seq == p.seq) then q else { q with held := q.held ++ [p] })
          else repeatPacket s1 q p
        noticeCe (noteArrival s2 p) p

/-- READ (R364). -/
def execPktRead (p : Packet) (s : State) : Out := .next (requestOp { p with op := 1 } s)

/-- WRITE (R364). -/
def execPktWrite (p : Packet) (s : State) : Out := .next (requestOp { p with op := 3 } s)

/-- QAPPEND (R342, R364). -/
def execPktQappend (p : Packet) (s : State) : Out := .next (requestOp { p with op := 4 } s)

/-- ATOMIC (R364). -/
def execPktAtomic (p : Packet) (s : State) : Out := .next (requestOp { p with op := 5 } s)

/-- CMD (R364). -/
def execPktCmd (p : Packet) (s : State) : Out := .next (requestOp { p with op := 8 } s)

/-! ### Answers (R364, R365) -/

/-- A packet that answers the sender's own requests. DEDUCED (log 25). -/
def answerOp (p : Packet) (s : State) (k : Path → State) : State :=
  if portDown s p.port then s
  else if discards s p then discard s p
  else match pathOf s p with
    | none => s
    | some q => k q

/-- A request of a path is answered: with data, or by a fault. The path makes progress. -/
def settleReq (s : State) (p : Packet) (seq : BitVec 32) (data : Option (List Byte)) (q : Path) : State :=
  match q.out.find? (fun o => o.seq == seq) with
  | none => s
  | some o =>
    let s1 := modPath s p (fun q => { q with out := q.out.filter (fun x => x.seq != seq), tries := 0, timeout := 100, since := nsNow s })
    { s1 with answers := s1.answers ++ [{ rid := o.rid, data := data }] }

/-- READRSP: the response to the request with its SEQ. It carries data, so its CE mark is answered (R366). -/
def execPktReadRsp (p : Packet) (s : State) : Out :=
  .next (answerOp { p with op := 2 } s fun q =>
    noticeCe (settleReq s { p with op := 2 } p.seq (some p.payload) q) { p with op := 2 })

/-- NAK: the request with SEQ ACK + 1 faults with code 11 at its issuer (R364, R369). -/
def execPktNak (p : Packet) (s : State) : Out :=
  .next (answerOp { p with op := 9 } s fun q => settleReq s { p with op := 9 } (p.ack + 1) none q)

/-- The request has a response beside the acknowledgement. -/
def hasReply (op : BitVec 8) : Bool := op == 1 || op == 4 || op == 5 || op == 8

/-- Sends a request again with RETX set (R363, R365). -/
def resend (s : State) (q : Path) (o : OutReq) : State :=
  { s with sent := s.sent ++ [packet q.port q.addr6 q.num o.op 2 o.seq (q.rxNext - 1) o.rctx o.addr o.payload o.pois] }

/-- ACK: retires what it acknowledges and sends again what its bitmap shows missing below its highest set bit (R365). -/
def ackOp (p : Packet) (s : State) (q : Path) : State :=
  let bm := leNat (slice p.payload 0 32)
  let top := (List.range 256).foldl (fun t k => if bm.testBit k then k else t) 0
  let missing := q.out.filter (fun o =>
    let k := (o.seq - p.ack - 1).toNat
    !seqLe o.seq p.ack && decide (k < top) && !bm.testBit k)
  let progress := q.out.any (fun o => seqLe o.seq p.ack && !o.acked)
  let s1 := modPath s p (fun q =>
    let out := (q.out.filter (fun o => !seqLe o.seq p.ack || hasReply o.op)).map (fun o =>
      if seqLe o.seq p.ack then { o with acked := true } else o)
    if progress then { q with out := out, tries := 0, timeout := 100, since := nsNow s } else { q with out := out })
  -- a WRITE has no other answer
  let told := (q.out.filter (fun o => o.op == 3 && seqLe o.seq p.ack)).map (fun o => ({ rid := o.rid, data := some [] } : RemoteAns))
  missing.foldl (fun st o => resend st q o) { s1 with answers := s1.answers ++ told }

/-- ACK (R365). -/
def execPktAck (p : Packet) (s : State) : Out := .next (answerOp { p with op := 6 } s fun q => ackOp { p with op := 6 } s q)

/-- CNP: the path's rate becomes 7/8 of itself, and no less than 1 Gb/s (R366). -/
def execPktCnp (p : Packet) (s : State) : Out :=
  .next (answerOp { p with op := 7 } s fun _ =>
    modPath s { p with op := 7 } (fun q => { q with rate := max 1000 (q.rate * 7 / 8), lastCnp := nsNow s }))

/-! ### Timers (R365, R366) -/

/-- The path of a port and number that carries requests. -/
def findPath (s : State) (port : Nat) (num : BitVec 32) : Option Path :=
  s.paths.find? (fun q => q.port == port && q.num == num && !q.failed)

def modPathNum (s : State) (port : Nat) (num : BitVec 32) (f : Path → Path) : State :=
  let ps := updWhere (fun q : Path => q.port == port && q.num == num && !q.failed) f s.paths
  { s with paths := ps }

/-- ACK_TIMER: 2 µs after the last unacknowledged arrival (R365). -/
def ackTimerOp (port : Nat) (num : BitVec 32) (s : State) : State :=
  match findPath s port num with
  | none => s
  | some q =>
    if 0 < q.unacked ∧ q.lastArrival + 2000 ≤ nsNow s then
      modPathNum (sendAck s q) port num (fun q => { q with unacked := 0 }) else s

/-- ACK_TIMER (R365). -/
def execAckTimer (port : Nat) (path : BitVec 32) (s : State) : Out := .next (ackTimerOp port path s)

/-- RETX_TIMEOUT: every unacknowledged packet is sent again, and the timeout doubles up to 12.8 ms (R365). -/
def retxTimeoutOp (port : Nat) (num : BitVec 32) (s : State) : State :=
  match findPath s port num with
  | none => s
  | some q =>
    let todo := q.out.filter (fun o => !o.acked)
    if todo.isEmpty || decide (8 ≤ q.tries) || decide (nsNow s < q.since + 1000 * q.timeout) then s
    else
      let s1 := todo.foldl (fun st o => resend st q o) s
      modPathNum s1 port num (fun q => { q with tries := q.tries + 1, timeout := min 12800 (2 * q.timeout), since := nsNow s })

/-- RETX_TIMEOUT (R365). -/
def execRetxTimeout (port : Nat) (path : BitVec 32) (s : State) : Out := .next (retxTimeoutOp port path s)

/-- PATH_FAIL: after eight timeouts without progress every request of the path faults with code 11 (R486). -/
def pathFailOp (port : Nat) (num : BitVec 32) (s : State) : State :=
  match findPath s port num with
  | none => s
  | some q =>
    if q.tries < 8 then s
    else
      let cs := (q.out.map (·.ctx)).eraseDups
      let ctx := match cs with | [c] => if (findCtx s c).isSome then some c else none | _ => none
      let s1 := event s (srcOf 8 0 port) 0x0722 0 ctx none none (natLe 16 q.addr6.toNat)
      let s2 := modPathNum s1 port num (fun q => { q with failed := true, out := [], held := [] })
      { s2 with answers := s2.answers ++ q.out.map (fun o => { rid := o.rid, data := none }) }

/-- PATH_FAIL (R486). -/
def execPathFail (port : Nat) (path : BitVec 32) (s : State) : Out := .next (pathFailOp port path s)

/-- CNP_RATE_RECOVER: each 50 µs without a notice adds 1% of the line rate (R366). -/
def cnpRateRecoverOp (port : Nat) (num : BitVec 32) (s : State) : State :=
  let line := if port = 32 then 1600000 else 800000
  match findPath s port num with
  | none => s
  | some q =>
    if q.lastCnp + 50000 ≤ nsNow s then
      modPathNum s port num (fun q => { q with rate := min line (q.rate + line / 100), lastCnp := nsNow s }) else s

/-- CNP_RATE_RECOVER (R366). -/
def execCnpRateRecover (port : Nat) (path : BitVec 32) (s : State) : Out := .next (cnpRateRecoverOp port path s)

end Sys2Proof.Machine
end

