-- ==== Sys2Proof/Machine/Sync.lean ====
section
/-! DEFINITION. Phase boundaries, barriers and mailboxes: majors 0xC0 to 0xC2, and the background steps of releases
and acquires (R273 to R275, R353 to R356). -/

namespace Sys2Proof.Machine

/-! ### Phase boundaries (R273 to R275) -/

/-- A release at a scope (R274). -/
def relOp (sc : Scope) (s : State) : State :=
  afterReleases s fun s1 => retire s (releaseStart s1 sc .nothing true)

/-- An acquire at a scope (R275). -/
def acqOp (sc : Scope) (s : State) : State := afterReleases s fun s1 => acquireOp s s1 sc 0

/-- Marks that the release of the present instruction is made. -/
def setHalf (s : State) : State := s.onHart (fun h => { h with st := { h.st with half := true } })

/-- A release, then an acquire that waits for it; the two count as one boundary (R275). -/
def phaseOp (sc : Scope) (s : State) : State :=
  if s.hart.st.half then acqOp sc s
  else afterReleases s fun s1 => acqOp sc (setHalf (releaseStart s1 sc .nothing false))

/-- The scope of a level. -/
def scopeOf (l : Level) : Scope := numScope l.scope

/-- `phase` (R273). -/
def execPhase (scp : Scope) (s : State) : Out := .next (phaseOp scp s)

/-- `phase.rel` (R274). -/
def execPhaseRel (scp : Scope) (s : State) : Out := .next (relOp scp s)

/-- `phase.acq` (R275). -/
def execPhaseAcq (scp : Scope) (s : State) : Out := .next (acqOp scp s)

/-- `phase.l` (R273). -/
def execPhaseL (n : Fin 8) (s : State) : Out := .next (withLevel s n.val fun _ l => phaseOp (scopeOf l) s)

/-- `phase.rel.l` (R273). -/
def execPhaseRelL (n : Fin 8) (s : State) : Out := .next (withLevel s n.val fun _ l => relOp (scopeOf l) s)

/-- `phase.acq.l` (R273). -/
def execPhaseAcqL (n : Fin 8) (s : State) : Out := .next (withLevel s n.val fun _ l => acqOp (scopeOf l) s)

/-- RELEASE_PERFORM: the oldest pending release of a hart is performed (R274). -/
def execReleasePerform (h : Nat) (s : State) : Out := .next (withHart s h performOldest)

/-- The hold of a multi-die acquire has lasted 8 ns (R275). -/
def acquireHoldEndOp (s : State) : State :=
  let h := s.hart
  if h.phs.hold = true ∧ h.phs.holdUntil ≤ s.cycle then acquireRetire s s h.phs.holdKind else s

/-- ACQUIRE_HOLD_END (R275). -/
def execAcquireHoldEnd (h : Nat) (s : State) : Out := .next (withHart s h acquireHoldEndOp)

/-! ### Barriers (R353, R354) -/

/-- The instance of a level that holds a hart: the quotient of its flat index by the harts of one instance. -/
def levelInst (l : Launch) (n : Nat) (h : Hart) : Nat := h.id.flat / levelSize l n

/-- The barrier of the focus hart's instance of a level. -/
def myBarrier (l : Launch) (n : Nat) (h : Hart) : Barrier :=
  (l.barriers.find? (fun b => b.level == n && b.inst == levelInst l n h)).getD
    { level := n, inst := levelInst l n h, gen := 0, arrived := [], performed := [], syncs := [] }

/-- The hart has arrived in the present generation. -/
def hasArrived (b : Barrier) (h : Hart) : Bool := b.arrived.contains (barKey h)

/-- Counts the hart into the present generation; `sync` keeps the record of a `bar.sync` (R354). -/
def countIn (s : State) (l : Launch) (n : Nat) (sync : Bool) : State :=
  let k := barKey s.hart
  modBarrier s l.lid n (levelInst l n s.hart) (fun b =>
    { b with arrived := k :: b.arrived, syncs := if sync then (k, b.gen) :: b.syncs else b.syncs })

/-- The release of an arrival, and the count once the hart may arrive; `k` goes on with the generation. DEDUCED (log 40). -/
def arriveOp (s : State) (l : Launch) (n : Nat) (sc : Scope) (sync : Bool) (k : State → BitVec 32 → State) : State :=
  let b := myBarrier l n s.hart
  if hasArrived b s.hart then
    if s.hart.st.half then asleepOn s (.arriveAgain n b.gen)
    else afterReleases s fun s1 => asleepOn (setHalf (releaseStart s1 sc .nothing true)) (.arriveAgain n b.gen)
  else if s.hart.st.half then
    -- its release was made while it waited for the generation to change
    afterReleases s fun s1 =>
      let s2 := countIn s1 l n sync
      k (releaseThen s2 (.arrive n (levelInst l n s.hart))) b.gen
  else afterReleases s fun s1 =>
    k (releaseStart (countIn s1 l n sync) sc (.arrive n (levelInst l n s.hart)) true) b.gen

/-- A generation has ended, as a wait for it sees it. -/
def genEnded (b : Barrier) (g : BitVec 32) : Bool :=
  let d := (b.gen - g).toNat
  decide (1 ≤ d) && decide (d ≤ 2 ^ 31)

/-- Waits for the end of a generation, then acquires (R354). -/
def barWaitOp (s0 s : State) (n : Nat) (sc : Scope) (g : BitVec 32) (sync : Bool) : State :=
  match myLaunch s with
  | none => s
  | some l =>
    if genEnded (myBarrier l n s.hart) g then afterReleases s fun s1 => acquireOp s0 s1 sc (if sync then n else 0)
    else asleepOn s (.barWait n g sync)

/-- `bar.arrive` (R354). -/
def execBarArrive (xd : XReg) (n : Fin 8) (s : State) : Out :=
  .next (withLevel s n.val fun l lv =>
    arriveOp s l n.val (scopeOf lv) false fun s1 g => retire s (s1.setX xd (g.setWidth 64)))

/-- `bar.wait` (R354). -/
def execBarWait (xs1 : XReg) (n : Fin 8) (s : State) : Out :=
  .next (withLevel s n.val fun _ lv => barWaitOp s s n.val (scopeOf lv) ((s.x xs1).setWidth 32) false)

/-- `bar.sync` (R354): a counted one that executes again only waits. -/
def execBarSync (n : Fin 8) (s : State) : Out :=
  .next (withLevel s n.val fun l lv =>
    match (myBarrier l n.val s.hart).syncs.find? (fun p => p.1 == barKey s.hart) with
    | some p => barWaitOp s s n.val (scopeOf lv) p.2 true
    | none => arriveOp s l n.val (scopeOf lv) true fun s1 g => barWaitOp s s1 n.val (scopeOf lv) g true)

/-- BARRIER_GEN_END: every hart has arrived and every release is performed (R353). -/
def execBarrierGenEnd (launch level inst : Nat) (s : State) : Out := .next (barrierEnd s launch level inst)

/-! ### Mailboxes (R356) -/

/-- The positions 8·h + j that a target operand selects, ascending. -/
def mcastPositions (t : Word) : List Nat :=
  (List.range 64).filter (fun p => t.getLsbD (p % 8) && t.getLsbD (8 + p / 8))

/-- The hart of the sender's gang instance at a position of its cluster. -/
def mcastTarget (s : State) (p : Nat) : Option Hart :=
  let me := s.hart.id
  (allHarts s).find? (fun h => h.id.die == me.die && h.id.core == me.core / 8 * 8 + p % 8 && h.id.hnum == p / 8 &&
    h.id.launch == me.launch && h.id.ginst == me.ginst && !h.id.partner && h.onCore)

/-- Every target has a free entry. -/
def mcastRoom (s : State) (us : List Nat) : Bool :=
  us.all (fun u => match findHart s u with | some h => decide (h.mbox.length < 4) | none => true)

/-- The harts that receive an entry with a target: itself and its redundant partner. -/
def mboxTwins (s : State) (u : Nat) : List Nat :=
  match findHart s u with
  | none => []
  | some h => ((allHarts s).filter (fun p => p.id.launch == h.id.launch && p.id.flat == h.id.flat)).map (·.id.uid)

/-- Appends a value to the mailboxes of the targets, in one cycle. -/
def mcastAppendTo (s : State) (us : List Nat) (v : Word) : State :=
  let all := us.flatMap (mboxTwins s)
  mapHarts s (fun h => if all.contains h.id.uid then { h with mbox := h.mbox ++ [v] } else h)

/-- What follows the release of an `mcast`: the append, or the wait for room. -/
def mcastSend (s0 s : State) (us : List Nat) (v : Word) : State :=
  afterReleases s fun s1 =>
    if mcastRoom s1 us then retire s0 (mcastAppendTo s1 us v) else asleepOn s1 (.mcast us v)

/-- `mcast` (R356). -/
def mcastOp (xs1 xs2 : XReg) (s : State) : State :=
  consume s [xs1, xs2] fun s =>
    let ps := mcastPositions (s.x xs2)
    match ps.find? (fun p => (mcastTarget s p).isNone) with
    | some p => takeTrap s 0x0018 (BitVec.ofNat 64 p)
    | none =>
      let us := ps.filterMap (fun p => (mcastTarget s p).map (·.id.uid))
      if us.isEmpty then retire s s
      else if s.hart.st.half then mcastSend s s us (s.x xs1)
      else afterReleases s fun s1 => mcastSend s (setHalf (releaseStart s1 .cluster .nothing true)) us (s.x xs1)

/-- `mcast` (R356). -/
def execMcast (xs1 xs2 : XReg) (s : State) : Out := .next (mcastOp xs1 xs2 s)

/-- A waiting `mcast` finds room in every target mailbox (R356). -/
def mcastAppendOp (s : State) : State :=
  match s.hart.st.asleep with
  | some (.mcast us v) => if mcastRoom s us then retire s (mcastAppendTo s us v) else s
  | _ => s

/-- MCAST_APPEND (R356). -/
def execMcastAppend (h : Nat) (s : State) : Out := .next (withHart s h mcastAppendOp)

/-- Takes the oldest entry, then acquires at CLUSTER scope (R356). -/
def mrecvOp (xd : XReg) (s : State) : State :=
  match s.hart.mbox with
  | [] => asleepOn s (.mrecv xd)
  | v :: r => afterReleases s fun s1 =>
    acquireOp s ((s1.setX xd v).onHart (fun h => { h with mbox := r })) .cluster 0

/-- `mrecv` (R356). -/
def execMrecv (xd : XReg) (s : State) : Out := .next (mrecvOp xd s)

end Sys2Proof.Machine
end

