-- ==== Sys2Proof/Machine/VecConfig.lean ====
section
/-! DEFINITION. Major 0x40 and `vsetre`: VL, VTYPE and VMT (R205 to R209). -/

namespace Sys2Proof.Machine

/-- VLMAX of a VTYPE value whose entry is valid (R201). -/
def vlmaxOf (h : Hart) (t : Word) : Nat :=
  min (2 ^ (bits t.toNat 6 4) * (h.vlen / (fmt h ⟨t.toNat % 16, by omega⟩).n)) h.vlen

/-- The operand refuses the configuration (R207). -/
def badVtype (h : Hart) (t : Word) : Bool :=
  t >>> 9 != 0 || decide (3 < bits t.toNat 6 4) || !fmtValid (entry h ⟨t.toNat % 16, by omega⟩)

/-- The registers after a configuration (R207): AVL none stands for VLMAX. -/
def configured (h : Hart) (t : Word) (avl : Option Nat) : Hart :=
  let vc := if badVtype h t then { h.vc with vtype := 0x8000000000000000, vl := 0, ves := 0 }
    else
      let mx := vlmaxOf h t
      { h.vc with vtype := t, vl := BitVec.ofNat 17 (match avl with | some a => min a mx | none => mx), ves := 0 }
  { h with vc := vc }

/-- A configuration: VL and VTYPE, and the granted VL to xd. -/
def configOp (s : State) (xd : XReg) (rs : List XReg) (t : Hart → Word) (avl : Hart → Option Nat) : State :=
  consume s rs fun s =>
    let s1 := s.onHart (fun h => configured h (t h) (avl h))
    retire s (s1.setX xd (s1.hart.vc.vl.setWidth 64))

/-- `vcfg` (R207). -/
def execVcfg (xd xs1 xs2 : XReg) (s : State) : Out :=
  .next (configOp s xd [xs1, xs2] (fun h => getX h xs2) (fun h => some (getX h xs1).toNat))

/-- `vcfgi` (R207). -/
def execVcfgi (xd xs1 : XReg) (vt : BitVec 9) (s : State) : Out :=
  .next (configOp s xd [xs1] (fun _ => vt.setWidth 64) (fun h => some (getX h xs1).toNat))

/-- `vcfgn` (R207). -/
def execVcfgn (xd : XReg) (avl : BitVec 17) (vt : BitVec 9) (s : State) : Out :=
  .next (configOp s xd [] (fun _ => vt.setWidth 64) (fun _ => some avl.toNat))

/-- `vcfgmax` (R207). -/
def execVcfgmax (xd : XReg) (vt : BitVec 9) (s : State) : Out :=
  .next (configOp s xd [] (fun _ => vt.setWidth 64) (fun _ => none))

/-- The code of a space in VMT.SP (R67). -/
def spaceCode : Space → BitVec 2
  | .global => 0
  | .tile => 1
  | .peer => 2
  | .host => 3

/-- `vspace` (R205). -/
def execVspace (sp : Space) (s : State) : Out :=
  .next (retireSolo s (s.onHart (fun h => { h with vc := { h.vc with vmt := spaceCode sp } })))

/-- `vspacex` (R205). -/
def execVspacex (xs1 : XReg) (s : State) : Out :=
  .next (consume s [xs1] fun s =>
    retireSolo s (s.onHart (fun h => { h with vc := { h.vc with vmt := (getX h xs1).extractLsb' 0 2 } })))

/-- `vsetre` (R209). -/
def execVsetre (xd xs1 xs2 : XReg) (k : Fin 17) (s : State) : Out :=
  .next (
    let h := s.hart
    if vill h then takeTrap s 0x0003 h.vc.vtype
    else if fmtValid (entry h (vtFmt h)) = false then takeTrap s 0x0004 (fmtVal (vtFmt h) false)
    else consume s [xs1, xs2] fun s =>
      let b := 2 ^ k.val
      let vl := min (min (s.x xs2).toNat (b - (s.x xs1).toNat % b)) (vlmaxN s.hart (fmt s.hart (vtFmt s.hart)).n)
      let s1 := s.onHart (fun h => { h with vc := { h.vc with vl := BitVec.ofNat 17 vl, ves := 0 } })
      retire s (s1.setX xd (BitVec.ofNat 64 vl)))

end Sys2Proof.Machine
end

