-- ==== Sys2Proof/Machine/Wake.lean ====
section
/-! DEFINITION. The end of a wait (R330, R340, R354, R356, R357, R265). -/

namespace Sys2Proof.Machine

/-- Ends the sleep; the instruction executes again from its start. -/
def wakeUp (s : State) : State := s.onHart (fun h => { h with st := { h.st with asleep := none } })

/-- A port has room for one more command (R315). -/
def portRoomNow (s : State) (port : Nat) : Bool :=
  decide ((portCmds s s.hart.id.ctx s.hart.id.flat port).length < (if port = 16 then 4 else 8))

/-- The hart may arrive again at a level: the generation it arrived in has ended (R354). -/
def mayArrive (s : State) (n : Nat) : Bool :=
  match myLaunch s with
  | none => true
  | some l => !hasArrived (myBarrier l n s.hart) s.hart

/-- A waiting instruction goes on when its condition holds; otherwise it sleeps on. -/
def wakeOp (k : WaitKind) (s : State) : State :=
  match k with
  | .strmw port => strmwOp port s
  | .crwait xd ea pd dl => crwaitOp xd (BitVec.ofNat 64 ea) dl pd s
  | .barWait n g sync => barWaitOp s s n ((((myLaunch s).bind (·.levels[n]?)).map scopeOf).getD .cluster) g sync
  | .arriveAgain n _ => if mayArrive s n then wakeUp s else s
  | .mrecv xd => mrecvOp xd s
  | .mcast _ _ => mcastAppendOp s
  | .tmwait xd i pd => tmwaitOp xd i pd s
  | .sleep xd dl t => sleepFrom xd dl t s
  | .chain _ _ _ => chainCompleteOp s.hart.id.uid s
  | .portRoom port => if portRoomNow s port then wakeUp s else s
  | .remote r => if (answerOf s r).isSome then wakeUp s else s
  | .twin => wakeUp s

/-- WAIT_WAKE on the focus hart. -/
def waitWakeOp (s : State) : State :=
  if s.hart.st.life ≠ .placed then s
  else match s.hart.st.asleep with
    | none => s
    | some k => wakeOp k s

/-- WAIT_WAKE (R330). -/
def execWaitWake (h : Nat) (s : State) : Out := .next (withHart s h waitWakeOp)

end Sys2Proof.Machine
end

