-- ==== Sys2Proof/Machine/Dispatch.lean ====
section
/-! DEFINITION. The dispatch of an instruction or engine step to its meaning, one arm per constructor. -/

namespace Sys2Proof.Machine

/-- What an instruction or engine step does to the machine. -/
def exec (i : Instr) (s : State) : Host.Outcome State Fault Refusal :=
  match i with
  | .add xd xs1 b => Sys2Proof.Machine.execAdd xd xs1 b s
  | .sub xd xs1 b => Sys2Proof.Machine.execSub xd xs1 b s
  | .and_ xd xs1 b => Sys2Proof.Machine.execAnd xd xs1 b s
  | .or_ xd xs1 b => Sys2Proof.Machine.execOr xd xs1 b s
  | .xor_ xd xs1 b => Sys2Proof.Machine.execXor xd xs1 b s
  | .andn xd xs1 b => Sys2Proof.Machine.execAndn xd xs1 b s
  | .addw xd xs1 b => Sys2Proof.Machine.execAddw xd xs1 b s
  | .subw xd xs1 b => Sys2Proof.Machine.execSubw xd xs1 b s
  | .min_ xd xs1 b => Sys2Proof.Machine.execMin xd xs1 b s
  | .max_ xd xs1 b => Sys2Proof.Machine.execMax xd xs1 b s
  | .minu xd xs1 b => Sys2Proof.Machine.execMinu xd xs1 b s
  | .maxu xd xs1 b => Sys2Proof.Machine.execMaxu xd xs1 b s
  | .sll xd xs1 b => Sys2Proof.Machine.execSll xd xs1 b s
  | .srl xd xs1 b => Sys2Proof.Machine.execSrl xd xs1 b s
  | .sra xd xs1 b => Sys2Proof.Machine.execSra xd xs1 b s
  | .rol xd xs1 b => Sys2Proof.Machine.execRol xd xs1 b s
  | .ror xd xs1 b => Sys2Proof.Machine.execRor xd xs1 b s
  | .sllw xd xs1 b => Sys2Proof.Machine.execSllw xd xs1 b s
  | .srlw xd xs1 b => Sys2Proof.Machine.execSrlw xd xs1 b s
  | .sraw xd xs1 b => Sys2Proof.Machine.execSraw xd xs1 b s
  | .seq xd xs1 b => Sys2Proof.Machine.execSeq xd xs1 b s
  | .sne xd xs1 b => Sys2Proof.Machine.execSne xd xs1 b s
  | .slt xd xs1 b => Sys2Proof.Machine.execSlt xd xs1 b s
  | .sltu xd xs1 b => Sys2Proof.Machine.execSltu xd xs1 b s
  | .sge xd xs1 b => Sys2Proof.Machine.execSge xd xs1 b s
  | .sgeu xd xs1 b => Sys2Proof.Machine.execSgeu xd xs1 b s
  | .sel xd xs3 xs1 b => Sys2Proof.Machine.execSel xd xs3 xs1 b s
  | .mul xd xs1 b => Sys2Proof.Machine.execMul xd xs1 b s
  | .mulh xd xs1 b => Sys2Proof.Machine.execMulh xd xs1 b s
  | .mulhu xd xs1 b => Sys2Proof.Machine.execMulhu xd xs1 b s
  | .mulhsu xd xs1 b => Sys2Proof.Machine.execMulhsu xd xs1 b s
  | .mulw xd xs1 b => Sys2Proof.Machine.execMulw xd xs1 b s
  | .madd xd xs1 b xs3 => Sys2Proof.Machine.execMadd xd xs1 b xs3 s
  | .div xd xs1 b => Sys2Proof.Machine.execDiv xd xs1 b s
  | .divu xd xs1 b => Sys2Proof.Machine.execDivu xd xs1 b s
  | .rem xd xs1 b => Sys2Proof.Machine.execRem xd xs1 b s
  | .remu xd xs1 b => Sys2Proof.Machine.execRemu xd xs1 b s
  | .clz xd xs1 => Sys2Proof.Machine.execClz xd xs1 s
  | .ctz xd xs1 => Sys2Proof.Machine.execCtz xd xs1 s
  | .cpop xd xs1 => Sys2Proof.Machine.execCpop xd xs1 s
  | .rev8 xd xs1 => Sys2Proof.Machine.execRev8 xd xs1 s
  | .bext xd xs1 pos lenM1 => Sys2Proof.Machine.execBext xd xs1 pos lenM1 s
  | .bexts xd xs1 pos lenM1 => Sys2Proof.Machine.execBexts xd xs1 pos lenM1 s
  | .bins xd xs1 pos lenM1 => Sys2Proof.Machine.execBins xd xs1 pos lenM1 s
  | .li xd imm => Sys2Proof.Machine.execLi xd imm s
  | .lih xd xs1 imm => Sys2Proof.Machine.execLih xd xs1 imm s
  | .lea xd xs1 xs2 sh => Sys2Proof.Machine.execLea xd xs1 xs2 sh s
  | .lca xd slot imm => Sys2Proof.Machine.execLca xd slot imm s
  | .fset k xs1 => Sys2Proof.Machine.execFset k xs1 s
  | .talloc xd xs1 => Sys2Proof.Machine.execTalloc xd xs1 s
  | .tfree xd xs1 => Sys2Proof.Machine.execTfree xd xs1 s
  | .ldb xd xs1 xs2 imm => Sys2Proof.Machine.execLdb xd xs1 xs2 imm s
  | .ldbu xd xs1 xs2 imm => Sys2Proof.Machine.execLdbu xd xs1 xs2 imm s
  | .ldh xd xs1 xs2 imm => Sys2Proof.Machine.execLdh xd xs1 xs2 imm s
  | .ldhu xd xs1 xs2 imm => Sys2Proof.Machine.execLdhu xd xs1 xs2 imm s
  | .ldw xd xs1 xs2 imm => Sys2Proof.Machine.execLdw xd xs1 xs2 imm s
  | .ldwu xd xs1 xs2 imm => Sys2Proof.Machine.execLdwu xd xs1 xs2 imm s
  | .ldd xd xs1 xs2 imm => Sys2Proof.Machine.execLdd xd xs1 xs2 imm s
  | .ldp xd xs1 xs2 imm => Sys2Proof.Machine.execLdp xd xs1 xs2 imm s
  | .stb xs3 xs1 xs2 imm => Sys2Proof.Machine.execStb xs3 xs1 xs2 imm s
  | .sth xs3 xs1 xs2 imm => Sys2Proof.Machine.execSth xs3 xs1 xs2 imm s
  | .stw xs3 xs1 xs2 imm => Sys2Proof.Machine.execStw xs3 xs1 xs2 imm s
  | .std xs3 xs1 xs2 imm => Sys2Proof.Machine.execStd xs3 xs1 xs2 imm s
  | .stp xs3 xs1 xs2 imm => Sys2Proof.Machine.execStp xs3 xs1 xs2 imm s
  | .amoswap wd xd xs2 xs1 imm => Sys2Proof.Machine.execAmoswap wd xd xs2 xs1 imm s
  | .amoadd wd xd xs2 xs1 imm => Sys2Proof.Machine.execAmoadd wd xd xs2 xs1 imm s
  | .amoand wd xd xs2 xs1 imm => Sys2Proof.Machine.execAmoand wd xd xs2 xs1 imm s
  | .amoor wd xd xs2 xs1 imm => Sys2Proof.Machine.execAmoor wd xd xs2 xs1 imm s
  | .amoxor wd xd xs2 xs1 imm => Sys2Proof.Machine.execAmoxor wd xd xs2 xs1 imm s
  | .amomin wd xd xs2 xs1 imm => Sys2Proof.Machine.execAmomin wd xd xs2 xs1 imm s
  | .amomax wd xd xs2 xs1 imm => Sys2Proof.Machine.execAmomax wd xd xs2 xs1 imm s
  | .amominu wd xd xs2 xs1 imm => Sys2Proof.Machine.execAmominu wd xd xs2 xs1 imm s
  | .amomaxu wd xd xs2 xs1 imm => Sys2Proof.Machine.execAmomaxu wd xd xs2 xs1 imm s
  | .casW xd xs2 xs3 xs1 imm => Sys2Proof.Machine.execCasW xd xs2 xs3 xs1 imm s
  | .casD xd xs2 xs3 xs1 imm => Sys2Proof.Machine.execCasD xd xs2 xs3 xs1 imm s
  | .casQ xd xs2 xs3 xs1 imm => Sys2Proof.Machine.execCasQ xd xs2 xs3 xs1 imm s
  | .j slot imm => Sys2Proof.Machine.execJ slot imm s
  | .call xd slot imm => Sys2Proof.Machine.execCall xd slot imm s
  | .jr xs1 => Sys2Proof.Machine.execJr xs1 s
  | .callr xd xs1 => Sys2Proof.Machine.execCallr xd xs1 s
  | .ret xs1 => Sys2Proof.Machine.execRet xs1 s
  | .beq xs1 xs2 slot imm => Sys2Proof.Machine.execBeq xs1 xs2 slot imm s
  | .bne xs1 xs2 slot imm => Sys2Proof.Machine.execBne xs1 xs2 slot imm s
  | .blt xs1 xs2 slot imm => Sys2Proof.Machine.execBlt xs1 xs2 slot imm s
  | .bge xs1 xs2 slot imm => Sys2Proof.Machine.execBge xs1 xs2 slot imm s
  | .bltu xs1 xs2 slot imm => Sys2Proof.Machine.execBltu xs1 xs2 slot imm s
  | .bgeu xs1 xs2 slot imm => Sys2Proof.Machine.execBgeu xs1 xs2 slot imm s
  | .loop0 xs1 slot imm => Sys2Proof.Machine.execLoop0 xs1 slot imm s
  | .loop1 xs1 slot imm => Sys2Proof.Machine.execLoop1 xs1 slot imm s
  | .lpexit0 => Sys2Proof.Machine.execLpexit0 s
  | .lpexit1 => Sys2Proof.Machine.execLpexit1 s
  | .sget xd num => Sys2Proof.Machine.execSget xd num s
  | .sset num xs1 => Sys2Proof.Machine.execSset num xs1 s
  | .vlcapWrite xs1 => Sys2Proof.Machine.execVlcapWrite xs1 s
  | .rseedWrite xs1 => Sys2Proof.Machine.execRseedWrite xs1 s
  | .dmodeWrite xs1 => Sys2Proof.Machine.execDmodeWrite xs1 s
  | .loopRegWrite r xs1 => Sys2Proof.Machine.execLoopRegWrite r xs1 s
  | .sys imm => Sys2Proof.Machine.execSys imm s
  | .brk imm => Sys2Proof.Machine.execBrk imm s
  | .tret => Sys2Proof.Machine.execTret s
  | .uiret => Sys2Proof.Machine.execUiret s
  | .tlbinv xs1 => Sys2Proof.Machine.execTlbinv xs1 s
  | .tlbinvVa xs1 xs2 => Sys2Proof.Machine.execTlbinvVa xs1 xs2 s
  | .fsync scp => Sys2Proof.Machine.execFsync scp s
  | .keyset xd xs1 xs2 => Sys2Proof.Machine.execKeyset xd xs1 xs2 s
  | .keydel xd xs1 => Sys2Proof.Machine.execKeydel xd xs1 s
  | .ctxnew xd xs1 => Sys2Proof.Machine.execCtxnew xd xs1 s
  | .ctxkill xd xs1 => Sys2Proof.Machine.execCtxkill xd xs1 s
  | .qbind xd xs1 xs2 => Sys2Proof.Machine.execQbind xd xs1 xs2 s
  | .qunbind xd xs1 xs2 => Sys2Proof.Machine.execQunbind xd xs1 xs2 s
  | .qpause xd xs1 xs2 => Sys2Proof.Machine.execQpause xd xs1 xs2 s
  | .qresume xd xs1 xs2 => Sys2Proof.Machine.execQresume xd xs1 xs2 s
  | .qappend xd xs1 xs2 => Sys2Proof.Machine.execQappend xd xs1 xs2 s
  | .scrub xd xs1 xs2 => Sys2Proof.Machine.execScrub xd xs1 xs2 s
  | .vcfg xd xs1 xs2 => Sys2Proof.Machine.execVcfg xd xs1 xs2 s
  | .vcfgi xd xs1 vt => Sys2Proof.Machine.execVcfgi xd xs1 vt s
  | .vcfgn xd avl vt => Sys2Proof.Machine.execVcfgn xd avl vt s
  | .vcfgmax xd vt => Sys2Proof.Machine.execVcfgmax xd vt s
  | .vspace sp => Sys2Proof.Machine.execVspace sp s
  | .vspacex xs1 => Sys2Proof.Machine.execVspacex xs1 s
  | .vsetre xd xs1 xs2 k => Sys2Proof.Machine.execVsetre xd xs1 xs2 k s
  | .vld vr xb imm fe nf mk => Sys2Proof.Machine.execVld vr xb imm fe nf mk s
  | .vlds vr xb imm xo fe nf mk => Sys2Proof.Machine.execVlds vr xb imm xo fe nf mk s
  | .vldx vr xb imm vo fe fi nf mk => Sys2Proof.Machine.execVldx vr xb imm vo fe fi nf mk s
  | .vldux vr xb imm vo fe fi nf mk => Sys2Proof.Machine.execVldux vr xb imm vo fe fi nf mk s
  | .vldff vr xb imm fe nf mk => Sys2Proof.Machine.execVldff vr xb imm fe nf mk s
  | .vlm md xb imm => Sys2Proof.Machine.execVlm md xb imm s
  | .vst vr xb imm fe nf mk => Sys2Proof.Machine.execVst vr xb imm fe nf mk s
  | .vsts vr xb imm xo fe nf mk => Sys2Proof.Machine.execVsts vr xb imm xo fe nf mk s
  | .vstx vr xb imm vo fe fi nf mk => Sys2Proof.Machine.execVstx vr xb imm vo fe fi nf mk s
  | .vstux vr xb imm vo fe fi nf mk => Sys2Proof.Machine.execVstux vr xb imm vo fe fi nf mk s
  | .vsm ms xb imm => Sys2Proof.Machine.execVsm ms xb imm s
  | .vamoswap ord vr xb imm vo fe fi mk => Sys2Proof.Machine.execVamoswap ord vr xb imm vo fe fi mk s
  | .vamoadd ord vr xb imm vo fe fi mk => Sys2Proof.Machine.execVamoadd ord vr xb imm vo fe fi mk s
  | .vamoand ord vr xb imm vo fe fi mk => Sys2Proof.Machine.execVamoand ord vr xb imm vo fe fi mk s
  | .vamoor ord vr xb imm vo fe fi mk => Sys2Proof.Machine.execVamoor ord vr xb imm vo fe fi mk s
  | .vamoxor ord vr xb imm vo fe fi mk => Sys2Proof.Machine.execVamoxor ord vr xb imm vo fe fi mk s
  | .vamomin ord vr xb imm vo fe fi mk => Sys2Proof.Machine.execVamomin ord vr xb imm vo fe fi mk s
  | .vamomax ord vr xb imm vo fe fi mk => Sys2Proof.Machine.execVamomax ord vr xb imm vo fe fi mk s
  | .vamominu ord vr xb imm vo fe fi mk => Sys2Proof.Machine.execVamominu ord vr xb imm vo fe fi mk s
  | .vamomaxu ord vr xb imm vo fe fi mk => Sys2Proof.Machine.execVamomaxu ord vr xb imm vo fe fi mk s
  | .vamofadd ord vr xb imm vo fe fi mk => Sys2Proof.Machine.execVamofadd ord vr xb imm vo fe fi mk s
  | .vcas ord vr xb imm vo fe fi mk => Sys2Proof.Machine.execVcas ord vr xb imm vo fe fi mk s
  | .mand md ma mb => Sys2Proof.Machine.execMand md ma mb s
  | .mnand md ma mb => Sys2Proof.Machine.execMnand md ma mb s
  | .mandn md ma mb => Sys2Proof.Machine.execMandn md ma mb s
  | .mor md ma mb => Sys2Proof.Machine.execMor md ma mb s
  | .mnor md ma mb => Sys2Proof.Machine.execMnor md ma mb s
  | .morn md ma mb => Sys2Proof.Machine.execMorn md ma mb s
  | .mxor md ma mb => Sys2Proof.Machine.execMxor md ma mb s
  | .mxnor md ma mb => Sys2Proof.Machine.execMxnor md ma mb s
  | .mcount xd ms mk => Sys2Proof.Machine.execMcount xd ms mk s
  | .mfind xd ms mk => Sys2Proof.Machine.execMfind xd ms mk s
  | .mcutLt md ms mk => Sys2Proof.Machine.execMcutLt md ms mk s
  | .mcutLe md ms mk => Sys2Proof.Machine.execMcutLe md ms mk s
  | .mcutEq md ms mk => Sys2Proof.Machine.execMcutEq md ms mk s
  | .vrank vd ms mk => Sys2Proof.Machine.execVrank vd ms mk s
  | .vindex vd mk => Sys2Proof.Machine.execVindex vd mk s
  | .vadd vd vs1 b fd fa fb mk => Sys2Proof.Machine.execVadd vd vs1 b fd fa fb mk s
  | .vsub vd vs1 b fd fa fb mk => Sys2Proof.Machine.execVsub vd vs1 b fd fa fb mk s
  | .vrsub vd vs1 b fd fa fb mk => Sys2Proof.Machine.execVrsub vd vs1 b fd fa fb mk s
  | .vmul vd vs1 b fd fa fb mk => Sys2Proof.Machine.execVmul vd vs1 b fd fa fb mk s
  | .vmulh vd vs1 b fd fa fb mk => Sys2Proof.Machine.execVmulh vd vs1 b fd fa fb mk s
  | .vdiv vd vs1 b fd fa fb mk => Sys2Proof.Machine.execVdiv vd vs1 b fd fa fb mk s
  | .vrem vd vs1 b fd fa fb mk => Sys2Proof.Machine.execVrem vd vs1 b fd fa fb mk s
  | .vmacc vd vs1 b fd fa fb mk => Sys2Proof.Machine.execVmacc vd vs1 b fd fa fb mk s
  | .vabsd vd vs1 b fd fa fb mk => Sys2Proof.Machine.execVabsd vd vs1 b fd fa fb mk s
  | .vavg vd vs1 b fd fa fb mk rm => Sys2Proof.Machine.execVavg vd vs1 b fd fa fb mk rm s
  | .vand vd vs1 b fd fa fb mk => Sys2Proof.Machine.execVand vd vs1 b fd fa fb mk s
  | .vor vd vs1 b fd fa fb mk => Sys2Proof.Machine.execVor vd vs1 b fd fa fb mk s
  | .vxor vd vs1 b fd fa fb mk => Sys2Proof.Machine.execVxor vd vs1 b fd fa fb mk s
  | .vsll vd vs1 b fd fa fb mk => Sys2Proof.Machine.execVsll vd vs1 b fd fa fb mk s
  | .vsrl vd vs1 b fd fa fb mk => Sys2Proof.Machine.execVsrl vd vs1 b fd fa fb mk s
  | .vsra vd vs1 b fd fa fb mk => Sys2Proof.Machine.execVsra vd vs1 b fd fa fb mk s
  | .vfadd vd vs1 b fd fa fb mk rm => Sys2Proof.Machine.execVfadd vd vs1 b fd fa fb mk rm s
  | .vfsub vd vs1 b fd fa fb mk rm => Sys2Proof.Machine.execVfsub vd vs1 b fd fa fb mk rm s
  | .vfrsub vd vs1 b fd fa fb mk rm => Sys2Proof.Machine.execVfrsub vd vs1 b fd fa fb mk rm s
  | .vfmul vd vs1 b fd fa fb mk rm => Sys2Proof.Machine.execVfmul vd vs1 b fd fa fb mk rm s
  | .vfdiv vd vs1 b fd fa fb mk rm => Sys2Proof.Machine.execVfdiv vd vs1 b fd fa fb mk rm s
  | .vfrdiv vd vs1 b fd fa fb mk rm => Sys2Proof.Machine.execVfrdiv vd vs1 b fd fa fb mk rm s
  | .vfmacc vd vs1 b fd fa fb mk rm => Sys2Proof.Machine.execVfmacc vd vs1 b fd fa fb mk rm s
  | .vfnmacc vd vs1 b fd fa fb mk rm => Sys2Proof.Machine.execVfnmacc vd vs1 b fd fa fb mk rm s
  | .vfmsac vd vs1 b fd fa fb mk rm => Sys2Proof.Machine.execVfmsac vd vs1 b fd fa fb mk rm s
  | .vfnmsac vd vs1 b fd fa fb mk rm => Sys2Proof.Machine.execVfnmsac vd vs1 b fd fa fb mk rm s
  | .vfma vd vs1 b vs3 fd fa fb mk rm => Sys2Proof.Machine.execVfma vd vs1 b vs3 fd fa fb mk rm s
  | .vfsgnj vd vs1 b fd fa fb mk rm => Sys2Proof.Machine.execVfsgnj vd vs1 b fd fa fb mk rm s
  | .vfsgnjn vd vs1 b fd fa fb mk rm => Sys2Proof.Machine.execVfsgnjn vd vs1 b fd fa fb mk rm s
  | .vfsgnjx vd vs1 b fd fa fb mk rm => Sys2Proof.Machine.execVfsgnjx vd vs1 b fd fa fb mk rm s
  | .vfclass vd vs1 fd fa mk => Sys2Proof.Machine.execVfclass vd vs1 fd fa mk s
  | .vmin vd vs1 b fd fa fb mk rm => Sys2Proof.Machine.execVmin vd vs1 b fd fa fb mk rm s
  | .vmax vd vs1 b fd fa fb mk rm => Sys2Proof.Machine.execVmax vd vs1 b fd fa fb mk rm s
  | .vmeq md vs1 b fa fb mk => Sys2Proof.Machine.execVmeq md vs1 b fa fb mk s
  | .vmne md vs1 b fa fb mk => Sys2Proof.Machine.execVmne md vs1 b fa fb mk s
  | .vmlt md vs1 b fa fb mk => Sys2Proof.Machine.execVmlt md vs1 b fa fb mk s
  | .vmle md vs1 b fa fb mk => Sys2Proof.Machine.execVmle md vs1 b fa fb mk s
  | .vmgt md vs1 b fa fb mk => Sys2Proof.Machine.execVmgt md vs1 b fa fb mk s
  | .vmge md vs1 b fa fb mk => Sys2Proof.Machine.execVmge md vs1 b fa fb mk s
  | .vmerge vd vs1 b fd fa fb mk rm => Sys2Proof.Machine.execVmerge vd vs1 b fd fa fb mk rm s
  | .vsplat vd xs fd fb mk rm => Sys2Proof.Machine.execVsplat vd xs fd fb mk rm s
  | .vbfly vd vs1 vs2 fd fa fb mk rm sh => Sys2Proof.Machine.execVbfly vd vs1 vs2 fd fa fb mk rm sh s
  | .vcvt vd vs1 fd fa mk rm => Sys2Proof.Machine.execVcvt vd vs1 fd fa mk rm s
  | .vcvtbs vd vs1 vs3 fd fa mk rm ty => Sys2Proof.Machine.execVcvtbs vd vs1 vs3 fd fa mk rm ty s
  | .vcvtbd vd vs1 vs3 fd fa mk rm => Sys2Proof.Machine.execVcvtbd vd vs1 vs3 fd fa mk rm s
  | .vexp vd vs1 sub fd fa mk => Sys2Proof.Machine.execVexp vd vs1 sub fd fa mk s
  | .vexp2 vd vs1 sub fd fa mk => Sys2Proof.Machine.execVexp2 vd vs1 sub fd fa mk s
  | .vlog2 vd vs1 sub fd fa mk => Sys2Proof.Machine.execVlog2 vd vs1 sub fd fa mk s
  | .vrcp vd vs1 sub fd fa mk => Sys2Proof.Machine.execVrcp vd vs1 sub fd fa mk s
  | .vrsqrt vd vs1 sub fd fa mk => Sys2Proof.Machine.execVrsqrt vd vs1 sub fd fa mk s
  | .vsqrt vd vs1 sub fd fa mk => Sys2Proof.Machine.execVsqrt vd vs1 sub fd fa mk s
  | .vsin vd vs1 sub fd fa mk => Sys2Proof.Machine.execVsin vd vs1 sub fd fa mk s
  | .vcos vd vs1 sub fd fa mk => Sys2Proof.Machine.execVcos vd vs1 sub fd fa mk s
  | .vtanh vd vs1 sub fd fa mk => Sys2Proof.Machine.execVtanh vd vs1 sub fd fa mk s
  | .vsigmoid vd vs1 sub fd fa mk => Sys2Proof.Machine.execVsigmoid vd vs1 sub fd fa mk s
  | .verf vd vs1 sub fd fa mk => Sys2Proof.Machine.execVerf vd vs1 sub fd fa mk s
  | .vlift vd vs1 off fd mk => Sys2Proof.Machine.execVlift vd vs1 off fd mk s
  | .vdrop vd vs1 off fd mk => Sys2Proof.Machine.execVdrop vd vs1 off fd mk s
  | .vliftx vd vs1 xs fd mk => Sys2Proof.Machine.execVliftx vd vs1 xs fd mk s
  | .vdropx vd vs1 xs fd mk => Sys2Proof.Machine.execVdropx vd vs1 xs fd mk s
  | .vpick vd vs1 vs2 fd fb mk => Sys2Proof.Machine.execVpick vd vs1 vs2 fd fb mk s
  | .vpack vd vs1 fd mk => Sys2Proof.Machine.execVpack vd vs1 fd mk s
  | .vget xd vs1 fd => Sys2Proof.Machine.execVget xd vs1 fd s
  | .vplace vd xs fd => Sys2Proof.Machine.execVplace vd xs fd s
  | .vfredosum vd vs1 vs2 fd fa mk rm => Sys2Proof.Machine.execVfredosum vd vs1 vs2 fd fa mk rm s
  | .vfredusum vd vs1 vs2 fd fa mk rm => Sys2Proof.Machine.execVfredusum vd vs1 vs2 fd fa mk rm s
  | .vfredmax vd vs1 vs2 fd fa mk rm => Sys2Proof.Machine.execVfredmax vd vs1 vs2 fd fa mk rm s
  | .vfredmin vd vs1 vs2 fd fa mk rm => Sys2Proof.Machine.execVfredmin vd vs1 vs2 fd fa mk rm s
  | .vredsum vd vs1 vs2 fd fa mk rm => Sys2Proof.Machine.execVredsum vd vs1 vs2 fd fa mk rm s
  | .vappend xd vs1 xb fd mk => Sys2Proof.Machine.execVappend xd vs1 xb fd mk s
  | .amodeWs fa => Sys2Proof.Machine.execAmodeWs fa s
  | .amodeRs fa => Sys2Proof.Machine.execAmodeRs fa s
  | .vmode => Sys2Proof.Machine.execVmode s
  | .wld wt vs1 fa => Sys2Proof.Machine.execWld wt vs1 fa s
  | .wst vd wt => Sys2Proof.Machine.execWst vd wt s
  | .mrow vd vs1 wt sc fa fc mk => Sys2Proof.Machine.execMrow vd vs1 wt sc fa fc mk s
  | .mrowAcc vd vs1 wt sc fa fc mk => Sys2Proof.Machine.execMrowAcc vd vs1 wt sc fa fc mk s
  | .mslide vd vs1 wt fa fc mk => Sys2Proof.Machine.execMslide vd vs1 wt fa fc mk s
  | .mslideAcc vd vs1 wt fa fc mk => Sys2Proof.Machine.execMslideAcc vd vs1 wt fa fc mk s
  | .macc wt vs1 vs2 fa fb mk => Sys2Proof.Machine.execMacc wt vs1 vs2 fa fb mk s
  | .maccz wt vs1 vs2 fa fb mk => Sys2Proof.Machine.execMaccz wt vs1 vs2 fa fb mk s
  | .mdrain vd wt fc => Sys2Proof.Machine.execMdrain vd wt fc s
  | .achain len pos => Sys2Proof.Machine.execAchain len pos s
  | .aunchain => Sys2Proof.Machine.execAunchain s
  | .phase scp => Sys2Proof.Machine.execPhase scp s
  | .phaseRel scp => Sys2Proof.Machine.execPhaseRel scp s
  | .phaseAcq scp => Sys2Proof.Machine.execPhaseAcq scp s
  | .phaseL n => Sys2Proof.Machine.execPhaseL n s
  | .phaseRelL n => Sys2Proof.Machine.execPhaseRelL n s
  | .phaseAcqL n => Sys2Proof.Machine.execPhaseAcqL n s
  | .hpload xs => Sys2Proof.Machine.execHpload xs s
  | .hsig xd vs fe => Sys2Proof.Machine.execHsig xd vs fe s
  | .kst xd vs xp fe => Sys2Proof.Machine.execKst xd vs xp fe s
  | .bgath vd xq xn np => Sys2Proof.Machine.execBgath vd xq xn np s
  | .bgathDft vd xq xn np => Sys2Proof.Machine.execBgathDft vd xq xn np s
  | .bxlatK vd vp => Sys2Proof.Machine.execBxlatK vd vp s
  | .bxlatV vd vp => Sys2Proof.Machine.execBxlatV vd vp s
  | .respin xd xs1 xs2 => Sys2Proof.Machine.execRespin xd xs1 xs2 s
  | .resrel xd xs1 => Sys2Proof.Machine.execResrel xd xs1 s
  | .pgref xd xs1 => Sys2Proof.Machine.execPgref xd xs1 s
  | .pgunref xd xs1 xs2 => Sys2Proof.Machine.execPgunref xd xs1 xs2 s
  | .strm xs1 port => Sys2Proof.Machine.execStrm xs1 port s
  | .strmV xs1 vr vi => Sys2Proof.Machine.execStrmV xs1 vr vi s
  | .strmw port => Sys2Proof.Machine.execStrmw port s
  | .crwait xd xs1 xs2 => Sys2Proof.Machine.execCrwait xd xs1 xs2 s
  | .crpop xd xs1 => Sys2Proof.Machine.execCrpop xd xs1 s
  | .tmark n => Sys2Proof.Machine.execTmark n s
  | .tmarkNc n => Sys2Proof.Machine.execTmarkNc n s
  | .tmwait xd xs1 => Sys2Proof.Machine.execTmwait xd xs1 s
  | .tmwaive xs1 => Sys2Proof.Machine.execTmwaive xs1 s
  | .tmcnt xd xs1 => Sys2Proof.Machine.execTmcnt xd xs1 s
  | .barArrive xd n => Sys2Proof.Machine.execBarArrive xd n s
  | .barWait xs1 n => Sys2Proof.Machine.execBarWait xs1 n s
  | .barSync n => Sys2Proof.Machine.execBarSync n s
  | .mcast xs1 xs2 => Sys2Proof.Machine.execMcast xs1 xs2 s
  | .mrecv xd => Sys2Proof.Machine.execMrecv xd s
  | .yield_ => Sys2Proof.Machine.execYield s
  | .sleep xd xs1 => Sys2Proof.Machine.execSleep xd xs1 s
  | .modeChangeDone => Sys2Proof.Machine.execModeChangeDone s
  | .modeEnterDone h => Sys2Proof.Machine.execModeEnterDone h s
  | .arrayDrainDone h => Sys2Proof.Machine.execArrayDrainDone h s
  | .chainComplete h => Sys2Proof.Machine.execChainComplete h s
  | .releasePerform h => Sys2Proof.Machine.execReleasePerform h s
  | .acquireHoldEnd h => Sys2Proof.Machine.execAcquireHoldEnd h s
  | .respinFill ctx e first => Sys2Proof.Machine.execRespinFill ctx e first s
  | .streamStart ctx flat port n => Sys2Proof.Machine.execStreamStart ctx flat port n s
  | .recordAppend ctx flat port => Sys2Proof.Machine.execRecordAppend ctx flat port s
  | .uiDelivery h => Sys2Proof.Machine.execUiDelivery h s
  | .waitWake h => Sys2Proof.Machine.execWaitWake h s
  | .timetableRead launch die => Sys2Proof.Machine.execTimetableRead launch die s
  | .millraceActionStart launch die => Sys2Proof.Machine.execMillraceActionStart launch die s
  | .actionSettle launch die entry => Sys2Proof.Machine.execActionSettle launch die entry s
  | .barrierGenEnd launch level inst => Sys2Proof.Machine.execBarrierGenEnd launch level inst s
  | .mcastAppend h => Sys2Proof.Machine.execMcastAppend h s
  | .packageReset => Sys2Proof.Machine.execPackageReset s
  | .launchTake dev q => Sys2Proof.Machine.execLaunchTake dev q s
  | .dependenceFail launch => Sys2Proof.Machine.execDependenceFail launch s
  | .placementRound dev => Sys2Proof.Machine.execPlacementRound dev s
  | .yieldDeadline launch ginst => Sys2Proof.Machine.execYieldDeadline launch ginst s
  | .shadowSwitch h => Sys2Proof.Machine.execShadowSwitch h s
  | .spillRegDone h reg => Sys2Proof.Machine.execSpillRegDone h reg s
  | .imageWriteback h => Sys2Proof.Machine.execImageWriteback h s
  | .restore h die core hnum => Sys2Proof.Machine.execRestore h die core hnum s
  | .hartEnd h => Sys2Proof.Machine.execHartEnd h s
  | .launchComplete launch => Sys2Proof.Machine.execLaunchComplete launch s
  | .lineRefetch h => Sys2Proof.Machine.execLineRefetch h s
  | .fetchPathRefetch h line why => Sys2Proof.Machine.execFetchPathRefetch h line why s
  | .convoyStart h => Sys2Proof.Machine.execConvoyStart h s
  | .pageWalk walker core ctx va => Sys2Proof.Machine.execPageWalk walker core ctx va s
  | .tileRelease ctx handle => Sys2Proof.Machine.execTileRelease ctx handle s
  | .eventRecordClose src => Sys2Proof.Machine.execEventRecordClose src s
  | .fatalReset => Sys2Proof.Machine.execFatalReset s
  | .quiesceDone ctx => Sys2Proof.Machine.execQuiesceDone ctx s
  | .quiesceOverrun ctx => Sys2Proof.Machine.execQuiesceOverrun ctx s
  | .signatureCompare h => Sys2Proof.Machine.execSignatureCompare h s
  | .divergenceTimeout h => Sys2Proof.Machine.execDivergenceTimeout h s
  | .structTestStart die core kind bank => Sys2Proof.Machine.execStructTestStart die core kind bank s
  | .structTestDone die core res => Sys2Proof.Machine.execStructTestDone die core res s
  | .structTestOverdue die core kind => Sys2Proof.Machine.execStructTestOverdue die core kind s
  | .weirStep die clus => Sys2Proof.Machine.execWeirStep die clus s
  | .coreArrayIdle die core => Sys2Proof.Machine.execCoreArrayIdle die core s
  | .budgetRecompute => Sys2Proof.Machine.execBudgetRecompute s
  | .drawOverBudget => Sys2Proof.Machine.execDrawOverBudget s
  | .budgetHalvingEnd => Sys2Proof.Machine.execBudgetHalvingEnd s
  | .slewViolation die clus => Sys2Proof.Machine.execSlewViolation die clus s
  | .slewLimitEnd die clus => Sys2Proof.Machine.execSlewLimitEnd die clus s
  | .undervoltage => Sys2Proof.Machine.execUndervoltage s
  | .watchdogStage1 h => Sys2Proof.Machine.execWatchdogStage1 h s
  | .watchdogStage2 h => Sys2Proof.Machine.execWatchdogStage2 h s
  | .saveTimeout h => Sys2Proof.Machine.execSaveTimeout h s
  | .hbmPerBankRefresh stack ch bank postpone => Sys2Proof.Machine.execHbmPerBankRefresh stack ch bank postpone s
  | .hbmAllBankRefresh stack ch => Sys2Proof.Machine.execHbmAllBankRefresh stack ch s
  | .activationAlert stack ch bank => Sys2Proof.Machine.execActivationAlert stack ch bank s
  | .patrolRead store granule res => Sys2Proof.Machine.execPatrolRead store granule res s
  | .hbmChannelLost stack ch => Sys2Proof.Machine.execHbmChannelLost stack ch s
  | .linkCrcFail die edge => Sys2Proof.Machine.execLinkCrcFail die edge s
  | .laneBad die edge lane => Sys2Proof.Machine.execLaneBad die edge lane s
  | .laneRepair die edge => Sys2Proof.Machine.execLaneRepair die edge s
  | .clockLower die => Sys2Proof.Machine.execClockLower die s
  | .clockRaise die => Sys2Proof.Machine.execClockRaise die s
  | .clockPauseStart die => Sys2Proof.Machine.execClockPauseStart die s
  | .clockPauseEnd die => Sys2Proof.Machine.execClockPauseEnd die s
  | .portLinkDown port => Sys2Proof.Machine.execPortLinkDown port s
  | .portLinkUp port => Sys2Proof.Machine.execPortLinkUp port s
  | .pktRead p => Sys2Proof.Machine.execPktRead p s
  | .pktReadRsp p => Sys2Proof.Machine.execPktReadRsp p s
  | .pktWrite p => Sys2Proof.Machine.execPktWrite p s
  | .pktQappend p => Sys2Proof.Machine.execPktQappend p s
  | .pktAtomic p => Sys2Proof.Machine.execPktAtomic p s
  | .pktAck p => Sys2Proof.Machine.execPktAck p s
  | .pktCnp p => Sys2Proof.Machine.execPktCnp p s
  | .pktCmd p => Sys2Proof.Machine.execPktCmd p s
  | .pktNak p => Sys2Proof.Machine.execPktNak p s
  | .packetDiscard p => Sys2Proof.Machine.execPacketDiscard p s
  | .ackTimer port path => Sys2Proof.Machine.execAckTimer port path s
  | .retxTimeout port path => Sys2Proof.Machine.execRetxTimeout port path s
  | .pathFail port path => Sys2Proof.Machine.execPathFail port path s
  | .cnpRateRecover port path => Sys2Proof.Machine.execCnpRateRecover port path s
  | .convoyComplete h => Sys2Proof.Machine.execConvoyComplete h s

end Sys2Proof.Machine
end

