-- ==== Sys2Proof/Machine/RegUse.lean ====
section
/-! DEFINITION. The vector, mask and tile registers an instruction reads and writes, and the scoreboards that hold it
back (R53, R54, R323). -/

namespace Sys2Proof.Machine

/-- A use of vector, mask or tile registers: of `n` register groups, of one mask register or of one tile register. -/
inductive RegOp where
  | rv (v : VReg) (n : Nat)
  | wv (v : VReg) (n : Nat)
  | rm (m : MReg)
  | wm (m : MReg)
  | rt (t : TReg)
  | wt (t : TReg)
  /-- The pair of tile registers that holds result-stationary accumulators (R263). -/
  | pair (t : TReg)
  /-- The second group of a `vbfly` or a `vcas`: VR + G (R220, R237). -/
  | rnext (v : VReg)
  | wnext (v : VReg)
  /-- One register of scales (R94), read or written. -/
  | rone (v : VReg)
  | wone (v : VReg)
  /-- The scale registers of a scaled row form (R259). -/
  | scales (q : Option RowScale)
  /-- A second operand, a register group or an immediate. -/
  | src (b : VSrc)
  | opt (v : Option VReg)
  /-- m7, when FXM names classes for it (R71). -/
  | flags

/-- The register uses of an instruction. -/
def regOps (i : Instr) : List RegOp :=
  match i with
  | .vld vr _ _ _ nf mk => [.wv vr (nf.val + 1), .rm mk]
  | .vlds vr _ _ _ _ nf mk => [.wv vr (nf.val + 1), .rm mk]
  | .vldx vr _ _ vo _ _ nf mk => [.wv vr (nf.val + 1), .rv vo 1, .rm mk]
  | .vldux vr _ _ vo _ _ nf mk => [.wv vr (nf.val + 1), .rv vo 1, .rm mk]
  | .vldff vr _ _ _ nf mk => [.wv vr (nf.val + 1), .rm mk]
  | .vlm md _ _ => [.wm md]
  | .vst vr _ _ _ nf mk => [.rv vr (nf.val + 1), .rm mk]
  | .vsts vr _ _ _ _ nf mk => [.rv vr (nf.val + 1), .rm mk]
  | .vstx vr _ _ vo _ _ nf mk => [.rv vr (nf.val + 1), .rv vo 1, .rm mk]
  | .vstux vr _ _ vo _ _ nf mk => [.rv vr (nf.val + 1), .rv vo 1, .rm mk]
  | .vsm ms _ _ => [.rm ms]
  | .vamoswap _ vr _ _ vo _ _ mk => [.rv vr 1, .wv vr 1, .rv vo 1, .rm mk]
  | .vamoadd _ vr _ _ vo _ _ mk => [.rv vr 1, .wv vr 1, .rv vo 1, .rm mk]
  | .vamoand _ vr _ _ vo _ _ mk => [.rv vr 1, .wv vr 1, .rv vo 1, .rm mk]
  | .vamoor _ vr _ _ vo _ _ mk => [.rv vr 1, .wv vr 1, .rv vo 1, .rm mk]
  | .vamoxor _ vr _ _ vo _ _ mk => [.rv vr 1, .wv vr 1, .rv vo 1, .rm mk]
  | .vamomin _ vr _ _ vo _ _ mk => [.rv vr 1, .wv vr 1, .rv vo 1, .rm mk]
  | .vamomax _ vr _ _ vo _ _ mk => [.rv vr 1, .wv vr 1, .rv vo 1, .rm mk]
  | .vamominu _ vr _ _ vo _ _ mk => [.rv vr 1, .wv vr 1, .rv vo 1, .rm mk]
  | .vamomaxu _ vr _ _ vo _ _ mk => [.rv vr 1, .wv vr 1, .rv vo 1, .rm mk]
  | .vamofadd _ vr _ _ vo _ _ mk => [.rv vr 1, .wv vr 1, .rv vo 1, .rm mk, .flags]
  | .vcas _ vr _ _ vo _ _ mk => [.rv vr 1, .rnext vr, .wv vr 1, .rv vo 1, .rm mk]
  | .mand md ma mb => [.wm md, .rm ma, .rm mb]
  | .mnand md ma mb => [.wm md, .rm ma, .rm mb]
  | .mandn md ma mb => [.wm md, .rm ma, .rm mb]
  | .mor md ma mb => [.wm md, .rm ma, .rm mb]
  | .mnor md ma mb => [.wm md, .rm ma, .rm mb]
  | .morn md ma mb => [.wm md, .rm ma, .rm mb]
  | .mxor md ma mb => [.wm md, .rm ma, .rm mb]
  | .mxnor md ma mb => [.wm md, .rm ma, .rm mb]
  | .mcount _ ms mk => [.rm ms, .rm mk]
  | .mfind _ ms mk => [.rm ms, .rm mk]
  | .mcutLt md ms mk => [.wm md, .rm ms, .rm mk]
  | .mcutLe md ms mk => [.wm md, .rm ms, .rm mk]
  | .mcutEq md ms mk => [.wm md, .rm ms, .rm mk]
  | .vrank vd ms mk => [.wv vd 1, .rm ms, .rm mk]
  | .vindex vd mk => [.wv vd 1, .rm mk]
  | .vadd vd vs1 b _ _ _ mk => [.wv vd 1, .rv vs1 1, .src b, .rm mk, .flags]
  | .vsub vd vs1 b _ _ _ mk => [.wv vd 1, .rv vs1 1, .src b, .rm mk, .flags]
  | .vrsub vd vs1 b _ _ _ mk => [.wv vd 1, .rv vs1 1, .src b, .rm mk, .flags]
  | .vmul vd vs1 b _ _ _ mk => [.wv vd 1, .rv vs1 1, .src b, .rm mk, .flags]
  | .vmulh vd vs1 b _ _ _ mk => [.wv vd 1, .rv vs1 1, .src b, .rm mk, .flags]
  | .vdiv vd vs1 b _ _ _ mk => [.wv vd 1, .rv vs1 1, .src b, .rm mk, .flags]
  | .vrem vd vs1 b _ _ _ mk => [.wv vd 1, .rv vs1 1, .src b, .rm mk, .flags]
  | .vmacc vd vs1 b _ _ _ mk => [.wv vd 1, .rv vd 1, .rv vs1 1, .src b, .rm mk, .flags]
  | .vabsd vd vs1 b _ _ _ mk => [.wv vd 1, .rv vs1 1, .src b, .rm mk, .flags]
  | .vavg vd vs1 b _ _ _ mk _ => [.wv vd 1, .rv vs1 1, .src b, .rm mk, .flags]
  | .vand vd vs1 b _ _ _ mk => [.wv vd 1, .rv vs1 1, .src b, .rm mk, .flags]
  | .vor vd vs1 b _ _ _ mk => [.wv vd 1, .rv vs1 1, .src b, .rm mk, .flags]
  | .vxor vd vs1 b _ _ _ mk => [.wv vd 1, .rv vs1 1, .src b, .rm mk, .flags]
  | .vsll vd vs1 b _ _ _ mk => [.wv vd 1, .rv vs1 1, .src b, .rm mk, .flags]
  | .vsrl vd vs1 b _ _ _ mk => [.wv vd 1, .rv vs1 1, .src b, .rm mk, .flags]
  | .vsra vd vs1 b _ _ _ mk => [.wv vd 1, .rv vs1 1, .src b, .rm mk, .flags]
  | .vfadd vd vs1 b _ _ _ mk _ => [.wv vd 1, .rv vs1 1, .src b, .rm mk, .flags]
  | .vfsub vd vs1 b _ _ _ mk _ => [.wv vd 1, .rv vs1 1, .src b, .rm mk, .flags]
  | .vfrsub vd vs1 b _ _ _ mk _ => [.wv vd 1, .rv vs1 1, .src b, .rm mk, .flags]
  | .vfmul vd vs1 b _ _ _ mk _ => [.wv vd 1, .rv vs1 1, .src b, .rm mk, .flags]
  | .vfdiv vd vs1 b _ _ _ mk _ => [.wv vd 1, .rv vs1 1, .src b, .rm mk, .flags]
  | .vfrdiv vd vs1 b _ _ _ mk _ => [.wv vd 1, .rv vs1 1, .src b, .rm mk, .flags]
  | .vfmacc vd vs1 b _ _ _ mk _ => [.wv vd 1, .rv vd 1, .rv vs1 1, .src b, .rm mk, .flags]
  | .vfnmacc vd vs1 b _ _ _ mk _ => [.wv vd 1, .rv vd 1, .rv vs1 1, .src b, .rm mk, .flags]
  | .vfmsac vd vs1 b _ _ _ mk _ => [.wv vd 1, .rv vd 1, .rv vs1 1, .src b, .rm mk, .flags]
  | .vfnmsac vd vs1 b _ _ _ mk _ => [.wv vd 1, .rv vd 1, .rv vs1 1, .src b, .rm mk, .flags]
  | .vfma vd vs1 b vs3 _ _ _ mk _ => [.wv vd 1, .rv vs1 1, .src b, .rv vs3 1, .rm mk, .flags]
  | .vfsgnj vd vs1 b _ _ _ mk _ => [.wv vd 1, .rv vs1 1, .src b, .rm mk, .flags]
  | .vfsgnjn vd vs1 b _ _ _ mk _ => [.wv vd 1, .rv vs1 1, .src b, .rm mk, .flags]
  | .vfsgnjx vd vs1 b _ _ _ mk _ => [.wv vd 1, .rv vs1 1, .src b, .rm mk, .flags]
  | .vfclass vd vs1 _ _ mk => [.wv vd 1, .rv vs1 1, .rm mk, .flags]
  | .vmin vd vs1 b _ _ _ mk _ => [.wv vd 1, .rv vs1 1, .src b, .rm mk, .flags]
  | .vmax vd vs1 b _ _ _ mk _ => [.wv vd 1, .rv vs1 1, .src b, .rm mk, .flags]
  | .vmeq md vs1 b _ _ mk => [.wm md, .rv vs1 1, .src b, .rm mk, .flags]
  | .vmne md vs1 b _ _ mk => [.wm md, .rv vs1 1, .src b, .rm mk, .flags]
  | .vmlt md vs1 b _ _ mk => [.wm md, .rv vs1 1, .src b, .rm mk, .flags]
  | .vmle md vs1 b _ _ mk => [.wm md, .rv vs1 1, .src b, .rm mk, .flags]
  | .vmgt md vs1 b _ _ mk => [.wm md, .rv vs1 1, .src b, .rm mk, .flags]
  | .vmge md vs1 b _ _ mk => [.wm md, .rv vs1 1, .src b, .rm mk, .flags]
  | .vmerge vd vs1 b _ _ _ mk _ => [.wv vd 1, .rv vs1 1, .src b, .rm mk, .flags]
  | .vsplat vd _ _ _ mk _ => [.wv vd 1, .rm mk, .flags]
  | .vbfly vd vs1 vs2 _ _ _ mk _ _ => [.wv vd 1, .wnext vd, .rv vs1 1, .rv vs2 1, .rm mk, .flags]
  | .vcvt vd vs1 _ _ mk _ => [.wv vd 1, .rv vs1 1, .rm mk, .flags]
  | .vcvtbs vd vs1 vs3 _ _ mk _ _ => [.wv vd 1, .rv vs1 1, .wone vs3, .rm mk, .flags]
  | .vcvtbd vd vs1 vs3 _ _ mk _ => [.wv vd 1, .rv vs1 1, .rone vs3, .rm mk, .flags]
  | .vexp vd vs1 _ _ _ mk => [.wv vd 1, .rv vs1 1, .rm mk, .flags]
  | .vexp2 vd vs1 _ _ _ mk => [.wv vd 1, .rv vs1 1, .rm mk, .flags]
  | .vlog2 vd vs1 _ _ _ mk => [.wv vd 1, .rv vs1 1, .rm mk, .flags]
  | .vrcp vd vs1 _ _ _ mk => [.wv vd 1, .rv vs1 1, .rm mk, .flags]
  | .vrsqrt vd vs1 _ _ _ mk => [.wv vd 1, .rv vs1 1, .rm mk, .flags]
  | .vsqrt vd vs1 _ _ _ mk => [.wv vd 1, .rv vs1 1, .rm mk, .flags]
  | .vsin vd vs1 _ _ _ mk => [.wv vd 1, .rv vs1 1, .rm mk, .flags]
  | .vcos vd vs1 _ _ _ mk => [.wv vd 1, .rv vs1 1, .rm mk, .flags]
  | .vtanh vd vs1 _ _ _ mk => [.wv vd 1, .rv vs1 1, .rm mk, .flags]
  | .vsigmoid vd vs1 _ _ _ mk => [.wv vd 1, .rv vs1 1, .rm mk, .flags]
  | .verf vd vs1 _ _ _ mk => [.wv vd 1, .rv vs1 1, .rm mk, .flags]
  | .vlift vd vs1 _ _ mk => [.wv vd 1, .rv vs1 1, .rm mk, .flags]
  | .vdrop vd vs1 _ _ mk => [.wv vd 1, .rv vs1 1, .rm mk, .flags]
  | .vliftx vd vs1 _ _ mk => [.wv vd 1, .rv vs1 1, .rm mk, .flags]
  | .vdropx vd vs1 _ _ mk => [.wv vd 1, .rv vs1 1, .rm mk, .flags]
  | .vpick vd vs1 vs2 _ _ mk => [.wv vd 1, .rv vs1 1, .rv vs2 1, .rm mk, .flags]
  | .vpack vd vs1 _ mk => [.wv vd 1, .rv vs1 1, .rm mk, .flags]
  | .vget _ vs1 _ => [.rv vs1 1, .flags]
  | .vplace vd _ _ => [.wv vd 1, .flags]
  | .vfredosum vd vs1 vs2 _ _ mk _ => [.wv vd 1, .rv vs1 1, .rv vs2 1, .rm mk, .flags]
  | .vfredusum vd vs1 vs2 _ _ mk _ => [.wv vd 1, .rv vs1 1, .rv vs2 1, .rm mk, .flags]
  | .vfredmax vd vs1 vs2 _ _ mk _ => [.wv vd 1, .rv vs1 1, .rv vs2 1, .rm mk, .flags]
  | .vfredmin vd vs1 vs2 _ _ mk _ => [.wv vd 1, .rv vs1 1, .rv vs2 1, .rm mk, .flags]
  | .vredsum vd vs1 vs2 _ _ mk _ => [.wv vd 1, .rv vs1 1, .rv vs2 1, .rm mk, .flags]
  | .vappend _ vs1 _ _ mk => [.rv vs1 1, .rm mk, .flags]
  | .wld wt vs1 _ => [.wt wt, .rv vs1 1]
  | .wst vd wt => [.wv vd 1, .rt wt]
  | .mrow vd vs1 wt sc _ _ mk => [.wv vd 1, .rv vs1 1, .rt wt, .scales sc, .rm mk, .flags]
  | .mrowAcc vd vs1 wt sc _ _ mk => [.wv vd 1, .rv vd 1, .rv vs1 1, .rt wt, .scales sc, .rm mk, .flags]
  | .mslide vd vs1 wt _ _ mk => [.wv vd 1, .rv vs1 1, .rt wt, .rm mk, .flags]
  | .mslideAcc vd vs1 wt _ _ mk => [.wv vd 1, .rv vd 1, .rv vs1 1, .rt wt, .rm mk, .flags]
  | .macc wt vs1 vs2 _ _ mk => [.pair wt, .rv vs1 1, .rv vs2 1, .rm mk, .flags]
  | .maccz wt vs1 vs2 _ _ mk => [.pair wt, .rv vs1 1, .rv vs2 1, .rm mk, .flags]
  | .mdrain vd wt _ => [.wv vd 1, .pair wt]
  | .hsig _ vs _ => [.rv vs 1]
  | .kst _ vs _ _ => [.rv vs 1]
  | .bgath vd _ _ _ => [.wv vd 1]
  | .bgathDft vd _ _ _ => [.wv vd 1]
  | .bxlatK vd vp => [.wv vd 1, .rv vp 1]
  | .bxlatV vd vp => [.wv vd 1, .rv vp 1]
  | .strmV _ _ vi => [.opt vi]
  | _ => []

/-- The registers of a use by their place in the order of R53: v0 to v63 are 0 to 63, m0 to m7 are 64 to 71, w0 to w3 are
72 to 75. The flag tells a write. -/
def opRegs (h : Hart) : RegOp → List (Bool × Nat)
  | .rv v n => (List.range (grp h * n)).map (fun k => (false, v.val + k))
  | .wv v n => (List.range (grp h * n)).map (fun k => (true, v.val + k))
  | .rm m => [(false, 64 + m.val)]
  | .wm m => [(true, 64 + m.val)]
  | .rt t => [(false, 72 + t.val)]
  | .wt t => [(true, 72 + t.val)]
  | .pair t => [(false, 72 + pairOf t), (true, 72 + pairOf t), (false, 73 + pairOf t), (true, 73 + pairOf t)]
  | .rnext v => (List.range (grp h)).map (fun k => (false, v.val + grp h + k))
  | .wnext v => (List.range (grp h)).map (fun k => (true, v.val + grp h + k))
  | .rone v => [(false, v.val)]
  | .wone v => [(true, v.val)]
  | .scales none => []
  | .scales (some q) => [(false, q.stream.val), (false, q.stat.val)]
  | .src (.vec v) => (List.range (grp h)).map (fun k => (false, v.val + k))
  | .src _ => []
  | .opt none => []
  | .opt (some v) => (List.range (grp h)).map (fun k => (false, v.val + k))
  | .flags => if h.vc.fxm.sel = 0 then [] else [(true, 71)]

/-- The registers that the instruction reads (false) and writes (true). -/
def regUse (h : Hart) (i : Instr) : List (Bool × Nat) := (regOps i).flatMap (opRegs h)

/-- The data groups of the command that a `strm.v` would issue (R322), which its descriptor in memory names. -/
def strmUse (s : State) (i : Instr) : List (Bool × Nat) :=
  match i with
  | .strmV xs1 vr _ => match globalCheck s s.hart (s.x xs1) 128 .read with
    | .fault _ => []
    | .ok a =>
      let d := leNat (if a.dev then homeBytes s a.key a.loc 128 else viewBytes s s.hart a.key a.loc 128)
      (List.range ((cNf d + 1) * grp s.hart)).map (fun k => (!cDir d, vr.val + k))
  | _ => []

/-- The instruction stalls: a register it uses has not arrived (R53), or stands in a data group of an unfinished command of
the vector port; a command with DIR = 1 holds back writes only (R323). DEDUCED (log 68). -/
def regsBusy (s : State) (i : Instr) : Bool :=
  let h := s.hart
  let cs := vportCmds s h
  (regUse h i ++ strmUse s i).any (fun u =>
    !h.st.valid.getLsbD u.2
    || cs.any (fun c => decide (c.vr ≤ u.2) && decide (u.2 < c.vr + (cNf c.desc.toNat + 1) * c.g) && decide (u.2 < 64)
        && (u.1 || !cDir c.desc.toNat)))

end Sys2Proof.Machine
end

