-- ==== Sys2Proof/Machine/Twins.lean ====
section
/-! DEFINITION. Redundant pairs: what a pair does once, the comparison point, and what the partner takes over (R291, R314,
R406, R458 to R462). -/

namespace Sys2Proof.Machine

/-! ### Requests -/

/-- The scalar operands of a request that reaches beyond the pair (R461). -/
def requestRegs (i : Instr) : List XReg :=
  match i with
  | .talloc _ xs1 => [xs1]
  | .tfree _ xs1 => [xs1]
  | .ldb _ xs1 xs2 _ => [xs1, xs2]
  | .ldbu _ xs1 xs2 _ => [xs1, xs2]
  | .ldh _ xs1 xs2 _ => [xs1, xs2]
  | .ldhu _ xs1 xs2 _ => [xs1, xs2]
  | .ldw _ xs1 xs2 _ => [xs1, xs2]
  | .ldwu _ xs1 xs2 _ => [xs1, xs2]
  | .ldd _ xs1 xs2 _ => [xs1, xs2]
  | .ldp _ xs1 xs2 _ => [xs1, xs2]
  | .stb xs3 xs1 xs2 _ => [xs3, xs1, xs2]
  | .sth xs3 xs1 xs2 _ => [xs3, xs1, xs2]
  | .stw xs3 xs1 xs2 _ => [xs3, xs1, xs2]
  | .std xs3 xs1 xs2 _ => [xs3, xs1, xs2]
  | .stp xs3 xs1 xs2 _ => [xs3, oddOf xs3, xs1, xs2]
  | .amoswap _ _ xs2 xs1 _ => [xs2, xs1]
  | .amoadd _ _ xs2 xs1 _ => [xs2, xs1]
  | .amoand _ _ xs2 xs1 _ => [xs2, xs1]
  | .amoor _ _ xs2 xs1 _ => [xs2, xs1]
  | .amoxor _ _ xs2 xs1 _ => [xs2, xs1]
  | .amomin _ _ xs2 xs1 _ => [xs2, xs1]
  | .amomax _ _ xs2 xs1 _ => [xs2, xs1]
  | .amominu _ _ xs2 xs1 _ => [xs2, xs1]
  | .amomaxu _ _ xs2 xs1 _ => [xs2, xs1]
  | .casW xd xs2 xs3 xs1 _ => [xd, xs2, xs3, xs1]
  | .casD xd xs2 xs3 xs1 _ => [xd, xs2, xs3, xs1]
  | .casQ xd xs2 xs3 xs1 _ => [xd, oddOf xd, xs2, oddOf xs2, xs3, oddOf xs3, xs1]
  | .vlcapWrite xs1 => [xs1]
  | .dmodeWrite xs1 => [xs1]
  | .keyset _ xs1 xs2 => [xs1, xs2]
  | .keydel _ xs1 => [xs1]
  | .ctxnew _ xs1 => [xs1]
  | .ctxkill _ xs1 => [xs1]
  | .qbind _ xs1 xs2 => [xs1, xs2]
  | .qunbind _ xs1 xs2 => [xs1, xs2]
  | .qpause _ xs1 xs2 => [xs1, xs2]
  | .qresume _ xs1 xs2 => [xs1, xs2]
  | .qappend _ xs1 xs2 => [xs1, xs2]
  | .scrub _ xs1 xs2 => [xs1, xs2]
  | .vsetre _ xs1 xs2 _ => [xs1, xs2]
  | .vld _ xb _ _ _ _ => [xb]
  | .vlds _ xb _ xo _ _ _ => [xb, xo]
  | .vldx _ xb _ _ _ _ _ _ => [xb]
  | .vldux _ xb _ _ _ _ _ _ => [xb]
  | .vldff _ xb _ _ _ _ => [xb]
  | .vlm _ xb _ => [xb]
  | .vst _ xb _ _ _ _ => [xb]
  | .vsts _ xb _ xo _ _ _ => [xb, xo]
  | .vstx _ xb _ _ _ _ _ _ => [xb]
  | .vstux _ xb _ _ _ _ _ _ => [xb]
  | .vsm _ xb _ => [xb]
  | .vamoswap _ _ xb _ _ _ _ _ => [xb]
  | .vamoadd _ _ xb _ _ _ _ _ => [xb]
  | .vamoand _ _ xb _ _ _ _ _ => [xb]
  | .vamoor _ _ xb _ _ _ _ _ => [xb]
  | .vamoxor _ _ xb _ _ _ _ _ => [xb]
  | .vamomin _ _ xb _ _ _ _ _ => [xb]
  | .vamomax _ _ xb _ _ _ _ _ => [xb]
  | .vamominu _ _ xb _ _ _ _ _ => [xb]
  | .vamomaxu _ _ xb _ _ _ _ _ => [xb]
  | .vamofadd _ _ xb _ _ _ _ _ => [xb]
  | .vcas _ _ xb _ _ _ _ _ => [xb]
  | .vappend _ _ xb _ _ => [xb]
  | .hpload xs => [xs]
  | .kst _ _ xp _ => [xp]
  | .bgath _ xq xn _ => [xq, xn]
  | .bgathDft _ xq xn _ => [xq, xn]
  | .respin _ xs1 xs2 => [xs1, xs2]
  | .resrel _ xs1 => [xs1]
  | .pgref _ xs1 => [xs1]
  | .pgunref _ xs1 xs2 => [xs1, xs2]
  | .strm xs1 _ => [xs1]
  | .strmV xs1 _ _ => [xs1]
  | .crwait _ xs1 xs2 => [xs1, xs2]
  | .crpop _ xs1 => [xs1]
  | .tmwait _ xs1 => [xs1]
  | .tmwaive xs1 => [xs1]
  | .tmcnt _ xs1 => [xs1]
  | .barWait xs1 _ => [xs1]
  | .mcast xs1 xs2 => [xs1, xs2]
  | .sleep _ xs1 => [xs1]
  | _ => []

/-- What a `kst` of a hart would write: the signature, the ID and the key bytes (R314). -/
def keyWrites (h : Hart) (i : Instr) : List Nat :=
  match i with
  | .kst _ vs xp fe =>
    let d := headOf h
    [signature (sigSums h d (headElems h vs fe d)), (getX h xp).toNat + 1, leNat (keyBytes h vs (fmt h fe).n d.dk)]
  | _ => []

/-- What the pair compares at its comparison point: the code address, the scalar operands, the vector registers read and
the writes of a `kst`. DESIGN CHOICE (log 15). -/
def requestKey (h : Hart) (is : List Instr) : List Nat :=
  h.pc.toNat :: is.flatMap (fun i =>
    (requestRegs i).map (fun r => (getX h r).toNat) ++ keyWrites h i
    ++ ((regUse h i).filter (fun u => !u.1)).map (fun u => (h.vf.v.toList.getD u.2 0).toNat))

/-- Instructions that the pair performs once whatever they do to memory (R458, R461), the controls of major 0xD3 among
them. -/
def onceKind (i : Instr) : Bool :=
  match i with
  | .talloc _ _ | .tfree _ _ | .respin _ _ _ | .resrel _ _ | .strm _ _ | .strmV _ _ _ | .strmw _ | .tmark _ | .tmarkNc _
  | .tmwait _ _ | .tmwaive _ | .tmcnt _ _ | .crwait _ _ _ | .crpop _ _ | .mrecv _ | .sleep _ _ | .yield_
  | .keyset _ _ _ | .keydel _ _ | .ctxnew _ _ | .ctxkill _ _ | .qbind _ _ _ | .qunbind _ _ _ | .qpause _ _ _
  | .qresume _ _ _ | .qappend _ _ _ | .scrub _ _ _ | .dmodeWrite _ | .vlcapWrite _ => true
  | .sget _ num => num == 0x009 || num == 0x00B
  | _ => false

/-! ### What the partner takes over -/

/-- The new value where the action changed it, else the partner's own. -/
def adopt {α : Type} [DecidableEq α] (o n m : α) : α := if o = n then m else n

def adoptV {α : Type} [DecidableEq α] {k : Nat} (o n m : Vector α k) : Vector α k :=
  Vector.ofFn (fun i : Fin k => adopt o[i] n[i] m[i])

def adoptBits {w : Nat} (o n m : BitVec w) : BitVec w :=
  let d := o ^^^ n
  (m &&& ~~~d) ||| (n &&& d)

/-- The partner's scalars. -/
def adoptScalars (o n m : Scalars) : Scalars :=
  { x := adoptV o.x n.x m.x, xb := adoptV o.xb n.xb m.xb, px := adoptBits o.px n.px m.px, pxb := adoptBits o.pxb n.pxb m.pxb }

/-- The partner's vector, mask and tile files. -/
def adoptVFile (o n m : VFile) : VFile :=
  { v := adoptV o.v n.v m.v, m := adoptV o.m n.m m.m, w := adoptV o.w n.w m.w, td := adoptV o.td n.td m.td,
    pv := adoptV o.pv n.pv m.pv, pm := adoptV o.pm n.pm m.pm, pw := adoptV o.pw n.pw m.pw, fw := adoptV o.fw n.fw m.fw }

/-- The partner's control registers. -/
def adoptVCtl (o n m : VCtl) : VCtl :=
  { vl := adopt o.vl n.vl m.vl, vtype := adopt o.vtype n.vtype m.vtype, vmt := adopt o.vmt n.vmt m.vmt,
    ves := adopt o.ves n.ves m.ves, mode := adopt o.mode n.mode m.mode, ashape := adopt o.ashape n.ashape m.ashape,
    fxm := adopt o.fxm n.fxm m.fxm, sfth := adopt o.sfth n.sfth m.sfth, rseed := adopt o.rseed n.rseed m.rseed,
    ft := adoptV o.ft n.ft m.ft }

/-- The partner's writes: those the action added, and its own ones at the bytes that the action performed. A snapshot of
the pair ends the overlay of performed writes as it ends that of the visible hart (R280, R291). -/
def adoptOwn (o n m : Hart) : List OwnByte :=
  let old := o.own.map (·.wid)
  let added := n.own.filter (fun w => !old.contains w.wid)
  let now := (n.own.filter (fun w => w.done && o.own.any (fun x => x.wid == w.wid && !x.done))).map (·.loc)
  let own := m.own.map (fun w => if now.contains w.loc then { w with done := true } else w)
  added ++ (if o.acqAt = n.acqAt then own else own.map (fun w =>
    { w with ov := w.ov && (!w.done || n.own.any (fun x => x.ov && x.loc == w.loc)) }))

/-- The partner after an action that took the visible hart from `o` to `n`. -/
def adoptHart (o n m : Hart) : Hart :=
  { m with
    st := { m.st with
      life := match n.st.life with | .yielded => .yielded | .killed => .killed | _ => m.st.life,
      priv := adopt o.st.priv n.st.priv m.st.priv, entry := n.st.entry, half := n.st.half, fresh := n.st.fresh,
      inHandler := adopt o.st.inHandler n.st.inHandler m.st.inHandler, uiDue := n.st.uiDue, asleep := none,
      lastRetire := adopt o.st.lastRetire n.st.lastRetire m.st.lastRetire,
      retired := m.st.retired + (n.st.retired - o.st.retired), wdStage := n.st.wdStage,
      line := if n.st.line.isSome then m.st.line else none },
    pc := adopt o.pc n.pc m.pc, sc := adoptScalars o.sc n.sc m.sc, vf := adoptVFile o.vf n.vf m.vf,
    vc := adoptVCtl o.vc n.vc m.vc, loop0 := adopt o.loop0 n.loop0 m.loop0, loop1 := adopt o.loop1 n.loop1 m.loop1,
    ui := { uivec := adopt o.ui.uivec n.ui.uivec m.ui.uivec, uipc := adopt o.ui.uipc n.ui.uipc m.ui.uipc,
            en := adopt o.ui.en n.ui.en m.ui.en, act := adopt o.ui.act n.ui.act m.ui.act, pend := adopt o.ui.pend n.ui.pend m.ui.pend },
    trap := adopt o.trap n.trap m.trap,
    phs := { pcnt := adopt o.phs.pcnt n.phs.pcnt m.phs.pcnt, lrs := m.phs.lrs, las := adopt o.phs.las n.phs.las m.phs.las,
             pubp := m.phs.pubp, hold := m.phs.hold, holdUntil := m.phs.holdUntil, holdKind := m.phs.holdKind },
    own := adoptOwn o n m, snap := adopt o.snap n.snap m.snap, obs := adopt o.obs n.obs m.obs,
    rwrites := adopt o.rwrites n.rwrites m.rwrites, acqAt := adopt o.acqAt n.acqAt m.acqAt, mbox := adopt o.mbox n.mbox m.mbox,
    bolter := { v := adopt o.bolter.v n.bolter.v m.bolter.v, desc := adopt o.bolter.desc n.bolter.desc m.bolter.desc,
                cols := adoptV o.bolter.cols n.bolter.cols m.bolter.cols, pins := adopt o.bolter.pins n.bolter.pins m.bolter.pins },
    convoy := adopt o.convoy n.convoy m.convoy, gathered := [] }

/-! ### The comparison point -/

/-- The pair of the focus hart, and its twin. -/
def twinOf (s : State) : Option (Pair × Hart) :=
  let me := s.hart.id.uid
  match s.pairs.find? (fun p => p.uid == me || p.partner == me) with
  | none => none
  | some p => (findHart s (if p.uid == me then p.partner else p.uid)).map (fun h => (p, h))

/-- Changes the pair of a visible hart. -/
def modPair (s : State) (uid : Nat) (f : Pair → Pair) : State :=
  { s with pairs := s.pairs.map (fun p => if p.uid = uid then f p else p) }

/-- The visible hart has done what the pair asked for once. -/
def hasMoved (o n : Hart) : Bool :=
  n.st.retired != o.st.retired || n.pc != o.pc || n.st.life != .placed || n.convoy.isSome || n.trap != o.trap
  || n.st.fresh != o.st.fresh

/-- The partner takes over the changes of an action that is done. -/
def syncTwin (s : State) (uid : Nat) : State :=
  match redPair s uid with
  | none => s
  | some (p, v, _) => match p.joint with
    | none => s
    | some o =>
      if hasMoved o v then
        let s1 := modHart (modPair s uid (fun p => { p with joint := none })) p.partner (adoptHart o v)
        if v.st.life = .yielded then settleInst s1 v.id.launch v.id.ginst else s1
      else s

/-- Runs a meaning with another hart as the focus. -/
def outOn (s : State) (uid : Nat) (f : State → Out) : Out :=
  let old := s.hart.id.uid
  match f (focus s uid) with
  | .next t => .next (focus t old)
  | .fault r => .fault r
  | .refused r => .refused r

/-- Both requests agree: the action is carried out once, by the visible hart. -/
def actOnce (s : State) (p : Pair) (f : State → Out) : Out :=
  let s1 := modHart s p.uid (fun h => { h with st := { h.st with asleep := none } })
  let s2 := modPair s1 p.uid (fun q => { q with req := none, joint := findHart s1 p.uid })
  let s3 := modHart s2 p.partner (fun h => { h with st := { h.st with asleep := some .twin } })
  match outOn s3 p.uid f with
  | .next t => .next (syncTwin t p.uid)
  | r => r

/-- The focus hart brings a request to the comparison point and waits there, or meets its twin's. -/
def meet (s : State) (key : List Nat) (f : State → Out) : Out :=
  match twinOf s with
  | none => f s
  | some (p, tw) =>
    let me := s.hart.id.partner
    match p.req with
    | none => .next (asleepOn (modPair s p.uid (fun p => { p with req := some (me, key, s.cycle) })) .twin)
    | some (side, key1, _) =>
      if side = me then .next (asleepOn s .twin)
      else if key = key1 then actOnce s p f
      else
        let trap := !(key.headD 0 == 0 && key1.headD 0 == 0)
        .next (diverge s (if me then tw else s.hart) (if me then s.hart else tw) (if trap then 0x0613 else 0x0612) 0)

/-- A trap was taken from `o` to `n`. -/
def tookTrap (o n : Hart) : Bool := (!o.st.fresh && n.st.fresh) || (o.st.fresh && n.st.life == .killed)

/-- The free values of a hart that runs redundantly are drawn by its place and its count of retired instructions, so both
harts of the pair draw the same (R458). -/
def pairFree (h : Hart) : Nat := ((h.id.launch * 2 ^ 32 + h.id.flat + 1) * 2 ^ 64 + h.st.retired) * 2 ^ 32

/-- The hart waits for an answer of a remote home. -/
def waitsRemote (h : Hart) : Bool :=
  match h.st.asleep with
  | some (.remote _) => true
  | _ => false

def isMcast (i : Instr) : Bool :=
  match i with
  | .mcast _ _ => true
  | _ => false

/-- Executes for a hart of a redundant pair: an action beyond the pair is done once, a trap is taken together, and all else
each hart does for itself (R458, R461). -/
def pairRun (s : State) (is : List Instr) (f : State → Out) : Out :=
  let s1 := flushPend s
  let g : State → Out := fun st => match f { st with free := pairFree s.hart } with
    | .next t => .next { t with free := s.free }
    | r => r
  match g s1 with
  | .next t =>
    let h := t.hart
    if is.any onceKind then meet s1 (0 :: requestKey s1.hart is) g
    else if tookTrap s1.hart h then meet s1 [1, h.trap.code.toNat, h.trap.tval.toNat, h.trap.tpc.toNat] g
    else if t.mem.phase != s1.mem.phase || waitsRemote h || (s1.hart.st.half && is.any isMcast) then
      meet s1 (0 :: requestKey s1.hart is) g
    else .next t
  | r => r

/-! ### Stops and deliveries at one count (R458) -/

/-- The focus hart has retired as many instructions as its twin. -/
def sameCount (s : State) : Bool :=
  match twinOf s with
  | none => true
  | some (_, tw) => s.hart.st.retired == tw.st.retired

/-- The focus hart is ahead of its twin. -/
def aheadOfTwin (s : State) : Bool :=
  match twinOf s with
  | none => false
  | some (_, tw) => decide (tw.st.retired < s.hart.st.retired)

/-- The hart of the pair that leaves an instruction takes back its request. -/
def dropRequest (s : State) : State :=
  match twinOf s with
  | none => s
  | some (p, _) => modPair s p.uid (fun p => { p with req := none, joint := none })

/-- A completion waits for delivery to the pair, which its visible hart has been told. -/
def pairDue (s : State) : Bool :=
  match twinOf s with
  | none => s.hart.st.uiDue
  | some (_, tw) => if s.hart.id.partner then tw.st.uiDue else s.hart.st.uiDue

/-- The delivery to both harts of the pair at one count. -/
def pairDelivery (s : State) : State :=
  match twinOf s with
  | none => uiDeliveryOp s
  | some (p, tw) =>
    let s1 := dropRequest s
    let s2 := uiDeliveryOp s1
    modHart s2 p.partner (fun m => if tw.st.life = .placed then adoptHart s.hart s2.hart { m with st := { m.st with asleep := none } } else m)

end Sys2Proof.Machine
end

