-- ==== Sys2Proof/Machine/Turn.lean ====
section
/-! DEFINITION. The turn of a hart: its line checks, decoding, the gathering of a convoy, and the order of what it does
(R146 to R158, R252, R275, R332, R352, R404, R407, R413). -/

namespace Sys2Proof.Machine

/-! ### Decoding (R153) -/

/-- TVAL of the illegal-instruction trap of a decoding check. -/
def decodeVal (w : BitVec 96) : DecErr → Word
  | .opc | .fn => w.setWidth 64
  | .reserved i => BitVec.ofNat 64 i

/-- The unit class of a convoy member, from its word; none for an instruction outside convoys. -/
def wordClass (w : BitVec 96) : Option UnitClass := memberClass (bits w.toNat 7 0) (bits w.toNat 61 54)

/-! ### Gathering (R156 to R158) -/

/-- A member of a convoy: its code address, the instruction and its class. -/
abbrev Mem1 := Word × Instr × UnitClass

/-- What the front end finds as it gathers a convoy. DESIGN CHOICE (log 9). -/
inductive Gathered where
  | convoy (l : List Mem1)
  /-- A trap of a line or decoding check. -/
  | trap (code : Nat) (val : Word)
  /-- A translation fault on a line. -/
  | mem (code : Nat) (ea : Word)
  /-- A line with a parity mismatch, which is fetched again first. -/
  | refetch (line : Word)

/-- A code address is the end slot of an active loop. -/
def activeEnd (h : Hart) (pc : Word) : Bool :=
  (h.loop1.lc != 0 && pc == h.loop1.le) || (h.loop0.lc != 0 && pc == h.loop0.le)

/-- Gathers the members from a code address on, `acc` being those before it, the latest first. -/
noncomputable def gatherFrom (s : State) : Nat → Word → List Mem1 → Gathered
  | 0, _, acc => .convoy acc.reverse
  | n + 1, pc, acc =>
    let line := lineOf pc; let k := slotOf pc
    match lineIn s line with
    | .mem c => .mem c (lineAddr line)
    | .refetch => .refetch line
    | .bad b i => match wordClass (slotWord b k) with
      | none | some .solo => .convoy acc.reverse
      | some _ => .trap 0x0001 (BitVec.ofNat 64 i)
    | .ok b =>
      let w := slotWord b k
      match wordClass w with
      | none | some .solo => .convoy acc.reverse
      | some c => match decodeFor s.hart w with
        | .err e => .trap 0x0001 (decodeVal w e)
        | .ok i =>
          if cendBit b k || activeEnd s.hart pc then .convoy ((pc, i, c) :: acc).reverse
          else gatherFrom s n (nextSlot pc) ((pc, i, c) :: acc)

/-- More slots than the address space holds: the run of members is gathered completely. -/
def gatherFuel : Nat := 2 ^ 45

/-! ### The next instruction -/

/-- What a hart does at a slot. -/
inductive Plan where
  /-- It stalls for a register (R53, R323). -/
  | stall
  /-- It runs a meaning, of these instructions. -/
  | act (is : List Instr) (f : State → Out)

/-- The same with control in a line. -/
def Plan.inLine (line : Word) (b : BitVec 512) : Plan → Plan
  | .stall => .stall
  | .act is f => .act is (fun s => f (s.onHart (enterLine line b)))

/-- A trap instead of an instruction. -/
def trapPlan (code : Nat) (val : Word) : Plan := .act [] (fun s => .next (takeTrap s code val))

/-- An instruction that executes alone. -/
def instrPlan (s : State) (i : Instr) : Plan := if regsBusy s i then .stall else .act [i] (exec i)

/-- The checked copy of the line that holds a slot, if it has one. -/
def lineCopy (s : State) (pc : Word) : Option (Word × BitVec 512) :=
  match lineIn s (lineOf pc) with
  | .ok b => some (lineOf pc, b)
  | _ => none

/-- A gathered convoy: the limits of R157, then its start. A convoy of one member is that member's meaning. -/
def convoyPlan (s : State) (l : List Mem1) : Plan :=
  match overLimit (l.map (fun m => m.2.2)) with
  | some j => trapPlan 0x0005 ((l.map (fun m => m.1)).getD j s.hart.pc)
  | none => match l with
    | [m] => instrPlan s m.2.1
    | _ =>
      if l.any (fun m => regsBusy s m.2.1) then .stall
      else .act (l.map (fun m => m.2.1)) (fun s =>
        execConvoyStart s.hart.id.uid (s.onHart (fun h =>
          { h with gathered := l.map (fun m => (m.1, m.2.1)),
                   st := { h.st with ahead := (l.getLast?).bind (fun m => lineCopy s m.1) } })))

/-- The plan for a decoded instruction: the CEND rule (R153), then a convoy or the instruction alone. -/
noncomputable def decodedPlan (s : State) (cend : Bool) (w : BitVec 96) (i : Instr) : Plan :=
  match wordClass w with
  | none => if cend then trapPlan 0x0001 (BitVec.ofNat 64 (485 + slotOf s.hart.pc)) else instrPlan s i
  | some .solo => instrPlan s i
  | some _ => match gatherFrom s gatherFuel s.hart.pc [] with
    | .convoy l => convoyPlan s l
    | .trap c v => trapPlan c v
    | .mem c ea => .act [] (fun s => .next (memTrap s c ea))
    | .refetch line => .act [] (fun s => .next (refetchLine line s))

/-- The plan of the focus hart at its slot: the line checks, the TGT check and decoding (R407 steps 1 and 2). A code
address that names no slot takes the address fault. -/
noncomputable def plan (s : State) : Plan :=
  let h := s.hart; let line := lineOf h.pc; let k := slotOf h.pc
  if 4 < k ∨ bits h.pc.toNat 5 3 ≠ 0 then trapPlan 0x0008 h.pc
  else match lineIn s line with
    | .mem c => .act [] (fun s => .next (memTrap s c (lineAddr line)))
    | .refetch => .act [] (fun s => execLineRefetch s.hart.id.uid s)
    | .bad _ i => trapPlan 0x0001 (BitVec.ofNat 64 i)
    | .ok b =>
      (match (if tgtBit b k then none else h.st.entry) with
        | some tv => trapPlan 0x0006 tv
        | none => match decodeFor h (slotWord b k) with
          | .err e => trapPlan 0x0001 (decodeVal (slotWord b k) e)
          | .ok i => decodedPlan (s.onHart (enterLine line b)) (cendBit b k) (slotWord b k) i).inLine line b

/-! ### The turn -/

/-- What goes before everything else: the hold of an acquire (R275), the elements of a convoy that has started, and
ENTERING, which defers a stop (R253). -/
def underWay (s : State) : Option Out :=
  let h := s.hart; let u := h.id.uid
  if h.phs.hold then some (execAcquireHoldEnd u s)
  else if h.convoy.isSome then some (execConvoyComplete u s)
  else if h.vc.mode.st = 1 then some (execModeEnterDone u s)
  else none

/-- A stop falls at this boundary (R404). -/
def stopNow (h : Hart) : Bool := h.st.stopDue.isSome && !h.st.inHandler

/-- A drain is running (R252). -/
def drainRuns (h : Hart) : Bool := h.vc.mode.st == 4 && h.arr.since.isSome

/-- A completion can be delivered, or has to be kept as PEND, and no array product is being written (R80, R332). -/
def uiReady (h : Hart) : Bool := (h.st.uiDue || (h.ui.pend && h.ui.en && !h.ui.act)) && h.arr.began.isNone

/-- What a stop finds of the convoy at the hart's slot: a convoy that can issue has run up to some element (R49, R68,
R410). DESIGN CHOICE (log 92). -/
noncomputable def cutShort (s : State) : State :=
  if drainRuns s.hart || s.hart.st.asleep.isSome || s.cycle < s.hart.st.issueFrom then s
  else match plan s with
    | .stall => s
    | .act is _ =>
      let ms := is.filterMap memberOf
      if is.isEmpty || ms.length != is.length || (convoyChecks ms s).isSome then s else partConvoy ms s

/-- A hart that waits. A `sleep` ends with its wake code; any other wait is abandoned for a delivery (R330, R357). -/
def waitTurn (s : State) (k : WaitKind) : Out :=
  let u := s.hart.id.uid
  match k with
  | .sleep _ d t => if (sleepCode s d t).isSome then execWaitWake u s else if uiReady s.hart then execUiDelivery u s else .next s
  | _ => if uiReady s.hart then execUiDelivery u s else execWaitWake u s

/-- The hart issues at its slot. -/
noncomputable def issue (s : State) : Out :=
  if s.cycle < s.hart.st.issueFrom then .next s
  else match plan s with
    | .stall => .next (atLine s)
    | .act _ f => f s

/-- The turn of a hart that is placed and has no twin. -/
noncomputable def placedTurn (s : State) : Out :=
  let h := s.hart; let u := h.id.uid
  if clockPaused s h.id.die then .next s
  else match underWay s with
    | some o => o
    | none =>
      if stopNow h then .next (stopOp (cutShort s))
      else if drainRuns h then execArrayDrainDone u s
      else match h.st.asleep with
        | some k => waitTurn s k
        | none => if uiReady h then execUiDelivery u s else issue s

/-! ### A hart of a redundant pair -/

/-- The pair is carrying out an action, and the focus hart is the one that does it. -/
def actsForPair (s : State) : Bool :=
  match twinOf s with
  | none => false
  | some (p, _) => p.joint.isSome && !s.hart.id.partner

/-- The focus hart still waits for its twin. -/
def waitsForTwin (s : State) : Bool :=
  match twinOf s with
  | none => false
  | some (p, _) => p.joint.isSome || (match p.req with | some (side, _, _) => side == s.hart.id.partner | none => false)

/-- A hart of a pair issues at its slot. -/
noncomputable def pairIssue (s : State) : Out :=
  if s.cycle < s.hart.st.issueFrom then .next s
  else match plan s with
    | .stall => .next (atLine s)
    | .act is f => if actsForPair s then f s else pairRun s is f

/-- What a hart of a pair does when no stop and no delivery falls at this boundary. -/
noncomputable def pairGo (s : State) : Out :=
  let h := s.hart; let u := h.id.uid
  if drainRuns h then execArrayDrainDone u s
  else match h.st.asleep with
    | some .twin => if waitsForTwin s then .next s else .next (wakeUp s)
    | some k => if actsForPair s then waitTurn s k else pairIssue (wakeUp s)
    | none => if h.ui.pend && h.ui.en && !h.ui.act then execUiDelivery u s else pairIssue s

/-- The turn of a placed hart of a pair. The one that is ahead waits for its twin to reach its count of instructions
before a stop or a delivery (R458). -/
noncomputable def pairTurn (s : State) : Out :=
  let h := s.hart
  if clockPaused s h.id.die then .next s
  else match underWay s with
    | some o => o
    | none =>
      if stopNow h && sameCount s then .next (stopOp (dropRequest s))
      else if stopNow h && aheadOfTwin s then .next s
      else if pairDue s && (aheadOfTwin s || (sameCount s && h.id.partner)) then .next s
      else if pairDue s && sameCount s then .next (pairDelivery s)
      else pairGo s

/-- The visible hart of the focus hart's pair. -/
def visibleUid (s : State) : Nat :=
  match twinOf s with
  | none => s.hart.id.uid
  | some (p, _) => p.uid

/-- The turn of the focus hart. -/
noncomputable def hartTurn (s : State) : Out :=
  match s.hart.st.life with
  | .ending => execReleasePerform s.hart.id.uid s
  | .placed => if s.hart.st.red then pairTurn (syncTwin s (visibleUid s)) else placedTurn s
  | _ => .next s

/-! ### The turn of an engine -/

/-- The rows of the opcode table that are engine steps. -/
def isEvent (i : Instr) : Bool :=
  match i with
  | .modeChangeDone | .modeEnterDone _ | .arrayDrainDone _ | .chainComplete _ | .releasePerform _
  | .acquireHoldEnd _ | .respinFill _ _ _ | .streamStart _ _ _ _ | .recordAppend _ _ _ | .uiDelivery _
  | .waitWake _ | .timetableRead _ _ | .millraceActionStart _ _ | .actionSettle _ _ _ | .barrierGenEnd _ _ _
  | .mcastAppend _ | .packageReset | .launchTake _ _ | .dependenceFail _ | .placementRound _ | .yieldDeadline _ _
  | .shadowSwitch _ | .spillRegDone _ _ | .imageWriteback _ | .restore _ _ _ _ | .hartEnd _ | .launchComplete _
  | .lineRefetch _ | .fetchPathRefetch _ _ _ | .convoyStart _ | .pageWalk _ _ _ _ | .tileRelease _ _
  | .eventRecordClose _ | .fatalReset | .quiesceDone _ | .quiesceOverrun _ | .signatureCompare _
  | .divergenceTimeout _ | .structTestStart _ _ _ _ | .structTestDone _ _ _ | .structTestOverdue _ _ _
  | .weirStep _ _ | .coreArrayIdle _ _ | .budgetRecompute | .drawOverBudget | .budgetHalvingEnd
  | .slewViolation _ _ | .slewLimitEnd _ _ | .undervoltage | .watchdogStage1 _ | .watchdogStage2 _ | .saveTimeout _
  | .hbmPerBankRefresh _ _ _ _ | .hbmAllBankRefresh _ _ | .activationAlert _ _ _ | .patrolRead _ _ _
  | .hbmChannelLost _ _ | .linkCrcFail _ _ | .laneBad _ _ _ | .laneRepair _ _ | .clockLower _ | .clockRaise _
  | .clockPauseStart _ | .clockPauseEnd _ | .portLinkDown _ | .portLinkUp _ | .pktRead _ | .pktReadRsp _
  | .pktWrite _ | .pktQappend _ | .pktAtomic _ | .pktAck _ | .pktCnp _ | .pktCmd _ | .pktNak _ | .packetDiscard _
  | .ackTimer _ _ | .retxTimeout _ _ | .pathFail _ _ | .cnpRateRecover _ _ | .convoyComplete _ => true
  | _ => false

/-- The hart whose own turn does this step when it runs in a redundant pair. -/
def turnStep (i : Instr) : Option Nat :=
  match i with
  | .waitWake h | .uiDelivery h | .mcastAppend h | .convoyStart h => some h
  | _ => none

/-- The step is left to the turns of a redundant pair. -/
def leftToPair (s : State) (i : Instr) : Bool :=
  match turnStep i with
  | none => false
  | some u => match findHart s u with
    | none => false
    | some h => h.st.red

/-- The turn of an engine: an instruction of the instruction set is none of its steps. -/
def engineTurn (i : Instr) (s : State) : Out := if isEvent i && !leftToPair s i then exec i s else .next s

end Sys2Proof.Machine
end

