-- ==== Sys2Proof/Machine/Step.lean ====
section
/-! DEFINITION. One step of the machine, and the placing of an instruction where the next step fetches. -/

namespace Sys2Proof.Machine

/-- Applies `f` to the next state of an outcome. -/
def mapNext (f : State → State) : Out → Out
  | .next s => .next (f s)
  | .fault r => .fault r
  | .refused r => .refused r

/-- The counter of the free values goes on. -/
def nextFree (s : State) : State := { s with free := s.free + 1 }

/-- The focus hart's turn takes one cycle. -/
def nextCycle (s : State) : State := { s with cycle := s.cycle + 1, free := s.free + 1 }

/-- The turn that the agenda names. -/
noncomputable def agendaTurn (who : Who) (s : State) : Out :=
  match who with
  | .run uid => match findHart s uid with
    | none => .fault (.noSuchHart uid)
    | some _ => hartTurn (focus s uid)
  | .event i => engineTurn i s

/-! ### Turns of one cycle -/

/-- The hart whose turn, or whose step, this is. -/
def turnUid : Who → Option Nat
  | .run u => some u
  | .event i => turnStep i

/-- The place of a hart that takes a turn, in the order of R126 and R356: die, core, hart number. -/
def turnPlace (s : State) (w : Who) : Option Nat :=
  ((turnUid w).bind (findHart s)).map (fun h => (64 * h.id.die + h.id.core) * 64 + h.id.hnum)

/-- The turn writes a new mode to DMODE (R27). -/
noncomputable def writesMode (s : State) (w : Who) : Bool :=
  match w with
  | .event _ => false
  | .run u => match plan (focus s u) with
    | .act [.dmodeWrite xs1] _ => ((focus s u).x xs1).toNat % 4 != modeCode s.pkg.mode
    | _ => false

/-- The index of the first of some turns whose hart has the lowest place. -/
def firstPlace (s : State) (l : List Turn) : Nat :=
  let ps := l.map (fun t => turnPlace s t.who)
  match (ps.filterMap id).min? with
  | none => 0
  | some m => ps.findIdx (· == some m)

/-- The next turn and the agenda after it. Of turns in one cycle, a write of a new mode goes first (R27); harts go in
ascending order of die, core and hart number (R126, R356); other turns go as the agenda lists them. -/
noncomputable def nextTurn (s : State) (t : Turn) (r : List Turn) : Turn × List Turn :=
  let l := t :: r.takeWhile (fun x => x.dt == 0)
  let s1 := { s with cycle := s.cycle + t.dt }
  let k := match l.findIdx? (fun x => writesMode s1 x.who) with
    | some k => k
    | none => if (turnUid t.who).isSome then firstPlace s1 l else 0
  match k, r[k - 1]? with
  | 0, _ | _, none => (t, r)
  | k + 1, some x => ({ dt := t.dt, who := x.who }, { t with dt := 0 } :: r.eraseIdx k)

/-- One step: the agenda's next turn after the cycles that it gives, or, when the agenda is empty, the turn of the focus
hart. DESIGN CHOICE (log 3). -/
noncomputable def step (s : State) : Host.Outcome State Fault Refusal :=
  match s.agenda with
  | [] => mapNext nextCycle (hartTurn s)
  | t0 :: r0 =>
    let (t, r) := nextTurn s t0 r0
    mapNext nextFree (agendaTurn t.who { s with agenda := r, cycle := s.cycle + t.dt })

/-! ### Placing an instruction -/

/-- A code line with one word: every slot may be entered, and a convoy ends after the word. The other slots are zero. -/
def oneWordLine (w : BitVec 96) (slot : Nat) : BitVec 512 :=
  let code : BitVec 512 := w.setWidth 512 <<< (96 * slot)
  let cend := if (wordClass w).isSome then BitVec.twoPow 512 (485 + slot) else 0
  code ||| (BitVec.ofNat 512 31 <<< 480) ||| cend ||| lineParity code

/-- The hart that runs the placed instruction: placed and awake, with nothing under way that goes before an instruction. -/
def readyHart (uid ctx die : Nat) (pc : Word) (h : Hart) : Hart :=
  { h with
    id := { h.id with uid := uid, ctx := ctx, die := die },
    st := { h.st with life := .placed, red := false, entry := none, stopDue := none, uiDue := false, asleep := none,
                      inHandler := false, half := false, issueFrom := 0, valid := BitVec.allOnes 76,
                      line := none },
    vc := { h.vc with mode := if h.vc.mode.st = 1 then { h.vc.mode with st := 0 } else h.vc.mode },
    ui := { h.ui with pend := false },
    phs := { h.phs with hold := false },
    arr := { h.arr with since := none },
    pc := pc, convoy := none, gathered := [] }

/-- The translation that the placed line is fetched by, when its page has none for a fetch. -/
def codePage (h : Hart) : TlbEnt :=
  { die := h.id.die, core := h.id.core, ctx := h.id.ctx, va := h.pc.toNat / 65536 * 65536, size := 65536, pa := 0x100000,
    w := false, x := true, dev := false, ksel := true }

/-- The state with the instruction whose bits are `w` in the slot that the next step fetches, in a line of its own. The
focus hart becomes a placed hart of a context where it is none. DESIGN CHOICE (log 5). -/
def State.withFetchWord (s : State) (nbits w : Nat) : State :=
  let word := BitVec.ofNat 96 (if nbits = 0 then w else w % 2 ^ nbits)
  let pc := if wide s.hart.pc ∨ 4 < slotOf s.hart.pc ∨ bits s.hart.pc.toNat 5 3 ≠ 0 then 0 else s.hart.pc
  let absent := s.hart.st.life = .absent
  let ctx := if absent then 1 else s.hart.id.ctx
  let die := if dieLive s.pkg s.hart.id.die then s.hart.id.die else if s.pkg.hdie = 0 then 1 else 0
  let h := readyHart (if absent then 1 else s.hart.id.uid) ctx die pc s.hart
  let ctxs := if (findCtx s ctx).isSome then s.ctxs else { newCtx ctx (devOfDie s.pkg die) [] with num := ctx } :: s.ctxs
  let s1 := { s with
    hart := h, agenda := [], ctxs := ctxs,
    clocks := s.clocks.map (fun c => if c.die = die then { c with pause := none } else c),
    ports := s.ports.filter (fun p => !(p.ctx == h.id.ctx && p.flat == h.id.flat && p.port == 16)) }
  let s2 := dropLine s1 h (lineOf pc)
  let s3 := match fetchChk s2 h (lineOf pc) with
    | .ok _ => s2
    | .fault _ => { s2 with mem := { s2.mem with tlb := codePage h :: s2.mem.tlb } }
  match fetchChk s3 h (lineOf pc) with
  | .fault _ => s3
  | .ok a => putHome s3 a.key a.loc (natLe 64 (oneWordLine word (slotOf pc)).toNat) false

end Sys2Proof.Machine
end

