-- ==== Sys2Proof/WellFormed.lean ====
section
/-! DEFINITION. What the encoding admits beyond the operand types: the limits of R152, R170, R178, R183, R206, R330
and the state-register numbers that have rows of their own (R55, R74, R79, R27). -/

namespace Sys2Proof

/-- An immediate shift count fits the count field (R172). -/
def shOk (n : Nat) : SrcB → Bool
  | .reg _ => true
  | .imm v => decide (v.toNat < n)

/-- An even register number: the low half of a pair (R178, R183). -/
def evenReg (r : XReg) : Bool := r.val % 2 == 0

/-- A VTYPE immediate whose GRP is no reserved code (R206). -/
def grpOk (vt : BitVec 9) : Bool := !vt.getLsbD 6

/-- The numbers of `sset` that have rows of their own. -/
def ssetSpecial (num : BitVec 12) : Bool :=
  num == 0x100 || num == 0x00A || num == 0x101 || (0x010 ≤ num.toNat && num.toNat ≤ 0x015)

/-- The instruction respects every limit of its encoding. -/
def Instr.wf : Instr → Bool
  | .sll _ _ b | .srl _ _ b | .sra _ _ b | .rol _ _ b | .ror _ _ b => shOk 64 b
  | .sllw _ _ b | .srlw _ _ b | .sraw _ _ b => shOk 32 b
  | .ldp xd _ _ _ => evenReg xd
  | .stp xs3 _ _ _ => evenReg xs3
  | .casQ xd xs2 xs3 _ _ => evenReg xd && evenReg xs2 && evenReg xs3
  | .sset num _ => !ssetSpecial num
  | .vcfgi _ _ vt => grpOk vt
  | .vcfgn _ _ vt => grpOk vt
  | .vcfgmax _ vt => grpOk vt
  | .crpop xd _ => xd.val % 4 == 0
  | _ => true

end Sys2Proof
end

