-- ==== Sys2Proof/Safety.lean ====
section
/-! DEFINITION. What the claims say of a state and of an instruction: values, results and frames written from the rules of
the specification, apart from the machine's own text. -/

namespace Sys2Proof.Machine

/-! ### States -/

/-- The memory is in canonical form. -/
def MemOk (s : State) : Prop := s.mem.wf = true

/-- Every byte at its home, and every byte as the hart sees it, reads as before. -/
def SameBytes (s t : State) : Prop :=
  ∀ (k : KeyTag) (a : Nat), homeByte t k a = homeByte s k a ∧ viewByte t t.hart k a = viewByte s s.hart k a

/-- A loop whose end check is made at a code address (R190). -/
def EndsAt (l : LoopRegs) (pc : Word) : Prop := l.lc ≠ 0 ∧ pc = l.le

/-- No end check is made at the present instruction. -/
def NoEnd (h : Hart) : Prop := ¬ EndsAt h.loop1 h.pc ∧ ¬ EndsAt h.loop0 h.pc

/-- A loop-back from the present instruction would stay inside the address range (R186). -/
def EndInRange (h : Hart) : Prop :=
  ∀ l : LoopRegs, l = h.loop1 ∨ l = h.loop0 → EndsAt l h.pc → (l.lbP.getD l.lb).toNat < 2 ^ 48

/-- A hart before and after it retired an instruction, apart from the pc, the loop registers and the mark of the slot it
came from: no other part of it differs. -/
def OnlyRetired (now : Nat) (h t : Hart) : Prop :=
  t = { h with
        pc := t.pc, loop0 := t.loop0, loop1 := t.loop1, rreq := none,
        st := { h.st with entry := t.st.entry, fresh := false, lastRetire := now, retired := h.st.retired + 1,
                          asleep := none, wdStage := 0, half := false } }

/-- The hart differs in its scalar file alone, and there in the listed registers alone. -/
def OnlyX (rs : List XReg) (h t : Hart) : Prop :=
  t = { h with sc := t.sc } ∧ ∀ r : XReg, r ∉ rs → getX t r = getX h r ∧ poisX t r = poisX h r

/-! ### Values -/

/-- The low 64 bits of an integer. -/
def word (v : Int) : Word := BitVec.ofInt 64 v

/-- The low `n` bits of an integer as a signed integer (R13). -/
def signedLow (n : Nat) (v : Int) : Int :=
  let u := v % (2 : Int) ^ n
  if u < (2 : Int) ^ (n - 1) then u else u - (2 : Int) ^ n

/-- The signed value of a register. -/
def sx (s : State) (r : XReg) : Int := (s.x r).toInt

/-- The unsigned value of a register. -/
def ux (s : State) (r : XReg) : Nat := (s.x r).toNat

/-- The unsigned value of a last source. -/
def ub (s : State) (b : SrcB) : Nat := (opB s.hart b).toNat

/-- The signed value of a last source. -/
def sb (s : State) (b : SrcB) : Int := (opB s.hart b).toInt

/-- 1 when a relation holds, else 0. -/
def relWord (p : Prop) [Decidable p] : Word := if p then 1 else 0

/-- The bytes of a doubleword, the last first. -/
def bytesReversed (v : Nat) : Nat := (List.range 8).foldl (fun acc i => acc * 256 + v / 256 ^ i % 256) 0

/-! ### Scalar results (R171 to R176) -/

/-- The result of an instruction of majors 0x01 and 0x03 (R171, R173). -/
def logicResult (s : State) : Instr → Option (XReg × Word × Bool)
  | .add d a b => some (d, word (sx s a + sb s b), poisX s.hart a || poisB s.hart b)
  | .sub d a b => some (d, word (sx s a - sb s b), poisX s.hart a || poisB s.hart b)
  | .and_ d a b => some (d, s.x a &&& opB s.hart b, poisX s.hart a || poisB s.hart b)
  | .or_ d a b => some (d, s.x a ||| opB s.hart b, poisX s.hart a || poisB s.hart b)
  | .xor_ d a b => some (d, s.x a ^^^ opB s.hart b, poisX s.hart a || poisB s.hart b)
  | .andn d a b => some (d, s.x a &&& ~~~(opB s.hart b), poisX s.hart a || poisB s.hart b)
  | .addw d a b => some (d, word (signedLow 32 (sx s a + sb s b)), poisX s.hart a || poisB s.hart b)
  | .subw d a b => some (d, word (signedLow 32 (sx s a - sb s b)), poisX s.hart a || poisB s.hart b)
  | .min_ d a b => some (d, word (min (sx s a) (sb s b)), poisX s.hart a || poisB s.hart b)
  | .max_ d a b => some (d, word (max (sx s a) (sb s b)), poisX s.hart a || poisB s.hart b)
  | .minu d a b => some (d, word (min (ux s a) (ub s b) : Nat), poisX s.hart a || poisB s.hart b)
  | .maxu d a b => some (d, word (max (ux s a) (ub s b) : Nat), poisX s.hart a || poisB s.hart b)
  | .seq d a b => some (d, relWord (s.x a = opB s.hart b), poisX s.hart a || poisB s.hart b)
  | .sne d a b => some (d, relWord (s.x a ≠ opB s.hart b), poisX s.hart a || poisB s.hart b)
  | .slt d a b => some (d, relWord (sx s a < sb s b), poisX s.hart a || poisB s.hart b)
  | .sltu d a b => some (d, relWord (ux s a < ub s b), poisX s.hart a || poisB s.hart b)
  | .sge d a b => some (d, relWord (sb s b ≤ sx s a), poisX s.hart a || poisB s.hart b)
  | .sgeu d a b => some (d, relWord (ub s b ≤ ux s a), poisX s.hart a || poisB s.hart b)
  | .sel d c a b => some (d, if ux s c ≠ 0 then s.x a else opB s.hart b, poisX s.hart c || poisX s.hart a || poisB s.hart b)
  | _ => none

/-- The result of an instruction of major 0x02 (R172): shifts as multiplications and divisions by powers of two. -/
def shiftResult (s : State) : Instr → Option (XReg × Word × Bool)
  | .sll d a b => some (d, word (ux s a * 2 ^ (ub s b % 64) : Nat), poisX s.hart a || poisB s.hart b)
  | .srl d a b => some (d, word (ux s a / 2 ^ (ub s b % 64) : Nat), poisX s.hart a || poisB s.hart b)
  | .sra d a b => some (d, word (sx s a / (2 : Int) ^ (ub s b % 64)), poisX s.hart a || poisB s.hart b)
  | .rol d a b =>
    some (d, word (ux s a * 2 ^ (ub s b % 64) + ux s a / 2 ^ (64 - ub s b % 64) : Nat), poisX s.hart a || poisB s.hart b)
  | .ror d a b =>
    some (d, word (ux s a / 2 ^ (ub s b % 64) + ux s a * 2 ^ (64 - ub s b % 64) : Nat), poisX s.hart a || poisB s.hart b)
  | .sllw d a b => some (d, word (signedLow 32 (ux s a * 2 ^ (ub s b % 32) : Nat)), poisX s.hart a || poisB s.hart b)
  | .srlw d a b => some (d, word (signedLow 32 (ux s a % 2 ^ 32 / 2 ^ (ub s b % 32) : Nat)), poisX s.hart a || poisB s.hart b)
  | .sraw d a b =>
    some (d, word (signedLow 32 (signedLow 32 (sx s a) / (2 : Int) ^ (ub s b % 32))), poisX s.hart a || poisB s.hart b)
  | _ => none

/-- The quotient truncated toward zero, and the remainder with the sign of a, with the cases of R174. -/
def quotient (a b : Int) : Int := if b = 0 then -1 else if a = -2 ^ 63 ∧ b = -1 then -2 ^ 63 else Int.tdiv a b

def remainder (a b : Int) : Int := if b = 0 then a else if a = -2 ^ 63 ∧ b = -1 then 0 else Int.tmod a b

/-- The result of an instruction of major 0x04 (R174). -/
def mulDivResult (s : State) : Instr → Option (XReg × Word × Bool)
  | .mul d a b => some (d, word (sx s a * sb s b), poisX s.hart a || poisB s.hart b)
  | .mulh d a b => some (d, word (sx s a * sb s b / 2 ^ 64), poisX s.hart a || poisB s.hart b)
  | .mulhu d a b => some (d, word (ux s a * ub s b / 2 ^ 64 : Nat), poisX s.hart a || poisB s.hart b)
  | .mulhsu d a b => some (d, word (sx s a * ub s b / 2 ^ 64), poisX s.hart a || poisB s.hart b)
  | .mulw d a b => some (d, word (signedLow 32 (sx s a * sb s b)), poisX s.hart a || poisB s.hart b)
  | .madd d a b c => some (d, word (sx s a * sb s b + sx s c), poisX s.hart a || poisB s.hart b || poisX s.hart c)
  | .div d a b => some (d, word (quotient (sx s a) (sb s b)), poisX s.hart a || poisB s.hart b)
  | .divu d a b => some (d, word (if ub s b = 0 then -1 else (ux s a / ub s b : Nat)), poisX s.hart a || poisB s.hart b)
  | .rem d a b => some (d, word (remainder (sx s a) (sb s b)), poisX s.hart a || poisB s.hart b)
  | .remu d a b => some (d, word (if ub s b = 0 then ux s a else ux s a % ub s b : Nat), poisX s.hart a || poisB s.hart b)
  | _ => none

/-- The length of a field, cut off at bit 63 (R175). -/
def cutLen (pos lenM1 : Fin 64) : Nat := min (lenM1.val + 1) (64 - pos.val)

/-- The number of bits above the highest one bit. -/
def leadingZeros (v : Nat) : Nat := (List.range 64).findIdx (fun i => v.testBit (63 - i))

/-- The number of bits below the lowest one bit. -/
def trailingZeros (v : Nat) : Nat := (List.range 64).findIdx (fun i => v.testBit i)

/-- The number of one bits. -/
def oneBits (v : Nat) : Nat := ((List.range 64).map (fun i => v / 2 ^ i % 2)).sum

/-- The result of an instruction of majors 0x05 and 0x06 (R175, R176). -/
def bitsResult (s : State) : Instr → Option (XReg × Word × Bool)
  | .clz d a => some (d, word (leadingZeros (ux s a) : Nat), poisX s.hart a)
  | .ctz d a => some (d, word (trailingZeros (ux s a) : Nat), poisX s.hart a)
  | .cpop d a => some (d, word (oneBits (ux s a) : Nat), poisX s.hart a)
  | .rev8 d a => some (d, word (bytesReversed (ux s a) : Nat), poisX s.hart a)
  | .bext d a p l => some (d, word (ux s a / 2 ^ p.val % 2 ^ cutLen p l : Nat), poisX s.hart a)
  | .bexts d a p l => some (d, word (signedLow (cutLen p l) (ux s a / 2 ^ p.val : Nat)), poisX s.hart a)
  | .bins d a p l =>
    some (d, word (ux s d - (ux s d / 2 ^ p.val % 2 ^ cutLen p l) * 2 ^ p.val + (ux s a % 2 ^ cutLen p l) * 2 ^ p.val : Nat),
      poisX s.hart d || poisX s.hart a)
  | .li d imm => some (d, word imm.toInt, false)
  | .lih d a imm => some (d, word (imm.toNat * 2 ^ 32 + ux s a % 2 ^ 32 : Nat), poisX s.hart a)
  | .lea d a x sh => some (d, word (ux s a + ux s x * 2 ^ sh.val : Nat), poisX s.hart a || poisX s.hart x)
  | .lca d slot imm => some (d, word (((s.hart.pc.toNat / 64 : Nat) + imm.toInt) * 64 + slot.val), false)
  | _ => none

/-! ### Scalar memory accesses (R178 to R183) -/

/-- The address of a load or store: base, index and offset, modulo 2^64. -/
def accessAddr (s : State) (b x : XReg) (off : BitVec 32) : Word := word (ux s b + ux s x + off.toInt)

/-- A load into one register: its destination, base, index, offset, width in bytes, and whether the value is signed (R178). -/
def loadForm : Instr → Option (XReg × XReg × XReg × BitVec 32 × Nat × Bool)
  | .ldb d b x o => some (d, b, x, o, 1, true)
  | .ldbu d b x o => some (d, b, x, o, 1, false)
  | .ldh d b x o => some (d, b, x, o, 2, true)
  | .ldhu d b x o => some (d, b, x, o, 2, false)
  | .ldw d b x o => some (d, b, x, o, 4, true)
  | .ldwu d b x o => some (d, b, x, o, 4, false)
  | .ldd d b x o => some (d, b, x, o, 8, false)
  | _ => none

/-- The register value of a loaded number. -/
def loadedWord (w : Nat) (signed : Bool) (m : Nat) : Word := if signed then word (signedLow (8 * w) m) else word m

/-- A store: its base, index, offset, width, the number stored and its poison (R178). -/
def storeForm (s : State) : Instr → Option (XReg × XReg × BitVec 32 × Nat × Nat × Bool)
  | .stb v b x o => some (b, x, o, 1, ux s v, poisX s.hart v)
  | .sth v b x o => some (b, x, o, 2, ux s v, poisX s.hart v)
  | .stw v b x o => some (b, x, o, 4, ux s v, poisX s.hart v)
  | .std v b x o => some (b, x, o, 8, ux s v, poisX s.hart v)
  | .stp v b x o => some (b, x, o, 16, ux s v + 2 ^ 64 * ux s (oddOf v), poisX s.hart v || poisX s.hart (oddOf v))
  | _ => none

/-- Byte `j` of a number. -/
def byteOf (v j : Nat) : Byte := BitVec.ofNat 8 (v / 256 ^ j)

/-- The new value of a read-modify-write atomic from the old one and the operand, at `n` bits (R182). -/
def amoRule : Instr → Option (AmoWidth × XReg × XReg × XReg × BitVec 32 × (Nat → Nat → Nat → Nat))
  | .amoswap wd d v b o => some (wd, d, v, b, o, fun _ _ v => v)
  | .amoadd wd d v b o => some (wd, d, v, b, o, fun n old v => (old + v) % 2 ^ n)
  | .amoand wd d v b o => some (wd, d, v, b, o, fun _ old v => old &&& v)
  | .amoor wd d v b o => some (wd, d, v, b, o, fun _ old v => old ||| v)
  | .amoxor wd d v b o => some (wd, d, v, b, o, fun _ old v => old ^^^ v)
  | .amomin wd d v b o => some (wd, d, v, b, o, fun n old v => if signedLow n v < signedLow n old then v else old)
  | .amomax wd d v b o => some (wd, d, v, b, o, fun n old v => if signedLow n old < signedLow n v then v else old)
  | .amominu wd d v b o => some (wd, d, v, b, o, fun _ old v => min old v)
  | .amomaxu wd d v b o => some (wd, d, v, b, o, fun _ old v => max old v)
  | _ => none

/-- The register value of an old value: sign-extended from 4 bytes (R182, R183). -/
def oldWord (w old : Nat) : Word := if w = 4 then word (signedLow 32 old) else word old

/-- The address, width and use of every scalar memory instruction, with the registers that address it. -/
def scalarAccess (s : State) (i : Instr) : Option (Word × Nat × Use × List XReg) :=
  match loadForm i, storeForm s i, amoRule i, i with
  | some (_, b, x, o, w, _), _, _, _ => some (accessAddr s b x o, w, .read, [b, x])
  | _, some (b, x, o, w, _, _), _, _ => some (accessAddr s b x o, w, .write, [b, x])
  | _, _, some (wd, _, _, b, o, _), _ => some (accessAddr s b 0 o, (match wd with | .w => 4 | .d => 8), .write, [b])
  | _, _, _, .ldp _ b x o => some (accessAddr s b x o, 16, .read, [b, x])
  | _, _, _, .casW _ _ _ b o => some (accessAddr s b 0 o, 4, .write, [b])
  | _, _, _, .casD _ _ _ b o => some (accessAddr s b 0 o, 8, .write, [b])
  | _, _, _, .casQ _ _ _ b o => some (accessAddr s b 0 o, 16, .write, [b])
  | _, _, _, _ => none

/-! ### Control (R186 to R191) -/

/-- The target of a line offset and slot (R160). -/
def relTarget (s : State) (slot : Slot) (off : BitVec 32) : Word :=
  word (((s.hart.pc.toNat / 64 : Nat) + off.toInt) * 64 + slot.val)

/-- The address lies beyond 48 bits. -/
def beyond (t : Word) : Prop := 2 ^ 48 ≤ t.toNat

/-- A code address that a register form may transfer to (R187). -/
def CodeOk (t : Word) : Prop := t.toNat < 2 ^ 48 ∧ t.toNat / 8 % 8 = 0 ∧ t.toNat % 8 ≤ 4

/-- The condition of a branch (R188). -/
def branchRule (s : State) : Instr → Option (XReg × XReg × Slot × BitVec 32 × Bool)
  | .beq a b k o => some (a, b, k, o, decide (s.x a = s.x b))
  | .bne a b k o => some (a, b, k, o, decide (s.x a ≠ s.x b))
  | .blt a b k o => some (a, b, k, o, decide (sx s a < sx s b))
  | .bge a b k o => some (a, b, k, o, decide (sx s b ≤ sx s a))
  | .bltu a b k o => some (a, b, k, o, decide (ux s a < ux s b))
  | .bgeu a b k o => some (a, b, k, o, decide (ux s b ≤ ux s a))
  | _ => none

/-! ### What a vector form names, and when it is refused (R89, R153, R201, R202, R228) -/

/-- The entries of a form with the formats each admits, its register groups with the lowest bit of the field that names
each and the number of consecutive groups, and the refusals of its own before all others, and before and
after the groups. -/
structure VecForm where
  entries : List (FEnt × (Fmt → Bool))
  groups : List (Nat × Nat × Nat) := []
  first : Option (Nat × Word) := none
  mid : Option (Nat × Word) := none
  late : Option (Nat × Word) := none

/-- The group size G. -/
def groupSize (h : Hart) : Nat := 2 ^ (h.vc.vtype.toNat / 16 % 8)

/-- The number of elements of width n that a group holds. -/
def capOf (h : Hart) (n : Nat) : Nat := groupSize h * (8192 * 2 ^ h.id.vk.toNat / n)

/-- An entry that is invalid, or that the form does not admit (R89). -/
def entryRefusal (h : Hart) (p : FEnt × (Fmt → Bool)) : Option (Nat × Word) :=
  if fmtValid (entry h p.1) = false then some (0x0004, word p.1.val)
  else if p.2 (fmt h p.1) = false then some (0x0004, word (p.1.val + 16)) else none

/-- A group whose first register is no multiple of G, or that reaches beyond v63 (R201). -/
def groupRefusal (h : Hart) (g : Nat × Nat × Nat) : Option (Nat × Word) :=
  if g.1 % groupSize h ≠ 0 ∨ 64 < g.1 + g.2.2 * groupSize h then some (0x0001, word g.2.1) else none

/-- The trap that refuses a form: a reserved field, VILL, then VL against the entries, then each entry, then the groups (R202, R89, R201). -/
def refusal (h : Hart) (F : VecForm) : Option (Nat × Word) :=
  if F.first.isSome then F.first
  else if h.vc.vtype.toNat.testBit 63 then some (0x0003, h.vc.vtype)
  else if ∃ p ∈ F.entries, fmtValid (entry h p.1) = true ∧ capOf h (fmt h p.1).n < vlOf h then some (0x0003, word (vlOf h))
  else (((F.entries.findSome? (entryRefusal h)).or F.mid).or (F.groups.findSome? (groupRefusal h))).or F.late

/-- A destination group that coincides with a source group of another width (R228). -/
def coincides (h : Hart) (vd : Nat) (fd : FEnt) (srcs : List (Nat × FEnt)) : Option (Nat × Word) :=
  if ∃ p ∈ srcs, p.1 = vd ∧ (fmt h p.2).n ≠ (fmt h fd).n then some (0x0001, 8) else none

/-- Two runs of groups share one of the 64 registers. -/
def sharesGroup (h : Hart) (v a w b : Nat) : Bool :=
  (List.range 64).any (fun r => decide (v ≤ r ∧ r < v + a * groupSize h ∧ w ≤ r ∧ r < w + b * groupSize h))

/-- The group of a second operand, when it is one. -/
def secondGroup : VSrc → List (Nat × Nat × Nat)
  | .vec v => [(v.val, 20, 1)]
  | .scal _ => []

def secondSource (b : VSrc) (k : FEnt) : List (Nat × FEnt) :=
  match b with
  | .vec v => [(v.val, k)]
  | .scal _ => []

/-- A form with a destination, a source group and a second operand. -/
def twoOperands (h : Hart) (ok : Fmt → Bool) (vd vs1 : VReg) (b : VSrc) (fd fa fb : FEnt) (third : List (Nat × Nat × Nat))
    (mid : Option (Nat × Word)) : VecForm :=
  { entries := [(fd, ok), (fa, ok), (fb, ok)], groups := [(vd.val, 8, 1), (vs1.val, 14, 1)] ++ secondGroup b ++ third,
    mid := mid, late := coincides h vd.val fd ((vs1.val, fa) :: secondSource b fb) }

/-- A form with a destination and one source group. -/
def oneOperand (h : Hart) (okD okA : Fmt → Bool) (vd vs1 : VReg) (fd fa : FEnt) : VecForm :=
  { entries := [(fd, okD), (fa, okA)], groups := [(vd.val, 8, 1), (vs1.val, 14, 1)],
    late := coincides h vd.val fd [(vs1.val, fa)] }

/-- Entries of one width, else the first is refused (R232). -/
def sameWidth (h : Hart) (fd : FEnt) (ks : List FEnt) : Option (Nat × Word) :=
  if ∃ k ∈ ks, (fmt h k).n ≠ (fmt h fd).n then some (0x0004, word (fd.val + 16)) else none

/-- No block scale; an integer or a floating format without one; a block scale. -/
def okPlain (f : Fmt) : Bool := decide (f.blk = 0)
def okInt (f : Fmt) : Bool := decide (f.blk = 0) && (decide (f.spv = 4) || decide (f.spv = 5))
def okFloat (f : Fmt) : Bool := decide (f.blk = 0) && !(decide (f.spv = 4) || decide (f.spv = 5))
def okBlock (f : Fmt) : Bool := decide (f.blk ≠ 0)
def okAny (_ : Fmt) : Bool := true

/-- A permute, whose destination shares no register with a source (R244). -/
def permute (h : Hart) (vd : VReg) (srcs : List (Nat × Nat × Nat)) (entries : List (FEnt × (Fmt → Bool))) : VecForm :=
  { entries := entries, groups := (vd.val, 8, 1) :: srcs,
    late := if srcs.any (fun p => sharesGroup h vd.val 1 p.1 1) then some (0x0001, 8) else none }

/-- A memory form of unit stride or stride: 4-bit entries under unit stride only (R211). -/
def memUnit (unit : Bool) (vr : VReg) (fe : FEnt) (nf : Nat) : VecForm :=
  { entries := [(fe, fun f => unit || decide (f.n ≠ 4))], groups := [(vr.val, 8, nf)] }

/-- An indexed memory form: an integer index entry, and an index group apart from the data groups. -/
def memIndex (h : Hart) (ok : Fmt → Bool) (vr : VReg) (fe fi : FEnt) (vo : VReg) (nf : Nat) : VecForm :=
  { entries := [(fe, ok), (fi, okInt)], groups := [(vr.val, 8, nf), (vo.val, 20, 1)],
    late := if sharesGroup h vr.val nf vo.val 1 = true then some (0x0001, 20) else none }

/-- The entries of a vector atomic: 16 or 32 bits, integer for the arithmetic ones (R219). -/
def okAtomic (f : Fmt) : Bool := decide (f.blk = 0) && (decide (f.n = 16) || decide (f.n = 32))

/-- What a reduction names (R246). -/
def reduces (ok : Fmt → Bool) (vd vs1 vs2 : VReg) (fd fa : FEnt) : VecForm :=
  { entries := [(fd, ok), (fa, ok)], groups := [(vd.val, 8, 1), (vs1.val, 14, 1), (vs2.val, 20, 1)] }

/-- What a special function names (R242). -/
def special (h : Hart) (vd vs1 : VReg) (sub : Option SfSub) (fd fa : FEnt) : VecForm :=
  { entries := [(fd, okFloat), (fa, okPlain)] ++ (sub.map (fun q => (q.fb, okPlain))).toList,
    groups := [(vd.val, 8, 1), (vs1.val, 14, 1)], late := coincides h vd.val fd [(vs1.val, fa)] }

/-- A scale register inside a group (R238). -/
def scaleShared (h : Hart) (vs3 vd vs1 : VReg) : Option (Nat × Word) :=
  if (vd.val ≤ vs3.val ∧ vs3.val < vd.val + groupSize h) ∨ (vs1.val ≤ vs3.val ∧ vs3.val < vs1.val + groupSize h) then
    some (0x0001, 26) else none

/-- What every vector form names. -/
def vecForm (h : Hart) : Instr → Option VecForm
  | .vadd vd vs1 b fd fa fb _ | .vsub vd vs1 b fd fa fb _ | .vrsub vd vs1 b fd fa fb _ | .vmul vd vs1 b fd fa fb _
  | .vmulh vd vs1 b fd fa fb _ | .vdiv vd vs1 b fd fa fb _ | .vrem vd vs1 b fd fa fb _ | .vmacc vd vs1 b fd fa fb _
  | .vabsd vd vs1 b fd fa fb _ | .vavg vd vs1 b fd fa fb _ _ => some (twoOperands h okInt vd vs1 b fd fa fb [] none)
  | .vand vd vs1 b fd fa fb _ | .vor vd vs1 b fd fa fb _ | .vxor vd vs1 b fd fa fb _ =>
    some (twoOperands h okInt vd vs1 b fd fa fb [] (sameWidth h fd [fa, fb]))
  | .vsll vd vs1 b fd fa fb _ | .vsrl vd vs1 b fd fa fb _ | .vsra vd vs1 b fd fa fb _ =>
    some (twoOperands h okInt vd vs1 b fd fa fb [] (sameWidth h fd [fa]))
  | .vfadd vd vs1 b fd fa fb _ _ | .vfsub vd vs1 b fd fa fb _ _ | .vfrsub vd vs1 b fd fa fb _ _ | .vfmul vd vs1 b fd fa fb _ _
  | .vfdiv vd vs1 b fd fa fb _ _ | .vfrdiv vd vs1 b fd fa fb _ _ | .vfmacc vd vs1 b fd fa fb _ _
  | .vfnmacc vd vs1 b fd fa fb _ _ | .vfmsac vd vs1 b fd fa fb _ _ | .vfnmsac vd vs1 b fd fa fb _ _
  | .vfsgnj vd vs1 b fd fa fb _ _ | .vfsgnjn vd vs1 b fd fa fb _ _ | .vfsgnjx vd vs1 b fd fa fb _ _
  | .vmin vd vs1 b fd fa fb _ _ | .vmax vd vs1 b fd fa fb _ _ | .vmerge vd vs1 b fd fa fb _ _ =>
    some (twoOperands h okPlain vd vs1 b fd fa fb [] none)
  | .vfma vd vs1 b vs3 fd fa fb _ _ => some (twoOperands h okPlain vd vs1 b fd fa fb [(vs3.val, 26, 1)] none)
  | .vfclass vd vs1 fd fa _ => some (oneOperand h okInt okPlain vd vs1 fd fa)
  | .vcvt vd vs1 fd fa _ _ => some (oneOperand h okPlain okPlain vd vs1 fd fa)
  | .vcvtbs vd vs1 vs3 fd fa _ _ ty =>
    let F := oneOperand h okBlock okPlain vd vs1 fd fa
    some { F with
      first := if (fmt h fd).sck ≠ 1 ∧ ty.val ≠ 0 then some (0x0001, word (64 + trailingZeros ty.val : Nat)) else none,
      late := F.late.or (scaleShared h vs3 vd vs1) }
  | .vcvtbd vd vs1 vs3 fd fa _ _ =>
    let F := oneOperand h okPlain okBlock vd vs1 fd fa
    some { F with late := F.late.or (scaleShared h vs3 vd vs1) }
  | .vmeq _ vs1 b fa fb _ | .vmne _ vs1 b fa fb _ | .vmlt _ vs1 b fa fb _ | .vmle _ vs1 b fa fb _ | .vmgt _ vs1 b fa fb _
  | .vmge _ vs1 b fa fb _ =>
    some { entries := [(fa, okPlain), (fb, okPlain)], groups := (vs1.val, 14, 1) :: secondGroup b }
  | .vsplat vd _ fd fb _ _ => some { entries := [(fd, okPlain), (fb, okPlain)], groups := [(vd.val, 8, 1)] }
  | .vbfly vd vs1 vs2 fd fa fb _ _ _ =>
    some { entries := [(fd, okPlain), (fa, okPlain), (fb, okPlain)],
           mid := if vd.val % (2 * groupSize h) ≠ 0 ∨ 64 < vd.val + 2 * groupSize h then some (0x0001, 8) else none,
           groups := [(vs1.val, 14, 1), (vs2.val, 20, 1)],
           late := (coincides h vd.val fd [(vs1.val, fa), (vs2.val, fb)]).or
             (coincides h (vd.val + groupSize h) fd [(vs1.val, fa), (vs2.val, fb)]) }
  | .vexp vd vs1 sub fd fa _ | .vexp2 vd vs1 sub fd fa _ | .vlog2 vd vs1 sub fd fa _ | .vrcp vd vs1 sub fd fa _
  | .vrsqrt vd vs1 sub fd fa _ | .vsqrt vd vs1 sub fd fa _ | .vsin vd vs1 sub fd fa _ | .vcos vd vs1 sub fd fa _
  | .vtanh vd vs1 sub fd fa _ | .vsigmoid vd vs1 sub fd fa _ | .verf vd vs1 sub fd fa _ => some (special h vd vs1 sub fd fa)
  | .vlift vd vs1 _ fd _ | .vdrop vd vs1 _ fd _ | .vliftx vd vs1 _ fd _ | .vdropx vd vs1 _ fd _ | .vpack vd vs1 fd _ =>
    some (permute h vd [(vs1.val, 14, 1)] [(fd, okAny)])
  | .vpick vd vs1 vs2 fd fb _ => some (permute h vd [(vs1.val, 14, 1), (vs2.val, 20, 1)] [(fd, okAny), (fb, okInt)])
  | .vget _ vs1 fd => some { entries := [(fd, okAny)], groups := [(vs1.val, 14, 1)] }
  | .vplace vd _ fd => some { entries := [(fd, okAny)], groups := [(vd.val, 8, 1)] }
  | .vfredosum vd vs1 vs2 fd fa _ _ | .vfredusum vd vs1 vs2 fd fa _ _ | .vfredmax vd vs1 vs2 fd fa _ _
  | .vfredmin vd vs1 vs2 fd fa _ _ => some (reduces okPlain vd vs1 vs2 fd fa)
  | .vredsum vd vs1 vs2 fd fa _ _ => some (reduces okInt vd vs1 vs2 fd fa)
  | .vrank vd _ _ | .vindex vd _ => some { entries := [(vtFmt h, okPlain)], groups := [(vd.val, 8, 1)] }
  | .vappend _ vs1 _ fd _ => some { entries := [(fd, okAny)], groups := [(vs1.val, 14, 1)] }
  | .vld vr _ _ fe nf _ | .vldff vr _ _ fe nf _ | .vst vr _ _ fe nf _ => some (memUnit true vr fe (nf.val + 1))
  | .vlds vr _ _ _ fe nf _ | .vsts vr _ _ _ fe nf _ => some (memUnit false vr fe (nf.val + 1))
  | .vldx vr _ _ vo fe fi nf _ | .vldux vr _ _ vo fe fi nf _ | .vstx vr _ _ vo fe fi nf _ | .vstux vr _ _ vo fe fi nf _ =>
    some (memIndex h (fun f => decide (f.n ≠ 4)) vr fe fi vo (nf.val + 1))
  | .vamoswap _ vr _ _ vo fe fi _ => some (memIndex h okAtomic vr fe fi vo 1)
  | .vcas _ vr _ _ vo fe fi _ => some (memIndex h okAtomic vr fe fi vo 2)
  | .vamofadd _ vr _ _ vo fe fi _ => some (memIndex h (fun f => okAtomic f && okFloat f) vr fe fi vo 1)
  | .vamoadd _ vr _ _ vo fe fi _ | .vamoand _ vr _ _ vo fe fi _ | .vamoor _ vr _ _ vo fe fi _ | .vamoxor _ vr _ _ vo fe fi _
  | .vamomin _ vr _ _ vo fe fi _ | .vamomax _ vr _ _ vo fe fi _ | .vamominu _ vr _ _ vo fe fi _ | .vamomaxu _ vr _ _ vo fe fi _ =>
    some (memIndex h (fun f => okAtomic f && okInt f) vr fe fi vo 1)
  | _ => none

/-! ### Element-wise results (R60, R204, R228, R229) -/

/-- The elements an instruction writes: their width, its destination groups with the result of each element, the elements
it treats at all, the active ones, the poison of the governing mask, and whether it draws. -/
structure ElemSpec where
  n : Nat
  dsts : List (Nat × (Nat → ElemOut))
  live : Nat → Bool := fun _ => true
  act : Nat → Bool
  pm : Nat → Bool
  draws : Bool := false

/-- The element at which the instruction starts; a VES above VL counts as VL (R68). -/
def startsAt (h : Hart) : Nat := min h.vc.ves.toNat (vlOf h)

/-- The element is active and not yet done. -/
def ElemSpec.takes (E : ElemSpec) (h : Hart) (i : Nat) : Prop :=
  startsAt h ≤ i ∧ i < vlOf h ∧ E.live i = true ∧ E.act i = true

/-- A class is raised for element i. -/
def ElemSpec.raises (E : ElemSpec) (h : Hart) (i b : Nat) : Prop :=
  E.takes h i ∧ ∃ p ∈ E.dsts, (p.2 i).flags.getLsbD b = true

/-- RSEED after one drawing instruction (R101). -/
def nextSeed (r : Word) : Word := word (r.toNat * 0x9FB21C651E98DF25 + 0x2545F491)

/-- The code and poison of an element are unchanged. -/
def SameElem (h t : Hart) (v i n : Nat) : Prop := elem t v i n = elem h v i n ∧ elemPois t v i n = elemPois h v i n

/-- The hart after an element-wise instruction that met no fault: the result in every active element from VES to VL, its
mask's treatment of the others, the tail, VES zero, the classes raised and the draw; and nothing else differs. -/
def Elements (h : Hart) (E : ElemSpec) (t : Hart) : Prop :=
  t = { h with
        vf := t.vf,
        vc := { h.vc with ves := 0, rseed := if E.draws then nextSeed h.vc.rseed else h.vc.rseed,
                          fxm := { h.vc.fxm with acc := t.vc.fxm.acc } } }
  ∧ (∀ p ∈ E.dsts, ∀ i, i < capOf h E.n →
      (i < startsAt h ∨ (i < vlOf h ∧ E.live i = false) → SameElem h t p.1 i E.n)
      ∧ (E.takes h i → elem t p.1 i E.n = (p.2 i).code % 2 ^ E.n ∧ elemPois t p.1 i E.n = ((p.2 i).pois || E.pm i))
      ∧ (startsAt h ≤ i → i < vlOf h → E.live i = true → E.act i = false →
          elem t p.1 i E.n = (if maskZero h then 0 else elem h p.1 i E.n)
          ∧ elemPois t p.1 i E.n = (E.pm i || (!maskZero h && elemPois h p.1 i E.n)))
      ∧ (vlOf h ≤ i → if tailZero h = true ∧ startsAt h < vlOf h
          then elem t p.1 i E.n = 0 ∧ elemPois t p.1 i E.n = false else SameElem h t p.1 i E.n))
  ∧ (∀ r, r < 64 → (∀ p ∈ E.dsts, r < p.1 ∨ p.1 + groupSize h ≤ r) → vreg t r = vreg h r ∧ vpoisReg t r = vpoisReg h r)
  ∧ (∀ (m : MReg) i, i < 65536 → (mbit t m i = true ↔ mbit h m i = true ∨
      (m = 7 ∧ h.vc.fxm.sel ≠ 0 ∧ E.raises h i (h.vc.fxm.sel.toNat - 1))))
  ∧ t.vf = { h.vf with v := t.vf.v, pv := t.vf.pv, m := t.vf.m }
  ∧ (∀ b, b < 6 → (t.vc.fxm.acc.getLsbD b = true ↔ h.vc.fxm.acc.getLsbD b = true ∨ ∃ i, E.raises h i b))

/-- The instruction completes with those elements, and retires. -/
def VecDone (i : Instr) (s : State) (E : ElemSpec) : Prop :=
  ∃ t, exec i s = .next (retire s { s with hart := t }) ∧ Elements s.hart E t

/-! ### Integer elements (R95, R231, R232) -/

/-- The integer of a code in an entry. -/
def intOf (f : Fmt) (c : Nat) : Int := if f.spv = 4 then signedLow f.n c else (c % 2 ^ f.n : Nat)

/-- An integer written into an integer entry: kept, wrapped, or saturated with the classes `sat` (R95). -/
def narrowWith (sat : Flags) (f : Fmt) (v : Int) : Nat × Flags :=
  let lo : Int := if f.spv = 4 then -2 ^ (f.n - 1) else 0
  let hi : Int := if f.spv = 4 then 2 ^ (f.n - 1) - 1 else 2 ^ f.n - 1
  if (lo ≤ v ∧ v ≤ hi) ∨ f.ovf = 2 then ((v % (2 : Int) ^ f.n).toNat, 0)
  else (((if v < lo then lo else hi) % (2 : Int) ^ f.n).toNat, sat)

/-- Saturation raises SATURATION and INEXACT (R95, R96). -/
def narrow : Fmt → Int → Nat × Flags := narrowWith (fSATURATION ||| fINEXACT)

/-- No form but `vavg` raises INEXACT: saturation raises SATURATION alone (R232; the model's reading, log 95). -/
def narrowExact : Fmt → Int → Nat × Flags := narrowWith fSATURATION

/-- Half of an integer, rounded (R100); a stochastic rounding takes the draw. -/
def halved (rm : Nat) (v : Int) (draw : Nat) : Int :=
  if v % 2 = 0 then v / 2
  else match rm with
    | 0 => if v / 2 % 2 = 0 then v / 2 else v / 2 + 1
    | 1 => Int.tdiv v 2
    | 2 => v / 2
    | 3 => v / 2 + 1
    | 4 => if v < 0 then v / 2 else v / 2 + 1
    | _ => let up := 2 ^ 15 ≤ draw; if v < 0 then (if up then v / 2 else v / 2 + 1) else if up then v / 2 + 1 else v / 2

/-- An operation of three integers under the destination's format. -/
abbrev IntOp := Fmt → Int → Int → Int → Nat × Flags

/-- The forms that take integers a, b and d (R232), with whether they read the destination. -/
def intRule : Instr → Option (VReg × VReg × VSrc × FEnt × FEnt × FEnt × MReg × Bool × IntOp)
  | .vadd vd a b fd fa fb mk => some (vd, a, b, fd, fa, fb, mk, false, fun d a b _ => narrowExact d (a + b))
  | .vsub vd a b fd fa fb mk => some (vd, a, b, fd, fa, fb, mk, false, fun d a b _ => narrowExact d (a - b))
  | .vrsub vd a b fd fa fb mk => some (vd, a, b, fd, fa, fb, mk, false, fun d a b _ => narrowExact d (b - a))
  | .vmul vd a b fd fa fb mk => some (vd, a, b, fd, fa, fb, mk, false, fun d a b _ => narrowExact d (a * b))
  | .vmulh vd a b fd fa fb mk => some (vd, a, b, fd, fa, fb, mk, false, fun d a b _ => narrowExact d (a * b / (2 : Int) ^ d.n))
  | .vdiv vd a b fd fa fb mk => some (vd, a, b, fd, fa, fb, mk, false, fun d a b _ =>
      if b = 0 then (2 ^ d.n - 1, 0) else narrowExact d (Int.tdiv a b))
  | .vrem vd a b fd fa fb mk => some (vd, a, b, fd, fa, fb, mk, false, fun d a b _ =>
      if b = 0 then ((narrowExact d a).1, 0) else narrowExact d (Int.tmod a b))
  | .vmacc vd a b fd fa fb mk => some (vd, a, b, fd, fa, fb, mk, true, fun d a b c => narrowExact d (c + a * b))
  | .vabsd vd a b fd fa fb mk => some (vd, a, b, fd, fa, fb, mk, false, fun d a b _ => narrowExact d (if a < b then b - a else a - b))
  | _ => none

/-- The forms on codes of n bits (R232). -/
def codeRule : Instr → Option (VReg × VReg × VSrc × FEnt × FEnt × FEnt × MReg × (Nat → Nat → Nat → Nat))
  | .vand vd a b fd fa fb mk => some (vd, a, b, fd, fa, fb, mk, fun _ a b => a &&& b)
  | .vor vd a b fd fa fb mk => some (vd, a, b, fd, fa, fb, mk, fun _ a b => a ||| b)
  | .vxor vd a b fd fa fb mk => some (vd, a, b, fd, fa, fb, mk, fun _ a b => a ^^^ b)
  | .vsll vd a b fd fa fb mk => some (vd, a, b, fd, fa, fb, mk, fun n a b => a * 2 ^ (b % n) % 2 ^ n)
  | .vsrl vd a b fd fa fb mk => some (vd, a, b, fd, fa, fb, mk, fun n a b => a / 2 ^ (b % n))
  | .vsra vd a b fd fa fb mk => some (vd, a, b, fd, fa, fb, mk, fun n a b => (signedLow n a / (2 : Int) ^ (b % n) % (2 : Int) ^ n).toNat)
  | _ => none

/-- The code of a last source for element i: the element of a group, or the low bits of a register. -/
def secondCode (h : Hart) (b : VSrc) (k : FEnt) (i : Nat) : Nat :=
  match b with
  | .vec v => elem h v.val i (fmt h k).n
  | .scal x => (getX h x).toNat % 2 ^ (fmt h k).n

def secondPois (h : Hart) (b : VSrc) (k : FEnt) (i : Nat) : Bool :=
  match b with
  | .vec v => elemPois h v.val i (fmt h k).n
  | .scal x => poisX h x

/-- A destination group under a mask. -/
def overGroup (h : Hart) (vd : VReg) (fd : FEnt) (mk : MReg) (draws : Bool) (out : Nat → ElemOut) : ElemSpec :=
  { n := (fmt h fd).n, dsts := [(vd.val, out)], act := mbit h mk, pm := mpois h mk, draws := draws }

/-- Rounding is stochastic and some element below VL has its mask bit set (R101). -/
def takesDraw (h : Hart) (rm : Nat) (mk : MReg) : Prop := rm = 5 ∧ ∃ i, i < vlOf h ∧ mbit h mk i = true

/-! ### Floating elements (R229, R230, R233 to R236) -/

/-- The wide value of element i of a group, and of a last source. -/
def wide1 (h : Hart) (v : VReg) (k : FEnt) (i : Nat) : WVal := fdecode (fmt h k) (elem h v.val i (fmt h k).n)
def wide2 (h : Hart) (b : VSrc) (k : FEnt) (i : Nat) : WVal := fdecode (fmt h k) (secondCode h b k i)

/-- A wide value written into an entry with the mode and draw of element i, with the classes raised before. -/
def rounded (h : Hart) (fd : FEnt) (rm i : Nat) (w : WVal × Flags) (p : Bool) : ElemOut :=
  let r := fencode (fmt h fd) w.1 rm (drawAt h.vc.rseed i)
  { code := r.1, flags := w.2 ||| r.2, pois := p }

/-- An operation of a, b and d, given whether rounding is toward minus infinity. -/
abbrev WideOp := Bool → WVal → WVal → WVal → WVal × Flags

/-- The rounding forms of two operands, with whether they read the destination (R233, R235). -/
def floatRule : Instr → Option (VReg × VReg × VSrc × FEnt × FEnt × FEnt × MReg × RMode × Bool × WideOp)
  | .vfadd vd a b fd fa fb mk rm => some (vd, a, b, fd, fa, fb, mk, rm, false, fun r a b _ => addW r a b)
  | .vfsub vd a b fd fa fb mk rm => some (vd, a, b, fd, fa, fb, mk, rm, false, fun r a b _ => addW r a (negW b))
  | .vfrsub vd a b fd fa fb mk rm => some (vd, a, b, fd, fa, fb, mk, rm, false, fun r a b _ => addW r b (negW a))
  | .vfmul vd a b fd fa fb mk rm => some (vd, a, b, fd, fa, fb, mk, rm, false, fun _ a b _ => mulW a b)
  | .vfdiv vd a b fd fa fb mk rm => some (vd, a, b, fd, fa, fb, mk, rm, false, fun _ a b _ => divW a b)
  | .vfrdiv vd a b fd fa fb mk rm => some (vd, a, b, fd, fa, fb, mk, rm, false, fun _ a b _ => divW b a)
  | .vfmacc vd a b fd fa fb mk rm => some (vd, a, b, fd, fa, fb, mk, rm, true, fun r a b d => fmaW r a b d)
  | .vfnmacc vd a b fd fa fb mk rm => some (vd, a, b, fd, fa, fb, mk, rm, true, fun r a b d => fmaW r (negW a) b (negW d))
  | .vfmsac vd a b fd fa fb mk rm => some (vd, a, b, fd, fa, fb, mk, rm, true, fun r a b d => fmaW r a b (negW d))
  | .vfnmsac vd a b fd fa fb mk rm => some (vd, a, b, fd, fa, fb, mk, rm, true, fun r a b d => fmaW r (negW a) b d)
  | .vmin vd a b fd fa fb mk rm => some (vd, a, b, fd, fa, fb, mk, rm, false, fun _ a b _ => minMaxW false a b)
  | .vmax vd a b fd fa fb mk rm => some (vd, a, b, fd, fa, fb, mk, rm, false, fun _ a b _ => minMaxW true a b)
  | _ => none

/-- The sign forms: the sign from those of the two codes (R234). -/
def signRule : Instr → Option (VReg × VReg × VSrc × FEnt × FEnt × FEnt × MReg × RMode × (Bool → Bool → Bool))
  | .vfsgnj vd a b fd fa fb mk rm => some (vd, a, b, fd, fa, fb, mk, rm, fun _ t => t)
  | .vfsgnjn vd a b fd fa fb mk rm => some (vd, a, b, fd, fa, fb, mk, rm, fun _ t => !t)
  | .vfsgnjx vd a b fd fa fb mk rm => some (vd, a, b, fd, fa, fb, mk, rm, fun s t => xor s t)
  | _ => none

/-- The sign bit of a code; 0 for a format without one. -/
def signOf (f : Fmt) (c : Nat) : Bool := decide (f.s = 1 ∧ c / 2 ^ (f.n - 1) % 2 = 1)

/-- A value with a given sign; a NaN has none. -/
def signed (s : Bool) : WVal → WVal
  | .zero _ => .zero s
  | .fin _ m e st => .fin s m e st
  | .inf _ => .inf s
  | .nan q => .nan q

/-- A signalling NaN raises INVALID. -/
def nanFlag (w : WVal) : Flags := if w = .nan false then fINVALID else 0

/-- The compares: the relation of two numbers, and whether a NaN of either kind raises INVALID (R235). -/
def compareRule : Instr → Option (MReg × VReg × VSrc × FEnt × FEnt × MReg × (Int → Bool) × Bool)
  | .vmeq md a b fa fb mk => some (md, a, b, fa, fb, mk, fun c => decide (c = 0), false)
  | .vmne md a b fa fb mk => some (md, a, b, fa, fb, mk, fun c => decide (c ≠ 0), false)
  | .vmlt md a b fa fb mk => some (md, a, b, fa, fb, mk, fun c => decide (c < 0), true)
  | .vmle md a b fa fb mk => some (md, a, b, fa, fb, mk, fun c => decide (c ≤ 0), true)
  | .vmgt md a b fa fb mk => some (md, a, b, fa, fb, mk, fun c => decide (0 < c), true)
  | .vmge md a b fa fb mk => some (md, a, b, fa, fb, mk, fun c => decide (0 ≤ c), true)
  | _ => none

/-- The value of a compare with its classes: with a NaN only `vmne` holds. -/
def compared (i : Instr) (rel : Int → Bool) (strict : Bool) (a b : WVal) : Bool × Flags :=
  if isNan a = true ∨ isNan b = true then
    ((match i with | .vmne _ _ _ _ _ _ => true | _ => false), if strict then fINVALID else nanFlag a ||| nanFlag b)
  else (rel (cmpW a b), 0)

/-- A finite value over the unit 2^x. -/
def unitsOf2 (x : Int) : WVal → Option Int
  | .zero _ => some 0
  | .fin s m e false => if x ≤ e ∧ m ≠ 0 then some ((if s then -1 else 1) * (m : Int) * 2 ^ (e - x).toNat) else none
  | _ => none

/-- The mask that an instruction writes: the bits from VES to VL under the governing mask, and the tail. `raised` is the
class of SEL raised at an element. -/
def MaskBits (h : Hart) (md : MReg) (act pm : Nat → Bool) (out : Nat → Bool × Bool) (raised : Nat → Prop) (t : Hart) : Prop :=
  ∀ i, i < 65536 →
    (i < startsAt h ∨ (vlOf h ≤ i ∧ 8192 * 2 ^ h.id.vk.toNat ≤ i) → mbit t md i = mbit h md i ∧ mpois t md i = mpois h md i)
    ∧ (startsAt h ≤ i → i < vlOf h → act i = true →
        (mbit t md i = true ↔ (out i).1 = true ∨ (md = 7 ∧ raised i)) ∧ mpois t md i = ((out i).2 || pm i))
    ∧ (startsAt h ≤ i → i < vlOf h → act i = false →
        mbit t md i = (if maskZero h then false else mbit h md i)
        ∧ mpois t md i = (pm i || (!maskZero h && mpois h md i)))
    ∧ (vlOf h ≤ i → i < 8192 * 2 ^ h.id.vk.toNat →
        if tailZero h = true ∧ startsAt h < vlOf h then mbit t md i = false ∧ mpois t md i = false
        else mbit t md i = mbit h md i ∧ mpois t md i = mpois h md i)

/-- An instruction that writes a mask completes: that mask, the bits of m7 that its classes raise, VES, and nothing else. -/
def MaskDone (i : Instr) (s : State) (md : MReg) (act pm : Nat → Bool) (out : Nat → Bool × Bool) (fl : Nat → Flags) : Prop :=
  ∃ t, exec i s = .next (retire s { s with hart := t })
    ∧ t = { s.hart with
            vf := { s.hart.vf with m := t.vf.m, pm := t.vf.pm },
            vc := { s.hart.vc with ves := 0, fxm := { s.hart.vc.fxm with acc := t.vc.fxm.acc } } }
    ∧ (∀ raised : Nat → Nat → Prop,
        (∀ j b, raised j b ↔ startsAt s.hart ≤ j ∧ j < vlOf s.hart ∧ act j = true ∧ (fl j).getLsbD b = true) →
        MaskBits s.hart md act pm out (fun j => s.hart.vc.fxm.sel ≠ 0 ∧ raised j (s.hart.vc.fxm.sel.toNat - 1)) t
        ∧ (∀ (m : MReg) j, m ≠ md → j < 65536 → (mbit t m j = true ↔ mbit s.hart m j = true
            ∨ (m = 7 ∧ s.hart.vc.fxm.sel ≠ 0 ∧ raised j (s.hart.vc.fxm.sel.toNat - 1)))
            ∧ mpois t m j = mpois s.hart m j)
        ∧ (∀ b, b < 6 → (t.vc.fxm.acc.getLsbD b = true ↔ s.hart.vc.fxm.acc.getLsbD b = true ∨ ∃ j, raised j b)))

/-- An instruction that writes a scalar register as its only result completes. -/
def ScalarDone (i : Instr) (s : State) (d : XReg) (v : Word) (p : Bool) : Prop :=
  exec i s = .next (retire s ((s.setX d v p).onHart (fun h => { h with vc := { h.vc with ves := 0 } })))

/-! ### Masks, scans, permutes and reductions (R222 to R224, R244 to R249) -/

/-- Mask logic (R222). -/
def maskRule : Instr → Option (MReg × MReg × MReg × (Bool → Bool → Bool))
  | .mand d a b => some (d, a, b, fun x y => x && y)
  | .mnand d a b => some (d, a, b, fun x y => !(x && y))
  | .mandn d a b => some (d, a, b, fun x y => x && !y)
  | .mor d a b => some (d, a, b, fun x y => x || y)
  | .mnor d a b => some (d, a, b, fun x y => !(x || y))
  | .morn d a b => some (d, a, b, fun x y => x || !y)
  | .mxor d a b => some (d, a, b, fun x y => xor x y)
  | .mxnor d a b => some (d, a, b, fun x y => !(xor x y))
  | _ => none

/-- The number of bits below n that both masks hold, and the lowest such bit below VL, else VL (R223). -/
def bothBelow (h : Hart) (ms mk : MReg) (n : Nat) : Nat := (List.range n).countP (fun j => mbit h ms j && mbit h mk j)
def firstBoth (h : Hart) (ms mk : MReg) : Nat := (List.range (vlOf h)).findIdx (fun j => mbit h ms j && mbit h mk j)

/-- A bit below n of either mask is poisoned. -/
def maskPois (h : Hart) (ms mk : MReg) (n : Nat) : Bool := (List.range n).any (fun j => mpois h ms j || mpois h mk j)

/-- The cuts (R223). -/
def cutRule : Instr → Option (MReg × MReg × MReg × (Nat → Nat → Bool))
  | .mcutLt d s k => some (d, s, k, fun i f => decide (i < f))
  | .mcutLe d s k => some (d, s, k, fun i f => decide (i ≤ f))
  | .mcutEq d s k => some (d, s, k, fun i f => decide (i = f))
  | _ => none

/-- Element j of a source group: its code and poison, and zero from cap up. -/
def sourceElem (h : Hart) (v : VReg) (fd : FEnt) (j : Nat) : Nat × Bool :=
  if j < capOf h (fmt h fd).n then (elem h v.val j (fmt h fd).n, elemPois h v.val j (fmt h fd).n) else (0, false)

/-- The distance of a slide. -/
def slideBy (h : Hart) : SlideOff → Nat
  | .imm v => v.toNat
  | .reg x => (getX h x).toNat

def slidePois (h : Hart) : SlideOff → Bool
  | .imm _ => false
  | .reg x => poisX h x

/-- A code without classes. -/
def plainOut (c : Nat × Bool) (p : Bool) : ElemOut := { code := c.1, flags := 0, pois := c.2 || p }

/-- The permutes that write each element i from a source (R245): destination, entry, mask, whether element i is written, and
its code and poison. -/
def permuteRule (h : Hart) : Instr → Option (VReg × FEnt × MReg × (Nat → Bool) × (Nat → ElemOut))
  | .vlift vd a o fd mk => some (vd, fd, mk, fun i => decide (slideBy h o ≤ i),
      fun i => plainOut (sourceElem h a fd (i - slideBy h o)) (slidePois h o))
  | .vdrop vd a o fd mk => some (vd, fd, mk, fun _ => true, fun i => plainOut (sourceElem h a fd (i + slideBy h o)) (slidePois h o))
  | .vliftx vd a x fd mk => some (vd, fd, mk, fun _ => true, fun i =>
      plainOut (if i = 0 then ((getX h x).toNat, poisX h x) else sourceElem h a fd (i - 1)) false)
  | .vdropx vd a x fd mk => some (vd, fd, mk, fun _ => true, fun i =>
      plainOut (if i + 1 = vlOf h then ((getX h x).toNat, poisX h x) else sourceElem h a fd (i + 1)) false)
  | .vpick vd a b fd fb mk => some (vd, fd, mk, fun _ => true, fun i =>
      let ix := intOf (fmt h fb) (elem h b.val i (fmt h fb).n)
      plainOut (if ix < 0 then (0, false) else sourceElem h a fd ix.toNat) (elemPois h b.val i (fmt h fb).n))
  | _ => none

/-- An instruction that writes one group, VES and classes, and nothing else. -/
def OnlyGroup (h : Hart) (v : Nat) (t : Hart) : Prop :=
  t = { h with
        vf := { h.vf with v := t.vf.v, pv := t.vf.pv },
        vc := { h.vc with ves := 0, fxm := { h.vc.fxm with acc := t.vc.fxm.acc } } }
  ∧ ∀ r, r < 64 → (r < v ∨ v + groupSize h ≤ r) → vreg t r = vreg h r ∧ vpoisReg t r = vpoisReg h r

/-- A group of which only the first element is written: the others are tail elements. -/
def FirstWritten (h : Hart) (v n : Nat) (c : Nat) (p : Bool) (t : Hart) : Prop :=
  elem t v 0 n = c % 2 ^ n ∧ elemPois t v 0 n = p
  ∧ ∀ j, 1 ≤ j → j < capOf h n → if tailZero h = true then elem t v j n = 0 ∧ elemPois t v j n = false else SameElem h t v j n

/-- The active elements below VL, in order. -/
def activeBelow (h : Hart) (mk : MReg) : List Nat := (List.range (vlOf h)).filter (mbit h mk)

/-- One rounded sum in an entry. -/
def sumStep (d : Fmt) (rm : Nat) (a b : WVal) : Nat × Flags :=
  let w := addW (decide (rm = 2)) a b
  let r := fencode d w.1 rm 0
  (r.1, w.2 ||| r.2)

/-- The ordered sum (R105): each element is added in turn, and each sum is rounded; with no element, the start value. -/
def orderedSum (d : Fmt) (rm : Nat) : WVal → List WVal → Nat × Flags
  | w, [] => fencode d w rm 0
  | w, [a] => sumStep d rm w a
  | w, a :: b :: r =>
    let q := sumStep d rm w a
    let t := orderedSum d rm (fdecode d q.1) (b :: r)
    (t.1, q.2 ||| t.2)

/-- The values that some binary tree of rounded sums over all the leaves can give, with the classes its sums raise (R105). -/
inductive TreeSum (d : Fmt) (rm : Nat) : List WVal → WVal → Flags → Prop
  | leaf (w : WVal) : TreeSum d rm [w] w 0
  | node (l r m : List WVal) (a b : WVal) (f g : Flags) : TreeSum d rm l a f → TreeSum d rm r b g → List.Perm (l ++ r) m →
      TreeSum d rm m (fdecode d (sumStep d rm a b).1) (f ||| g ||| (sumStep d rm a b).2)

/-- The forms with a bytewise address rule (R212). -/
def vecLoad : Instr → Option MForm
  | .vld vr xb o fe nf mk | .vldff vr xb o fe nf mk => some (unitForm vr xb o fe nf mk)
  | .vlds vr xb o xo fe nf mk => some (strideForm vr xb o xo fe nf mk)
  | .vldx vr xb o vo fe fi nf mk => some (indexForm true vr xb o vo fe fi (nf.val + 1) mk)
  | .vldux vr xb o vo fe fi nf mk => some (indexForm false vr xb o vo fe fi (nf.val + 1) mk)
  | _ => none

def vecStore : Instr → Option MForm
  | .vst vr xb o fe nf mk => some (unitForm vr xb o fe nf mk)
  | .vsts vr xb o xo fe nf mk => some (strideForm vr xb o xo fe nf mk)
  | .vstx vr xb o vo fe fi nf mk => some (indexForm true vr xb o vo fe fi (nf.val + 1) mk)
  | .vstux vr xb o vo fe fi nf mk => some (indexForm false vr xb o vo fe fi (nf.val + 1) mk)
  | _ => none

/-- `eaddr(i, f)` of R212. -/
def fieldAddr (h : Hart) (m : MForm) (i f : Nat) : Word :=
  let n := (fmt h m.fe).n
  let base : Int := (getX h m.xb).toNat + m.imm.toInt
  word (base + (match m.mop with
    | .unit => (((i * m.nf + f) * n / 8 : Nat) : Int)
    | .stride xo => i * (getX h xo).toInt + (f * n / 8 : Nat)
    | .index vo fi _ => intOf (fmt h fi) (elem h vo.val i (fmt h fi).n) + (f * n / 8 : Nat)))

/-- The bytes of a field: one for a 4-bit element. -/
def fieldBytes (n : Nat) : Nat := if n = 4 then 1 else n / 8

/-- The element is active, from VES to VL. -/
def ActiveAt (h : Hart) (mk : MReg) (i : Nat) : Prop := startsAt h ≤ i ∧ i < vlOf h ∧ mbit h mk i = true

/-- The address registers and the indices of active elements hold no poison. -/
def AddressesClean (h : Hart) (m : MForm) : Prop :=
  poisX h m.xb = false
  ∧ (∀ xo, m.mop = .stride xo → poisX h xo = false)
  ∧ (∀ vo fi o, m.mop = .index vo fi o → ∀ i, ActiveAt h m.msk i → elemPois h vo.val i (fmt h fi).n = false)

/-- Every active field reaches ordinary memory without a fault or a race: the place of each. -/
def FieldsReach (s : State) (m : MForm) (u : Use) (loc : Nat → Nat → Acc) : Prop :=
  ∀ i f, ActiveAt s.hart m.msk i → f < m.nf →
    elemPlace s (fieldAddr s.hart m i f) (fieldBytes (fmt s.hart m.fe).n) u = .mem (loc i f) ∧ (loc i f).dev = false
    ∧ ∀ j, j < fieldBytes (fmt s.hart m.fe).n → copyRaces s ((loc i f).loc + j) (decide (u = .write)) = false

/-- The code of a field from the bytes that the hart sees. -/
def fieldCode (s : State) (m : MForm) (a : Acc) (i f : Nat) : Nat :=
  let n := (fmt s.hart m.fe).n
  let v := leNat (viewBytes s s.hart a.key a.loc (fieldBytes n))
  if n = 4 then v / 16 ^ ((i * m.nf + f) % 2) % 16 else v

/-- The elements a load writes. -/
def loadSpec (s : State) (m : MForm) (loc : Nat → Nat → Acc) : ElemSpec :=
  { n := (fmt s.hart m.fe).n, act := mbit s.hart m.msk, pm := mpois s.hart m.msk,
    dsts := (List.range m.nf).map (fun f => (m.vr.val + f * groupSize s.hart, fun i =>
      { code := fieldCode s m (loc i f) i f, flags := 0,
        pois := viewPois s s.hart (loc i f).loc (fieldBytes (fmt s.hart m.fe).n) })) }

/-- The memory that a hart sees after stores of fields: each byte that no field covers is as before, and each byte of a field
that no later field covers (or, unordered, no other) is the field's. Homes are as before. -/
def StoredFields (s t : State) (n : Nat) (ordered : Bool) (on : Nat → Nat → Prop) (loc : Nat → Nat → Acc)
    (code pos : Nat → Nat → Nat) : Prop :=
  let cover := fun i f l => (loc i f).loc ≤ l ∧ l < (loc i f).loc + fieldBytes n
  (∀ l k, (∀ i f, on i f → ¬ cover i f l) → viewByte t t.hart k l = viewByte s s.hart k l)
  ∧ (8 ≤ n → ∀ i f b k, on i f → b < n / 8 →
      (∀ j g, on j g → (if ordered then i < j ∨ (i = j ∧ f < g) else ¬ (i = j ∧ f = g)) → ¬ cover j g ((loc i f).loc + b)) →
      viewByte t t.hart k ((loc i f).loc + b) = byteOf (code i f) b)
  ∧ (n = 4 → ∀ i f k, on i f → (∀ j g, on j g → (loc j g).loc = (loc i f).loc → pos j g / 2 = pos i f / 2) →
      (viewByte t t.hart k (loc i f).loc).toNat / 16 ^ (pos i f % 2) % 16 = code i f)
  ∧ (n = 4 → ∀ i f k, on i f → (∀ j g, on j g → (loc j g).loc = (loc i f).loc → i = j ∧ f = g) →
      (viewByte t t.hart k (loc i f).loc).toNat / 16 ^ (1 - pos i f % 2) % 16
        = (viewByte s s.hart (loc i f).key (loc i f).loc).toNat / 16 ^ (1 - pos i f % 2) % 16)
  ∧ (∀ l k, homeByte t k l = homeByte s k l)

/-- A state that differs by unpublished writes of the hart, VES and the numbers given to writes. -/
def OnlyOwnStores (s t : State) : Prop :=
  t = { s with
        hart := { s.hart with own := t.hart.own, vc := { s.hart.vc with ves := 0 } },
        mem := { s.mem with nextWid := t.mem.nextWid } }

/-- An atomic on one element: operation, its FN number, and the form (R219). -/
def vecAtomic : Instr → Option (Nat × MForm)
  | .vamoswap o vr xb im vo fe fi mk => some (0, indexForm o vr xb im vo fe fi 1 mk)
  | .vamoadd o vr xb im vo fe fi mk => some (1, indexForm o vr xb im vo fe fi 1 mk)
  | .vamoand o vr xb im vo fe fi mk => some (2, indexForm o vr xb im vo fe fi 1 mk)
  | .vamoor o vr xb im vo fe fi mk => some (3, indexForm o vr xb im vo fe fi 1 mk)
  | .vamoxor o vr xb im vo fe fi mk => some (4, indexForm o vr xb im vo fe fi 1 mk)
  | .vamomin o vr xb im vo fe fi mk => some (5, indexForm o vr xb im vo fe fi 1 mk)
  | .vamomax o vr xb im vo fe fi mk => some (6, indexForm o vr xb im vo fe fi 1 mk)
  | .vamominu o vr xb im vo fe fi mk => some (7, indexForm o vr xb im vo fe fi 1 mk)
  | .vamomaxu o vr xb im vo fe fi mk => some (8, indexForm o vr xb im vo fe fi 1 mk)
  | .vamofadd o vr xb im vo fe fi mk => some (9, indexForm o vr xb im vo fe fi 1 mk)
  | .vcas o vr xb im vo fe fi mk => some (10, indexForm o vr xb im vo fe fi 1 mk)
  | _ => none

/-- What an element atomic writes over an old code, and the classes it raises; none where a compare fails (R219). -/
def atomNew (op : Nat) (f : Fmt) (old v nv : Nat) : Option Nat × Flags :=
  let n := f.n
  match op with
  | 0 => (some v, 0)
  | 1 => (some ((old + v) % 2 ^ n), 0)
  | 2 => (some (old &&& v), 0)
  | 3 => (some (old ||| v), 0)
  | 4 => (some (old ^^^ v), 0)
  | 5 => (some (if signedLow n v < signedLow n old then v else old), 0)
  | 6 => (some (if signedLow n old < signedLow n v then v else old), 0)
  | 7 => (some (min old v), 0)
  | 8 => (some (max old v), 0)
  | 9 => let w := addW false (fdecode f old) (fdecode f v)
         let r := fencode f w.1 0 0
         (some r.1, w.2 ||| r.2)
  | _ => (if old = v then some nv else none, 0)

/-- One element atomic at its place: a strong access of its bytes; the old code goes to the element. -/
def atomicAt (op : Nat) (m : MForm) (loc : Nat → Acc) (s : State) (i : Nat) : State :=
  let h := s.hart
  let f := fmt h m.fe
  let v := elem h m.vr.val i f.n
  let nv := elem h (m.vr.val + groupSize h) i f.n
  let p := elemPois h m.vr.val i f.n || (decide (op = 10) && elemPois h (m.vr.val + groupSize h) i f.n) || mpois h m.msk i
  let r := strongAccess s (loc i) (f.n / 8) (fun old => (atomNew op f old v nv).1.map (natLe (f.n / 8))) p
  r.1.onHart (fun h => raise (setElem h m.vr.val i f.n (leNat r.2.1) (r.2.2 || mpois h m.msk i)) i
    (atomNew op f (leNat r.2.1) v nv).2)

/-! ### The array (R102, R103, R251 to R269) -/

/-- A trap when a condition of an array form fails. -/
def failing (bad : Prop) [Decidable bad] (code : Nat) (v : Word) : Option (Nat × Word) := if bad then some (code, v) else none

/-- The MODE register as a word (R69). -/
def modeValue (h : Hart) : Word :=
  word (h.vc.mode.st.toNat + 8 * h.vc.mode.dtgt.toNat + 64 * h.vc.mode.drow.toNat + (if h.vc.mode.chn then 8192 else 0) : Nat)

/-- Packing, rows of a tile and columns (R251). -/
def packFactor (h : Hart) : Nat := 2 ^ h.vc.ashape.pk.toNat
def tileRows (h : Hart) : Nat := 64 * packFactor h
def columns (h : Hart) : Nat := h.vc.ashape.cols.toNat

/-- VILL, and VL above the capacity of an entry (R202). -/
def configRefusal (h : Hart) (ks : List FEnt) : Option (Nat × Word) :=
  (failing (h.vc.vtype.toNat.testBit 63 = true) 0x0003 h.vc.vtype).or
    (failing (∃ k ∈ ks, fmtValid (entry h k) = true ∧ capOf h (fmt h k).n < vlOf h) 0x0003 (word (vlOf h)))

/-- The value and mark of a refused entry (R89); the latch of a tile counts as entry 15 (R258). -/
def entryValue (k : Nat) (disallowed : Bool) : Word := word (k + (if disallowed then 16 else 0) : Nat)

/-- A row form: mrow and mslide with their fields (R259). -/
def rowForm : Instr → Option RowForm
  | .mrow vd a w sc fa fc k => some { vd := vd, vs1 := a, wt := w, sc := sc, fa := fa, fc := fc, msk := k, slide := false, acc := false }
  | .mrowAcc vd a w sc fa fc k => some { vd := vd, vs1 := a, wt := w, sc := sc, fa := fa, fc := fc, msk := k, slide := false, acc := true }
  | .mslide vd a w fa fc k => some { vd := vd, vs1 := a, wt := w, sc := none, fa := fa, fc := fc, msk := k, slide := true, acc := false }
  | .mslideAcc vd a w fa fc k => some { vd := vd, vs1 := a, wt := w, sc := none, fa := fa, fc := fc, msk := k, slide := true, acc := true }
  | _ => none

/-- A block-scaled format that the array admits (R257). -/
def arrayPair (f : Fmt) : Prop := (f.n = 8 ∧ f.blk = 1) ∨ (f.n = 4 ∧ f.blk = 2)

/-- The format a tile was loaded under. -/
def tileFmt (h : Hart) (w : TReg) : Fmt := parseFmt h.vf.td[w.val]

/-- The accumulation is of integers without block scaling (R103, R258). -/
def integers (h : Hart) (fa : FEnt) (f : Fmt) : Prop :=
  ((fmt h fa).isInt = true ∧ (fmt h fa).blk = 0) ∧ f.isInt = true ∧ f.blk = 0

/-- The number of result rows (R260). -/
def resultRows (h : Hart) (m : RowForm) : Nat :=
  if m.slide then (if tileRows h ≤ vlOf h then vlOf h - tileRows h + 1 else 0) else vlOf h / tileRows h

/-- The refusals of a row form, in the order of R269. -/
noncomputable def rowRefusal (h : Hart) (m : RowForm) : Option (Nat × Word) :=
  open Classical in
  let fa := fmt h m.fa
  let w := tileFmt h m.wt
  let fc := fmt h m.fc
  [failing (h.vc.mode.st ≠ 2) 0x0012 (modeValue h), configRefusal h [m.fa, m.fc],
   failing (fmtValid (entry h m.fa) = false) 0x0004 (entryValue m.fa.val false),
   failing (fa.n * packFactor h ≠ 16) 0x0004 (entryValue m.fa.val true),
   failing (fmtValid h.vf.td[m.wt.val] = false) 0x0004 (entryValue 15 false),
   failing (w.n ≠ fa.n) 0x0004 (entryValue m.fa.val true),
   failing (fa.blk ≠ 0 ∧ ¬ (m.sc.isSome = true ∧ arrayPair fa)) 0x0004 (entryValue m.fa.val true),
   failing (w.blk ≠ 0 ∧ ¬ (m.sc.isSome = true ∧ arrayPair w)) 0x0004 (entryValue 15 true),
   failing (fmtValid (entry h m.fc) = false) 0x0004 (entryValue m.fc.val false),
   failing (¬ (if integers h m.fa w then fc.isInt = true ∧ fc.n = 32
      else fc.s = 1 ∧ fc.ew = 8 ∧ fc.fw = 23 ∧ fc.bias = 127 ∧ fc.spv = 0 ∧ fc.blk = 0)) 0x0004 (entryValue m.fc.val true),
   groupRefusal h (m.vd.val, 8, 1), groupRefusal h (m.vs1.val, 14, 1),
   failing (sharesGroup h m.vd.val 1 m.vs1.val 1 = true ∨ ∃ q, m.sc = some q ∧
      ((m.vd.val ≤ q.stream.val ∧ q.stream.val < m.vd.val + groupSize h)
        ∨ (m.vd.val ≤ q.stat.val ∧ q.stat.val < m.vd.val + groupSize h))) 0x0001 8,
   failing (m.slide = false ∧ vlOf h % tileRows h ≠ 0) 0x0003 (word (vlOf h)),
   failing (m.slide = true ∧ capOf h fc.n < resultRows h m * columns h) 0x0003 (word (vlOf h)),
   failing (h.vc.mode.chn = true ∧ (m.slide = true ∨ (m.acc = true ∧ h.vc.ashape.cpos ≠ 0))) 0x0013 6].findSome? id

/-- A value under its block scale where its format has one. -/
def maybeScaled (f : Fmt) (scale : Option Nat) (c : Nat) : WVal :=
  match scale with
  | some b => if f.blk = 0 then fdecode f c else scaledVal f b c
  | none => fdecode f c

/-- The stream operand of row r, position k, and the stationary operand of row k, column c (R257, R259). -/
def streamAt (h : Hart) (m : RowForm) (r k : Nat) : WVal :=
  let f := fmt h m.fa
  let x := if m.slide then r + k else r * tileRows h + k
  maybeScaled f (m.sc.map (fun q => getBits (vreg h q.stream.val) (8 * scaleByte h f m.vs1.val x) 8)) (elem h m.vs1.val x f.n)

def tileAt (h : Hart) (m : RowForm) (k c : Nat) : WVal :=
  let f := tileFmt h m.wt
  maybeScaled f (m.sc.map (fun q => getBits (vreg h q.stat.val) (8 * (k / f.blkLen * columns h + c)) 8))
    (getBits h.vf.w[m.wt.val] ((k * columns h + c) * f.n) f.n)

/-- One group: the exact sum of its products is added to the partial with one rounding, or modulo 2^32 (R102, R103). -/
noncomputable def groupStep (int : Prop) (p : Nat × Flags) (l : List (WVal × WVal)) : Nat × Flags :=
  open Classical in
  if int then
    (((p.1 : Int) + (l.map (fun q => wInt q.1 * wInt q.2)).sum) % (2 : Int) ^ 32 |>.toNat, p.2)
  else
    let g := l.foldl (fun a q => (addW false a (mulW q.1 q.2).1).1) (.zero false)
    match (addW false (fdecode fp32 p.1) g).1 with
    | .nan _ => (0x7FC00000, p.2 ||| fINVALID)
    | .zero z => ((fencode fp32 (.zero z) 0 0).1, p.2 ||| (fencode fp32 (.zero z) 0 0).2)
    | .inf z => ((fencode fp32 (.inf z) 0 0).1, p.2 ||| (fencode fp32 (.inf z) 0 0).2)
    | .fin z a e st => ((fencode fp32 (.fin z a e st) 0 0).1, p.2 ||| (fencode fp32 (.fin z a e st) 0 0).2)

/-- The result of row r, column c: eight groups from the start value (R102, R259, R260). -/
noncomputable def rowResult (h : Hart) (m : RowForm) (r c : Nat) : Nat × Flags :=
  open Classical in
  let int := integers h m.fa (tileFmt h m.wt)
  let g := 8 * packFactor h
  let old := elem h m.vd.val (r * columns h + c) 32
  let p0 := if m.acc then old else 0
  (List.range 8).foldl (fun p j => groupStep int p ((List.range g).map (fun i => (streamAt h m r (g * j + i), tileAt h m (g * j + i) c))))
    (p0, 0)

/-- The pair of tile registers that holds accumulators, and accumulator (a, c) of it (R263). -/
def accPair (w : TReg) : Nat := w.val / 2 * 2

def accumulator (h : Hart) (w : TReg) (a c : Nat) : Nat :=
  let per := 8192 * 2 ^ h.id.vk.toNat / 32
  let i := a * columns h + c
  getBits (h.vf.w.toArray.getD (accPair w + i / per) 0) (i % per * 32) 32

/-- An outer-product form (R263). -/
def outerForm : Instr → Option MaccForm
  | .macc w a b fa fb k => some { wt := w, vs1 := a, vs2 := b, fa := fa, fb := fb, msk := k, zero := false }
  | .maccz w a b fa fb k => some { wt := w, vs1 := a, vs2 := b, fa := fa, fb := fb, msk := k, zero := true }
  | _ => none

/-- The refusals of an outer product, in the order of R269: groups before the parity of WT. -/
def outerRefusal (h : Hart) (m : MaccForm) : Option (Nat × Word) :=
  [failing (h.vc.mode.st ≠ 3) 0x0012 (modeValue h), configRefusal h [m.fa, m.fb],
   failing (fmtValid (entry h m.fa) = false) 0x0004 (entryValue m.fa.val false),
   failing ((fmt h m.fa).n * packFactor h ≠ 16) 0x0004 (entryValue m.fa.val true),
   failing (fmtValid (entry h m.fb) = false) 0x0004 (entryValue m.fb.val false),
   failing ((fmt h m.fb).n * packFactor h ≠ 16) 0x0004 (entryValue m.fb.val true),
   failing ((fmt h m.fa).blk ≠ 0) 0x0004 (entryValue m.fa.val true), failing ((fmt h m.fb).blk ≠ 0) 0x0004 (entryValue m.fb.val true),
   groupRefusal h (m.vs1.val, 14, 1), groupRefusal h (m.vs2.val, 20, 1), failing (m.wt.val % 2 = 1) 0x0001 26,
   failing (vlOf h % 64 ≠ 0) 0x0003 (word (vlOf h))].findSome? id

/-- The outer products of the steps from t0 to t1 added to an accumulator, in groups of g (R102, R263). -/
noncomputable def outerSum (h : Hart) (m : MaccForm) (a c : Nat) (t1 : Nat) : Nat → Nat → Nat → Nat
  | 0, _, p => p
  | k + 1, t0, p =>
    if t1 ≤ t0 then p
    else
      let g := 8 * packFactor h
      let ts := (List.range' t0 (min (t0 + g) t1 - t0)).filter (mbit h m.msk)
      let ps := ts.map (fun t => (wide1 h m.vs1 m.fa (t * 64 + a), wide1 h m.vs2 m.fb (t * columns h + c)))
      outerSum h m a c t1 k (t0 + g) (groupStep (integers h m.fa (fmt h m.fb)) (p, 0) ps).1

/-! ### Tiles, releases and acquires (R124, R274 to R280) -/

/-- Rounded up to a multiple of 64. -/
def up64 (n : Nat) : Nat := (n + 63) / 64 * 64

/-- The fields of a tile descriptor (R123). -/
def tdCols (d : Nat) : Nat := d % 2 ^ 16
def tdRows (d : Nat) : Nat := d / 2 ^ 16 % 2 ^ 16
def tdEntry (d : Nat) : FEnt := ⟨d / 2 ^ 32 % 16, Nat.mod_lt _ (by omega)⟩
def tdLevel (d : Nat) : Nat := d / 2 ^ 36 % 4

/-- The size Z of a tile of a format (R124). -/
def tileBytes (d : Nat) (f : Fmt) : Nat :=
  tdRows d * up64 ((tdCols d * f.n + 7) / 8)
  + (if f.blk = 0 then 0 else tdRows d * up64 ((tdCols d + f.blkLen - 1) / f.blkLen))

/-- The cores whose slices a tile spans (R124). -/
def tileSpan (core lvl : Nat) : List Nat :=
  if lvl = 0 then [core] else if lvl = 1 then List.range' (core / 8 * 8) 8 else List.range 32

/-- The writes that an acquire of the hart orders, the latest first (R278). -/
def orders (s : State) (sc : Scope) : List WRec := s.mem.log.filter (visible s sc s.hart.place (obsWids s s.hart))

/-- The snapshot of an acquire: for each byte, the latest write in coherence order that the scope makes visible (R278), with
the mark of its granule (R387, R388). -/
def SnapshotOf (s : State) (sc : Scope) (l : List SnapByte) : Prop :=
  ∀ loc, l.find? (fun b => b.loc == loc) =
    (s.mem.log.find? (fun w => w.loc == loc && visible s sc s.hart.place (obsWids s s.hart) w)).map
      (fun w => { loc := loc, wid := w.wid, byte := w.byte, pois := snapMark s.mem (orders s sc) (granule w.loc), key := w.key })

/-- The scope's instance of the hart lies on one die (R275). -/
def OneDie (s : State) (sc : Scope) : Prop := sc ≠ .system ∧ (sc = .device → s.pkg.mode = .die)

/-- Nothing delays an acquire at the scope, and it drops no pin. -/
def Calm (s : State) (sc : Scope) : Prop :=
  s.hart.pend = [] ∧ (∀ p ∈ s.hart.bolter.pins, p.2 = true) ∧ OneDie s sc

/-- The hart that an acquire leaves, with its snapshot; `hold` is the time until which it is held, if it is. -/
def acquiredHart (s : State) (sc : Scope) (sn : List SnapByte) (hold : Option Nat) : Hart :=
  { s.hart with
    snap := sn, obs := toldOf s sc s.hart ++ s.hart.obs,
    own := s.hart.own.map (fun o => { o with ov := o.ov && staysOv s sc s.hart o }),
    acqAt := (sc, s.mem.phase) :: s.hart.acqAt,
    phs := match hold with
      | none => { s.hart.phs with las := BitVec.ofNat 3 (scopeNum sc), pcnt := s.hart.phs.pcnt + 1, hold := false }
      | some t => { s.hart.phs with las := BitVec.ofNat 3 (scopeNum sc), hold := true, holdUntil := t, holdKind := 0 } }

/-- The state that an acquire leaves before it retires, or while it is held. -/
def afterAcquire (s : State) (sc : Scope) (sn : List SnapByte) (hold : Option Nat) : State :=
  { s with hart := acquiredHart s sc sn hold, mem := { s.mem with phase := s.mem.phase + 1 } }

/-- The instruction completes as an acquire at the scope: of the state `u`, which is `s` with its other effects. -/
def AcquireDone (i : Instr) (s u : State) (sc : Scope) : Prop :=
  ∃ sn, SnapshotOf u sc sn ∧ exec i s = .next (retire s (afterAcquire u sc sn none))

/-- The release that the hart hands over at a scope (R274, R277): its own writes, those of its snapshot and those of the
copies it has observed. -/
def handedOver (s : State) (sc : Scope) (after : RelThen) : PendRel :=
  { scope := sc, set := s.hart.own.map (·.wid) ++ s.hart.snap.map (·.wid) ++ obsWids s s.hart,
    remote := if sc = .system then s.hart.rwrites else [], after := after,
    sig := if s.hart.st.red then phaseSig s else 0, since := s.cycle, agreed := !s.hart.st.red,
    pins := s.hart.bolter.pins }

/-- The state with that release pending; a boundary of its own counts in PCNT. -/
def releasing (s : State) (sc : Scope) (after : RelThen) (count : Bool) : State :=
  { s with hart := { s.hart with
    pend := s.hart.pend ++ [handedOver s sc after],
    rwrites := if sc = .system then [] else s.hart.rwrites.map (fun w => { w with signed := true }),
    phs := { s.hart.phs with pcnt := if count then s.hart.phs.pcnt + 1 else s.hart.phs.pcnt,
                             lrs := BitVec.ofNat 3 (scopeNum sc), pubp := true } } }

/-- The state in which the release of the present instruction has been made. -/
def halfDone (s : State) : State := { s with hart := { s.hart with st := { s.hart.st with half := true } } }

/-- The state in which the hart sleeps in a wait. -/
def sleeping (s : State) (k : WaitKind) : State := { s with hart := { s.hart with st := { s.hart.st with asleep := some k } } }

/-- A level operand names a gang level of the hart's launch (R273). -/
def GangLevel (s : State) (n : Nat) (l : Launch) (lv : Level) : Prop :=
  findLaunch s s.hart.id.launch = some l ∧ 0 < n ∧ l.levels[n]? = some lv
  ∧ ∃ m lm, n ≤ m ∧ l.levels[m]? = some lm ∧ lm.gang = true

/-- The forms that take a level (R273, R354). -/
def levelForm : Instr → Option Nat
  | .phaseL n | .phaseRelL n | .phaseAcqL n | .barArrive _ n | .barWait _ n | .barSync n => some n.val
  | _ => none

/-! ### The Bolter's structures (R294 to R305) -/

/-- The states differ in nothing that a translation of the hart held in its TLB depends on. -/
def Still (s t : State) : Prop :=
  t.mem.tlb = s.mem.tlb ∧ t.mem.keys = s.mem.keys ∧ t.ctxs = s.ctxs ∧ t.pkg = s.pkg ∧ t.hart.id = s.hart.id

/-- An address lies at a place that is not in a DEV page, and the place does not hang on what memory holds. -/
def Lies (s : State) (ea align : Nat) (u : Use) (a : Acc) : Prop :=
  a.dev = false ∧ ∀ t, Still s t → globalCheck t t.hart (word ea) align u = .ok a

/-- No copy of a stream races with anything. -/
def NoCopies (s : State) : Prop := s.ports = [] ∧ s.copies = []

/-- The hart reads these bytes of a structure, as a load, and they are not poisoned. -/
def ReadsAt (s : State) (ea align n : Nat) (bs : List Byte) : Prop :=
  ∃ a, Lies s ea align .read a ∧ viewPois s s.hart a.loc n = false ∧ viewBytes s s.hart a.key a.loc n = bs

/-- A field of a sequence-head descriptor: n bits from a bit on (R294). -/
def hf (v off n : Nat) : Nat := v / 2 ^ off % 2 ^ n

/-- The descriptor the Bolter holds. -/
def held (h : Hart) : Nat := h.bolter.desc.toNat

/-- The descriptor breaks none of the conditions of R295. -/
def HeadOk (v : Nat) : Prop :=
  1 ≤ hf v 384 9 ∧ hf v 384 9 ≤ 256 ∧ 1 ≤ hf v 393 5 ∧ hf v 393 5 ≤ 16 ∧ hf v 398 4 ≤ 12 ∧ hf v 398 4 ≤ hf v 393 5
  ∧ hf v 402 5 ≤ 16 ∧ hf v 407 9 = 0 ∧ hf v 416 16 ≠ 0 ∧ hf v 416 16 % 4 = 0 ∧ hf v 432 16 ≠ 0 ∧ hf v 432 16 % 4 = 0
  ∧ hf v 0 64 % 8 = 0 ∧ hf v 64 64 % 64 = 0 ∧ hf v 128 64 % 16 = 0 ∧ hf v 192 64 % 16 = 0 ∧ hf v 256 64 % 32 = 0
  ∧ ∀ o ∈ [0, 64, 128, 192, 256, 320], hf v o 64 < 2 ^ 48

/-- The refusals that `hsig` and `kst` share, in order (R305). -/
noncomputable def keyRefusals (h : Hart) (vs : VReg) (fe : FEnt) : List (Option (Nat × Word)) :=
  open Classical in
  [configRefusal h [fe], groupRefusal h (vs.val, 8, 1), failing (fmtValid (entry h fe) = false) 0x0004 (entryValue fe.val false),
   failing ((fmt h fe).blk ≠ 0) 0x0004 (entryValue fe.val true), failing (h.bolter.v = false) 0x0015 1]

/-- The refusals that `bgath` and `bxlat` share after their groups (R305, R310). -/
noncomputable def positionRefusals (h : Hart) : List (Option (Nat × Word)) :=
  open Classical in
  let k := vtFmt h
  [failing (fmtValid (entry h k) = false) 0x0004 (entryValue k.val false),
   failing (¬ ((fmt h k).n = 32 ∧ (fmt h k).spv = 4 ∧ (fmt h k).blk = 0)) 0x0004 (entryValue k.val true),
   failing (h.bolter.v = false) 0x0015 1]

/-- A key element in a signature: NaN and infinities count as zero (R301). -/
def finiteOrZero : WVal → WVal
  | .nan _ | .inf _ => .zero false
  | w => w

/-- Column j of the sum of R301 over integers: the elements in some unit, with the signs of the projection. -/
def projected (h : Hart) (u : Nat → Int) (dk j : Nat) : Int :=
  ((List.range dk).map (fun i => if (h.bolter.cols.toArray.getD j 0).getLsbD i then - u i else u i)).sum

/-- Position p's block-table entry and its page descriptor's address halves, as the hart reads them (R296). -/
def BlockOf (s : State) (p desc ka va : Nat) : Prop :=
  ∃ e b, ReadsAt s (hf (held s.hart) 0 64 + 8 * (p / 2 ^ hf (held s.hart) 402 5)) 8 8 e ∧ leNat e = desc
    ∧ desc ≠ 0 ∧ desc % 32 = 0 ∧ desc < 2 ^ 48 ∧ ReadsAt s desc 32 16 b ∧ leNat (b.take 8) = ka ∧ leNat (b.drop 8) = va

/-- The positions that a bucket page lists (R302). -/
def PageLists (b : List Byte) (p : Nat) : Prop := ∃ w, w < 15 ∧ leNat ((b.drop (4 * w)).take 4) = p + 1

/-- An instruction outside convoys that completes with a state of its own: it retires with VES zero (R305). -/
def BolterDone (i : Instr) (s t : State) : Prop :=
  exec i s = .next (retire s (t.onHart (fun h => { h with vc := { h.vc with ves := 0 } })))

/-! ### Streams and the timetable (R317 to R340) -/

/-- The hart reads these bytes of a structure as a load that races with no copy, and they are not poisoned. -/
def ReadsClear (s : State) (ea align n : Nat) (bs : List Byte) : Prop :=
  ∃ a, Lies s ea align .read a ∧ (∀ j, j < n → copyRaces s (a.loc + j) false = false)
    ∧ viewPois s s.hart a.loc n = false ∧ viewBytes s s.hart a.key a.loc n = bs

/-- A ring's structure lies at a place that is not in a DEV page, and the place does not hang on what memory holds (R139). -/
def RingLies (s : State) (ea : Nat) (u : Use) (a : Acc) : Prop :=
  a.dev = false ∧ ∀ t, Still s t → ringCheck t (word ea) u = .ok a

/-- The hart reads a ring descriptor under the device key, racing with no copy, and it is not poisoned. -/
def ReadsRing (s : State) (ea : Nat) (bs : List Byte) : Prop :=
  ∃ a, RingLies s ea .read a ∧ (∀ j, j < 32 → copyRaces s (a.loc + j) false = false)
    ∧ viewPois s s.hart a.loc 32 = false ∧ viewBytes s s.hart a.key a.loc 32 = bs

/-- A ring descriptor of a page that is not DEV breaks R328. -/
def RingBroken (b : List Byte) : Prop :=
  leNat (b.drop 12 |>.take 4) ≠ 0 ∨ leNat (b.drop 8 |>.take 4) = 0 ∨ 16 < leNat (b.drop 8 |>.take 4)
  ∨ leNat (b.take 8) % (32 * 2 ^ leNat (b.drop 8 |>.take 4)) ≠ 0

/-- The reason for which a command is refused, the first that applies (R324): `vp` for the vector port, `ix` with an index
group, and `most` the elements that the group holds. -/
noncomputable def streamReason (d : Nat) (vp ix : Bool) (most : Nat) (ring : List Byte) : Option Nat :=
  open Classical in
  let cnt := fun k => hf d (256 + 32 * k) 32
  let flatStr := fun at_ => ∀ k, k < 4 → hf d (at_ + 32 * k) 32 = 0
  let esz := hf d 196 3; let nf := hf d 199 3; let dir := hf d 202 1; let mc := hf d 203 1
  [(decide (d / 2 ^ 704 ≠ 0 ∨ hf d 205 19 ≠ 0 ∨ hf d 232 24 ≠ 0), 1),
   (decide ((∃ k, k < 4 ∧ cnt k = 0) ∨ 2 ^ 32 ≤ cnt 0 * cnt 1 * cnt 2 * cnt 3), 2),
   (decide (5 ≤ esz ∨ (vp = true ∧ 2 < esz)), 3),
   (decide (mc = 1 ∧ (hf d 194 2 ≠ 1 ∨ hf d 224 8 = 0 ∨ 0xFFF < hf d (64 + 40) 12 + 7 ∨ vp = true)), 4),
   (decide ((vp = false ∧ (nf ≠ 0 ∨ dir = 1)) ∨ (ix = true ∧ dir = 1)
      ∨ (vp = true ∧ (if dir = 1 then hf d 0 64 ≠ 0 ∨ ¬ flatStr 384 else hf d 64 64 ≠ 0 ∨ ¬ flatStr 512))), 5),
   (decide (vp = true ∧ most < cnt 0 * cnt 1 * cnt 2 * cnt 3), 6),
   (decide (RingBroken ring), 7)].findSome? (fun p => if p.1 then some p.2 else none)

/-- The strong access of a hart to a range meets nothing that disturbs it: no overlap check, no racing access or copy, no store
of its own that is not yet performed. -/
def Undisturbed (s : State) (loc n : Nat) : Prop :=
  s.pkg.setOvl = false ∧ racedBytes s s.hart loc n = [] ∧ (∀ o ∈ s.hart.own, ¬ (loc ≤ o.loc ∧ o.loc < loc + n))
  ∧ ∀ j w, j < n → copyRaces s (loc + j) w = false

/-- The marker state of the hart in focus. -/
def myMill (s : State) : Mill := findMill s s.hart.id.launch s.hart.id.die
def myMarker (s : State) : Marker := (myMill s).marker s.hart.id.flat

/-- A `tmark n` starts a new pass (R336). -/
def startsPass (k : Marker) (n : Nat) : Prop := k.marker = none ∨ ∃ m, k.marker = some m ∧ n < m

/-- The entries of a Millrace's tables have joined the actions of their pass, or are well formed; all but one are. -/
def CleanBut (s : State) (ctx : Nat) (m : Mill) (but : Option (Nat × Nat)) : Prop :=
  ∀ p fs i e, m.table p = some fs → fs[i]? = some e → but ≠ some (p, i) → (m.act p i).isSome = true ∨ entCause s ctx m.die e = none

/-- A line of a range is kept by an owner in t, as far as the 12 ways of its set allow (R133, R333). -/
def KeptUpTo12 (s t : State) (l : Nat) (kept : Prop) : Prop :=
  kept ∨ 12 ≤ ((keptLines t).filter (fun m => lineSet s m == lineSet s l)).length ∨ cacheSets s (lineSet s l).1 = 0

/-- No set comes to keep more than 12 ways. -/
def WaysHold (s t : State) : Prop :=
  ∀ z, ((keptLines s).filter (fun m => lineSet s m == z)).length ≤ 12 → ((keptLines t).filter (fun m => lineSet s m == z)).length ≤ 12

/-- The scalar context that a staged hart is to take is clear: its core is not fenced, and no hart is on it that still runs,
waits or has its registers there (R52, R384). -/
def ContextClear (s : State) (x : Hart) : Prop :=
  (findCore s x.id.die x.id.core).fenced = false
  ∧ ∀ y ∈ allHarts s, sameCtx y x = true → y.onCore = true → ∃ f c, y.st.life = .leaving f c

/-- The staged harts of an instance run in t, all from one cycle on: none before its bank is loaded and the outgoing hart has
been stopped for 96 cycles; where a context that one of them takes is not clear, none does (R52, R54, R332, R351). -/
def SwitchedIn (s t : State) (lid gi least : Nat) : Prop :=
  let staged := fun (x : Hart) => x.id.launch = lid ∧ x.id.ginst = gi ∧ x.st.life = .staged
  ((∃ x ∈ allHarts s, staged x ∧ ¬ ContextClear s x) → t = s)
  ∧ ((∀ x ∈ allHarts s, staged x → ContextClear s x) → ∃ go,
      (least ≤ go ∧ (∀ x ∈ allHarts s, staged x → readyFrom s x ≤ go) ∧ (go = least ∨ ∃ x ∈ allHarts s, staged x ∧ readyFrom s x = go))
      ∧ t = mapHarts s (fun x => if x.id.launch = lid ∧ x.id.ginst = gi ∧ x.st.life = .staged then
          { x with st := { x.st with life := .placed, issueFrom := go, valid := 0, uiDue := false, lastRetire := nsNow s,
                                     outCyc := ((outgoing s x).map regCycles).getD 0 },
                   ui := { x.ui with pend := x.ui.pend || x.st.uiDue } }
        else x))

/-- The addresses of a loop in the layout of a code address (R11, R79). -/
def codeLoop (l : LoopRegs) : LoopRegs :=
  { l with lb := codeBits l.lb, le := codeBits l.le, lbP := l.lbP.map codeBits, leP := l.leP.map codeBits }

/-- The window of entry i closes by a `tmark n` of the hart (R337, R338): it serves the hart, its deadline is passed, and in
the pass the marker then belongs to its window is open. -/
def Passes (k : Marker) (n i : Nat) (e : TTEnt) : Prop :=
  e.serves k.flat = true ∧ e.dline ≤ n ∧ (startsPass k n ∨ ((∀ m, k.marker = some m → m < e.dline) ∧ k.isOpen i = true))

end Sys2Proof.Machine
end

