-- ==== Sys2Proof/Certificates/Slice0/Obligations.lean ====
section
/-! DEFINITION. The statements for the provers. -/

open Sys2Proof Sys2Proof.Machine

/-! ### Encoding -/

/-- Words written out from the encodings of the specification decode to the instructions they stand for. -/
def Obligations.SpecWordsDecode : Prop :=
  decode 0x00614501#96 = .ok (.add 5 5 (.reg 6))
  ∧ decode 0x1002C033#96 = .ok (.loop0 11 4 0)
  ∧ decode 0x910040000000018540#96 = .ok (.vcfgi 5 6 0x91)
  ∧ decode 0x0000000100028041#96 = .ok (.vld 0 10 0 1 0 0)
  ∧ decode 0x0000004000000080#96 = .ok (.amodeWs 1)
  ∧ decode 0x0008000000000080#96 = .ok .vmode
  ∧ decode 0x0000004000001082#96 = .ok (.mrow 16 0 0 none 1 0 0)
  ∧ decode 0#96 = .err .opc

/-- Every well-formed instruction that has an encoding is read back from it, with every operand. -/
def Obligations.DecodeEncode : Prop :=
  ∀ (i : Instr) (w : BitVec 96), i.wf = true → encode i = some w → decode w = .ok i

/-- Every word that decodes is the encoding of the instruction read from it, which is well-formed: no bit of a word is
ignored. -/
def Obligations.EncodeDecode : Prop :=
  ∀ (w : BitVec 96) (i : Instr), decode w = .ok i → i.wf = true ∧ encode i = some w

/-! ### The step -/

/-- The focus hart's turn comes next and nothing goes before its next instruction: the agenda is empty, the hart is placed,
alone, awake and due nothing, and its clock runs. -/
def ReadyToIssue (s : State) : Prop :=
  s.agenda = [] ∧ s.hart.st.life = .placed ∧ s.hart.st.red = false ∧ clockPaused s s.hart.id.die = false
  ∧ s.hart.phs.hold = false ∧ s.hart.convoy = none ∧ s.hart.vc.mode.st ≠ 1 ∧ stopNow s.hart = false
  ∧ drainRuns s.hart = false ∧ s.hart.st.asleep = none ∧ uiReady s.hart = false ∧ s.hart.st.issueFrom ≤ s.cycle

/-- Control is in the line at the pc with these bits, or enters it: it is fetched without a fault and passes its checks (R147). -/
def InLine (s : State) (b : BitVec 512) : Prop :=
  heldLine s.hart (lineOf s.hart.pc) = some b
  ∨ (heldLine s.hart (lineOf s.hart.pc) = none ∧ ∃ a, fetchChk s s.hart (lineOf s.hart.pc) = .ok a
      ∧ fetchLine s s.hart (lineOf s.hart.pc) a = b ∧ parityBad b = none ∧ lineFault b = none)

/-- The state with control in that line. -/
def entered (s : State) (b : BitVec 512) : State := s.onHart (enterLine (lineOf s.hart.pc) b)

/-- The pc names a slot, its line may be executed and admits the entry at its slot, and the slot holds the word `w`. -/
def FetchesWord (s : State) (b : BitVec 512) (w : BitVec 96) : Prop :=
  s.hart.pc.toNat % 8 ≤ 4 ∧ s.hart.pc.toNat / 8 % 8 = 0 ∧ InLine s b
  ∧ (tgtBit b (slotOf s.hart.pc) = true ∨ s.hart.st.entry = none) ∧ slotWord b (slotOf s.hart.pc) = w

/-- A step of a hart that is ready runs the instruction decoded at its pc, and one cycle passes: outside convoys, for a member
of class SOLO, and for a member that is alone in its convoy. A turn of an engine runs the step that the agenda names. Of turns
in one cycle, a write of a new mode goes first, and harts go in ascending order of die, core and hart number. Which turn comes
next otherwise is the model's choice (log 3), and so is the gathering of convoys (log 9). -/
def Obligations.StepRunsDecoded : Prop :=
  (∀ (s : State) (b : BitVec 512) (w : BitVec 96) (i : Instr),
    ReadyToIssue s → FetchesWord s b w → decodeFor s.hart w = .ok i → regsBusy (entered s b) i = false →
    ((wordClass w = none ∧ cendBit b (slotOf s.hart.pc) = false)
      ∨ wordClass w = some .solo
      ∨ (∃ c, wordClass w = some c ∧ c ≠ .solo ∧ cendBit b (slotOf s.hart.pc) = true)) →
    step s = mapNext nextCycle (exec i (entered s b)))
  ∧ (∀ (s : State) (t0 : Turn) (r0 : List Turn) (dt : Nat) (r : List Turn) (i : Instr),
    s.agenda = t0 :: r0 → nextTurn s t0 r0 = (⟨dt, .event i⟩, r) → isEvent i = true →
    leftToPair { s with agenda := r, cycle := s.cycle + dt } i = false →
    step s = mapNext nextFree (exec i { s with agenda := r, cycle := s.cycle + dt }))
  ∧ (∀ (s : State) (t : Turn) (r : List Turn), (∀ u ∈ r.head?, u.dt ≠ 0) → nextTurn s t r = (t, r))
  ∧ (∀ (s : State) (dt u v : Nat) (r : List Turn) (h g : Hart), (∀ x ∈ r.head?, x.dt ≠ 0) →
    findHart s u = some h → findHart s v = some g → h.id.core < 64 → g.id.core < 64 → h.id.hnum < 64 → g.id.hnum < 64 →
    (writesMode { s with cycle := s.cycle + dt } (.run v) = true →
      writesMode { s with cycle := s.cycle + dt } (.run u) = false →
      nextTurn s ⟨dt, .run u⟩ (⟨0, .run v⟩ :: r) = (⟨dt, .run v⟩, ⟨0, .run u⟩ :: r))
    ∧ (writesMode { s with cycle := s.cycle + dt } (.run v) = false →
      writesMode { s with cycle := s.cycle + dt } (.run u) = false →
      (g.id.die < h.id.die ∨ (g.id.die = h.id.die ∧ (g.id.core < h.id.core
        ∨ (g.id.core = h.id.core ∧ g.id.hnum < h.id.hnum)))) →
      nextTurn s ⟨dt, .run u⟩ (⟨0, .run v⟩ :: r) = (⟨dt, .run v⟩, ⟨0, .run u⟩ :: r)))

/-- What a slot that cannot issue raises, in the order of the checks: a bad line on entry to it, an entry at a slot without its
TGT bit, and a word that does not decode (R146, R147, R153); a line that control is in is not checked again. -/
def Claim.SlotTraps : Prop :=
  ∀ (s : State) (b : BitVec 512), ReadyToIssue s → s.hart.pc.toNat % 8 ≤ 4 → s.hart.pc.toNat / 8 % 8 = 0 →
    (∀ a i, heldLine s.hart (lineOf s.hart.pc) = none → fetchChk s s.hart (lineOf s.hart.pc) = .ok a →
        fetchLine s s.hart (lineOf s.hart.pc) a = b → parityBad b = none → lineFault b = some i →
        step s = .next (nextCycle (takeTrap s 0x0001 (word i))))
    ∧ (∀ v, InLine s b → tgtBit b (slotOf s.hart.pc) = false → s.hart.st.entry = some v →
        step s = .next (nextCycle (takeTrap (entered s b) 0x0006 v)))
    ∧ (InLine s b → (tgtBit b (slotOf s.hart.pc) = true ∨ s.hart.st.entry = none) →
        (decode (slotWord b (slotOf s.hart.pc)) = .err .opc ∨ decode (slotWord b (slotOf s.hart.pc)) = .err .fn →
          step s = .next (nextCycle (takeTrap (entered s b) 0x0001 ((slotWord b (slotOf s.hart.pc)).setWidth 64))))
        ∧ ∀ n, decodeFor s.hart (slotWord b (slotOf s.hart.pc)) = .err (.reserved n) →
          step s = .next (nextCycle (takeTrap (entered s b) 0x0001 (word n))))

/-- What a hart decodes is what the word decodes to, but for `vcvtbs`: a scale type other than 0 without SCK 1 in FD is a
reserved field of it, checked with the others (R153, R238). -/
def Claim.DecodeForHart : Prop :=
  ∀ (h : Hart) (w : BitVec 96),
    ((w.toNat % 256 ≠ 0x4F ∨ w.toNat / 2 ^ 54 % 256 ≠ 1) → decodeFor h w = decode w)
    ∧ ∀ vd vs1 vs3 fd fa mk rm ty, decode w = .ok (.vcvtbs vd vs1 vs3 fd fa mk rm ty) →
        decodeFor h w = if (fmt h fd).sck ≠ 1 ∧ ty.val ≠ 0 then .err (.reserved (64 + trailingZeros ty.val)) else decode w

/-- The traps of a slot that cannot issue, and what a hart decodes. -/
def Obligations.FetchTraps : Prop := Claim.SlotTraps ∧ Claim.DecodeForHart

/-! ### Reset and memory -/

/-- The machine right after package reset: memory canonical and every byte of it zero outside the event area's two fields, no
hart, no context, mode ONE and no key slot in use. -/
def Obligations.ResetState : Prop :=
  MemOk State.reset
  ∧ (∀ a : Nat, a < 0xFFFF80002 ∨ 0xFFFF80009 ≤ a → cellGet State.reset.mem.cells a = 0)
  ∧ State.reset.hart.st.life = .absent ∧ State.reset.ctxs = [] ∧ State.reset.pkg.mode = .one ∧ State.reset.mem.keys = []
  ∧ (∀ r : XReg, getX State.reset.hart r = 0)
  ∧ vlOf State.reset.hart = 0 ∧ State.reset.hart.vc.vmt = 0 ∧ State.reset.hart.vc.ves = 0
  ∧ State.reset.hart.vc.sfth = 0xC2AF0000 ∧ State.reset.hart.vf.m[0] = BitVec.allOnes 65536
  ∧ ∀ d, timeOn State.reset d = 0

/-- Every step keeps the canonical form of memory. -/
def Obligations.StepKeepsMemory : Prop := ∀ s t : State, MemOk s → step s = .next t → MemOk t

/-- A write of bytes at their home: each byte then reads back under the key of the write; no cell outside the range and the
granules it touches differs; and a granule that already held the key keeps its other bytes under every key. -/
def Claim.HomeReadAfterWrite : Prop :=
  ∀ (s : State) (k : KeyTag) (loc : Nat) (bs : List Byte) (p : Bool), MemOk s → (isTile loc = true ∨ loc + bs.length ≤ 2 ^ 64) →
    (∀ j (hj : j < bs.length), homeByte (putHome s k loc bs p) k (loc + j) = bs[j])
    ∧ (∀ a, (∀ j, j < bs.length → granule a ≠ granule (loc + j)) →
        ∀ k', homeByte (putHome s k loc bs p) k' a = homeByte s k' a)
    ∧ (∀ a, (a < loc ∨ loc + bs.length ≤ a) → (isTile loc = true ∨ keyOfGran s.mem (granule a) = some k) →
        ∀ k', homeByte (putHome s k loc bs p) k' a = homeByte s k' a)

/-- A plain store of a hart (the model's shared operation): it reads its own bytes back under any key, sees every other byte as before, and nothing has
reached a home. -/
def Claim.OwnStoreReadsBack : Prop :=
  ∀ (s : State) (k k' : KeyTag) (loc va : Nat) (bs : List Byte) (p : Bool),
    (∀ j (hj : j < bs.length), viewByte (ownStore s k loc va bs p) (ownStore s k loc va bs p).hart k' (loc + j) = bs[j])
    ∧ (∀ a, (a < loc ∨ loc + bs.length ≤ a) →
        viewByte (ownStore s k loc va bs p) (ownStore s k loc va bs p).hart k' a = viewByte s s.hart k' a)
    ∧ (∀ a, homeByte (ownStore s k loc va bs p) k' a = homeByte s k' a)

/-- A granule that was last written under another key reads as a free value, and one that is zero-filled reads as zero
(R139, R140). -/
def Claim.KeysOfGranules : Prop :=
  ∀ (s : State) (k : KeyTag) (loc : Nat), isTile loc = false →
    (keyOfGran s.mem (granule loc) = none → homeByte s k loc = 0)
    ∧ (∀ k', keyOfGran s.mem (granule loc) = some k' → k' ≠ k → homeByte s k loc = Config.freeBits 8 s.free loc)
    ∧ (keyOfGran s.mem (granule loc) = some k → homeByte s k loc = cellGet s.mem.cells loc)

/-- Memory: a write at the home reads back and leaves every other byte, a granule is read under its key, and a plain store is
seen by its hart alone. -/
def Obligations.HomeMemory : Prop := Claim.HomeReadAfterWrite ∧ Claim.KeysOfGranules ∧ Claim.OwnStoreReadsBack

/-- A strong access of the focus hart, with no racing access of another range and no racing copy: it answers the bytes at the home after the
hart's own earlier stores to them, and what it writes is there afterwards and in the hart's view. -/
def Claim.StrongAccess : Prop :=
  ∀ (s : State) (a : Acc) (n : Nat) (f : Nat → Option (List Byte)) (p : Bool), MemOk s → 0 < n → 64 % n = 0 → a.loc % n = 0 →
    a.loc + n ≤ 2 ^ 64 → racedBytes s s.hart a.loc n = [] → (∀ j w, j < n → copyRaces s (a.loc + j) w = false) →
    (∀ o ∈ s.hart.own, o.done = false → ¬ (a.loc ≤ o.loc ∧ o.loc < a.loc + n)) →
    (strongAccess s a n f p).2.1 = homeBytes s a.key a.loc n
    ∧ (f (leNat (homeBytes s a.key a.loc n)) = none →
        (∀ k b, homeByte (strongAccess s a n f p).1 k b = homeByte s k b)
        ∧ (strongAccess s a n f p).1.hart = s.hart)
    ∧ (∀ bs, f (leNat (homeBytes s a.key a.loc n)) = some bs → bs.length = n →
        (∀ j (hj : j < bs.length), homeByte (strongAccess s a n f p).1 a.key (a.loc + j) = bs[j]
          ∧ ∀ k, viewByte (strongAccess s a n f p).1 (strongAccess s a n f p).1.hart k (a.loc + j) = bs[j])
        ∧ (∀ b k, granule b ≠ granule a.loc → homeByte (strongAccess s a n f p).1 k b = homeByte s k b)
        ∧ (∀ b k, (b < a.loc ∨ a.loc + n ≤ b) → keyOfGran s.mem (granule a.loc) = some a.key →
            homeByte (strongAccess s a n f p).1 k b = homeByte s k b)
        ∧ (∀ b k, (b < a.loc ∨ a.loc + n ≤ b) →
            (granule b ≠ granule a.loc ∨ keyOfGran s.mem (granule a.loc) = some a.key) →
            viewByte (strongAccess s a n f p).1 (strongAccess s a n f p).1.hart k b = viewByte s s.hart k b))

/-- An own store that is not yet performed is performed, whole, by the strong access before it reads (R181, R184). -/
def Claim.OwnStoresBeforeStrong : Prop :=
  ∀ (s : State) (a : Acc) (n : Nat) (p : Bool), MemOk s → 0 < n → 64 % n = 0 → a.loc % n = 0 → a.loc + n ≤ 2 ^ 64 →
    racedBytes s s.hart a.loc n = [] → (∀ j w, j < n → copyRaces s (a.loc + j) w = false) →
    (s.hart.own.map (·.wid)).Nodup → (∀ o ∈ s.hart.own, o.ov = true) →
    (∀ j, j < n → ∃ o ∈ s.hart.own, o.loc = a.loc + j) →
    (∀ o ∈ s.hart.own, a.loc ≤ o.loc → o.loc < a.loc + n → o.done = false) →
    (∀ o ∈ s.hart.own, granule o.loc = granule a.loc → o.key = a.key) →
    (strongAccess s a n (fun _ => none) p).2.1 = viewBytes s s.hart a.key a.loc n
    ∧ ∀ o ∈ s.hart.own, ∀ q ∈ s.hart.own, a.loc ≤ q.loc → q.loc < a.loc + n → o.acc = q.acc →
        ∀ x ∈ (strongAccess s a n (fun _ => none) p).1.hart.own, x.wid = o.wid → x.done = true

/-- Strong accesses: the old bytes at the home after the hart's own earlier stores, the write, and what stays. -/
def Obligations.StrongAccesses : Prop := Claim.StrongAccess ∧ Claim.OwnStoresBeforeStrong

/-! ### Scalar registers and retirement -/

/-- The scalar file: x0 reads as zero and a write to it is discarded; a write is read back with its poison mark and leaves
every other register; and x56 to x63 are one copy while ACT is 0 and another while it is 1. -/
def Obligations.ScalarRegisters : Prop :=
  ∀ (h : Hart) (r q : XReg) (v : Word) (p : Bool),
    getX h 0 = 0 ∧ poisX h 0 = false ∧ setXH h 0 v p = h
    ∧ (r ≠ 0 → getX (setXH h r v p) r = v ∧ poisX (setXH h r v p) r = p)
    ∧ (q ≠ r → getX (setXH h r v p) q = getX h q ∧ poisX (setXH h r v p) q = poisX h q)
    ∧ (56 ≤ r.val → ∀ b, b ≠ h.ui.act →
        getX { setXH h r v p with ui := { h.ui with act := b } } r = getX { h with ui := { h.ui with act := b } } r)
    ∧ (r.val < 56 → ∀ b, getX { h with ui := { h.ui with act := b } } r = getX h r)

/-- What the retirement of an instruction in a slot does: it goes on in sequence when no end check is made; a count above 1
falls by one and goes back to LB, loop 1 before loop 0; a count of 1 falls to zero, and then loop 0 is checked; and a
loop-back beyond the address range takes the address fault at the instruction as it stood before (R190, R186). -/
def Claim.RetirementAndLoops : Prop :=
  ∀ s0 s : State,
    (NoEnd s.hart → ∃ h, retire s0 s = { s with hart := h } ∧ OnlyRetired (nsNow s) s.hart h
      ∧ h.pc = nextSlot s.hart.pc ∧ h.st.entry = none ∧ h.loop0 = s.hart.loop0 ∧ h.loop1 = s.hart.loop1)
    ∧ (EndsAt s.hart.loop1 s.hart.pc → 1 < s.hart.loop1.lc.toNat → EndInRange s.hart →
      ∃ h, retire s0 s = { s with hart := h } ∧ OnlyRetired (nsNow s) s.hart h
        ∧ h.pc = s.hart.loop1.lbP.getD s.hart.loop1.lb ∧ h.st.entry = some s.hart.pc ∧ h.loop0 = s.hart.loop0
        ∧ h.loop1.lc = s.hart.loop1.lc - 1)
    ∧ (EndsAt s.hart.loop1 s.hart.pc → s.hart.loop1.lc = 1 → EndsAt s.hart.loop0 s.hart.pc → 1 < s.hart.loop0.lc.toNat →
      EndInRange s.hart →
      ∃ h, retire s0 s = { s with hart := h } ∧ OnlyRetired (nsNow s) s.hart h
        ∧ h.pc = s.hart.loop0.lbP.getD s.hart.loop0.lb ∧ h.loop1.lc = 0 ∧ h.loop0.lc = s.hart.loop0.lc - 1)
    ∧ (EndsAt s.hart.loop1 s.hart.pc → s.hart.loop1.lc = 1 → ¬ EndsAt s.hart.loop0 s.hart.pc →
      ∃ h, retire s0 s = { s with hart := h } ∧ OnlyRetired (nsNow s) s.hart h
        ∧ h.pc = nextSlot s.hart.pc ∧ h.loop1.lc = 0 ∧ h.loop0 = s.hart.loop0)
    ∧ (¬ EndsAt s.hart.loop1 s.hart.pc → EndsAt s.hart.loop0 s.hart.pc → s.hart.loop0.lc = 1 →
      ∃ h, retire s0 s = { s with hart := h } ∧ OnlyRetired (nsNow s) s.hart h
        ∧ h.pc = nextSlot s.hart.pc ∧ h.loop0.lc = 0 ∧ h.loop1 = s.hart.loop1)
    ∧ (¬ EndsAt s.hart.loop1 s.hart.pc → EndsAt s.hart.loop0 s.hart.pc → 1 < s.hart.loop0.lc.toNat → EndInRange s.hart →
      ∃ h, retire s0 s = { s with hart := h } ∧ OnlyRetired (nsNow s) s.hart h
        ∧ h.pc = s.hart.loop0.lbP.getD s.hart.loop0.lb ∧ h.st.entry = some s.hart.pc ∧ h.loop1 = s.hart.loop1
        ∧ h.loop0.lc = s.hart.loop0.lc - 1)
    ∧ (EndsAt s.hart.loop1 s.hart.pc → 1 < s.hart.loop1.lc.toNat → beyond (s.hart.loop1.lbP.getD s.hart.loop1.lb) →
      retire s0 s = takeTrap s0 0x0008 (s.hart.loop1.lbP.getD s.hart.loop1.lb))
    ∧ (¬ EndsAt s.hart.loop1 s.hart.pc → EndsAt s.hart.loop0 s.hart.pc → 1 < s.hart.loop0.lc.toNat →
      beyond (s.hart.loop0.lbP.getD s.hart.loop0.lb) → retire s0 s = takeTrap s0 0x0008 (s.hart.loop0.lbP.getD s.hart.loop0.lb))


/-! ### Scalar results -/

/-- Each instruction of majors 0x01 and 0x03 writes its destination register the sum, difference, logical result, selected
value or truth of the relation that its form defines, with the poison of the operands it uses, and retires. -/
def Claim.ScalarAddLogicCompare : Prop :=
  ∀ (i : Instr) (s : State) (d : XReg) (v : Word) (p : Bool),
    logicResult s i = some (d, v, p) → exec i s = .next (retire s (s.setX d v p))

/-- Each instruction of major 0x02 writes its destination register the value shifted or rotated by the amount reduced to
the form's width, a word form sign-extended, with the poison of the operands, and retires. -/
def Claim.ScalarShifts : Prop :=
  ∀ (i : Instr) (s : State) (d : XReg) (v : Word) (p : Bool),
    shiftResult s i = some (d, v, p) → exec i s = .next (retire s (s.setX d v p))

/-- Each instruction of major 0x04 writes its destination register the half of the product, the quotient or the remainder
that its form defines, for every operand including a divisor of zero, and retires. -/
def Claim.ScalarMultiplyDivide : Prop :=
  ∀ (i : Instr) (s : State) (d : XReg) (v : Word) (p : Bool),
    mulDivResult s i = some (d, v, p) → exec i s = .next (retire s (s.setX d v p))

/-- Each instruction of majors 0x05 and 0x06 writes its destination register the count, permuted bits, bit field, carry-less
product or immediate that its form defines, and retires. -/
def Claim.ScalarBitsAndImmediates : Prop :=
  ∀ (i : Instr) (s : State) (d : XReg) (v : Word) (p : Bool),
    bitsResult s i = some (d, v, p) → exec i s = .next (retire s (s.setX d v p))

/-- The results of majors 0x01 to 0x03: sums, logic, shifts and compares. -/
def Obligations.ScalarLogicAndShifts : Prop := Claim.ScalarAddLogicCompare ∧ Claim.ScalarShifts

/-- The results of majors 0x04 to 0x06: products, quotients, bit fields and immediates. -/
def Obligations.ScalarProductsAndBits : Prop := Claim.ScalarMultiplyDivide ∧ Claim.ScalarBitsAndImmediates

/-- The frame of majors 0x01 to 0x06: only the destination register, the pc, the loop registers and the marks of the
retirement differ, and every byte of memory reads as before. -/
def Obligations.ScalarFrame : Prop :=
  ∀ (i : Instr) (s t : State) (d : XReg) (v : Word) (p : Bool),
    (logicResult s i = some (d, v, p) ∨ shiftResult s i = some (d, v, p) ∨ mulDivResult s i = some (d, v, p)
      ∨ bitsResult s i = some (d, v, p)) →
    EndInRange s.hart → exec i s = .next t →
    ∃ h1 h2, OnlyX [d] s.hart h1 ∧ OnlyRetired (nsNow s) h1 h2 ∧ t = { s with hart := h2 } ∧ SameBytes s t

/-! ### Scalar memory -/

/-- The registers that address an access hold no poison. -/
def AddressClean (s : State) (rs : List XReg) : Prop := ∀ r ∈ rs, poisX s.hart r = false

/-- No byte of a range races with a copy of the hart. -/
def NoRace (s : State) (loc n : Nat) (write : Bool) : Prop := ∀ j, j < n → copyRaces s (loc + j) write = false

/-- A load from ordinary memory gives its register the little-endian number of the hart's view, extended as the form says,
with the poison of the granules; `ldp` gives a pair its two halves, and discards the low half for x0. -/
def Obligations.ScalarLoads : Prop :=
  (∀ (i : Instr) (s : State) (d b x : XReg) (o : BitVec 32) (w : Nat) (signed : Bool) (a : Acc),
    loadForm i = some (d, b, x, o, w, signed) → AddressClean s [b, x] →
    globalCheck s s.hart (accessAddr s b x o) w .read = .ok a → a.dev = false → NoRace s a.loc w false →
    exec i s = .next (retire s (s.setX d (loadedWord w signed (leNat (viewBytes s s.hart a.key a.loc w)))
      (viewPois s s.hart a.loc w))))
  ∧ (∀ (s : State) (d b x : XReg) (o : BitVec 32) (a : Acc), AddressClean s [b, x] →
    globalCheck s s.hart (accessAddr s b x o) 16 .read = .ok a → a.dev = false → NoRace s a.loc 16 false →
    exec (.ldp d b x o) s = .next (retire s
      ((s.setX d (word (leNat (viewBytes s s.hart a.key a.loc 8))) (viewPois s s.hart a.loc 16)).setX (oddOf d)
        (word (leNat (viewBytes s s.hart a.key (a.loc + 8) 8))) (viewPois s s.hart a.loc 16))))

/-- A store to ordinary memory completes: the hart then sees the bytes of the number at the translated address, every other
byte of its view and every byte at its home is as before, and no register but the pc and the loop registers differs. -/
def Obligations.ScalarStores : Prop :=
  ∀ (i : Instr) (s : State) (b x : XReg) (o : BitVec 32) (w v : Nat) (p : Bool) (a : Acc),
    storeForm s i = some (b, x, o, w, v, p) → AddressClean s [b, x] → EndInRange s.hart →
    globalCheck s s.hart (accessAddr s b x o) w .write = .ok a → a.dev = false → NoRace s a.loc w true →
    ∃ t h1, exec i s = .next t
      ∧ h1 = { s.hart with own := t.hart.own } ∧ OnlyRetired (nsNow s) h1 t.hart
      ∧ t = { s with hart := t.hart, mem := { s.mem with nextWid := s.mem.nextWid + w } }
      ∧ (∀ j k, j < w → viewByte t t.hart k (a.loc + j) = byteOf v j)
      ∧ (∀ l k, (l < a.loc ∨ a.loc + w ≤ l) → viewByte t t.hart k l = viewByte s s.hart k l)
      ∧ (∀ l k, homeByte t k l = homeByte s k l)

/-- The read-modify-write atomics and compare-and-swap: once the earlier releases of the hart are performed, one strong access
at the home, which answers the old value to the register and writes what the form says; until then the instruction waits. That
the earlier releases are performed in the same step is the model's reading (log 7). -/
def Claim.ScalarAtomics : Prop :=
  (∀ (i : Instr) (s s1 : State) (wd : AmoWidth) (d v b : XReg) (o : BitVec 32) (f : Nat → Nat → Nat → Nat) (a : Acc) (w : Nat),
    amoRule i = some (wd, d, v, b, o, f) → w = (match wd with | .w => 4 | .d => 8) → AddressClean s [b] → s1 = flushPend s →
    globalCheck s s.hart (accessAddr s b 0 o) w .write = .ok a →
    (s1.hart.pend ≠ [] → exec i s = .next s1)
    ∧ (s1.hart.pend = [] → ovlFires s1 s1.hart a.loc w = none →
      ∀ r, r = strongAccess s1 a w (fun old => some (natLe w (f (8 * w) old (ux s v % 2 ^ (8 * w))))) (poisX s.hart v) →
      exec i s = .next (retire s1 (r.1.setX d (oldWord w (leNat r.2.1)) r.2.2))))
  ∧ (∀ (s s1 : State) (d e n b : XReg) (o : BitVec 32) (a : Acc), AddressClean s [b] → s1 = flushPend s → s1.hart.pend = [] →
    globalCheck s s.hart (accessAddr s b 0 o) 4 .write = .ok a → ovlFires s1 s1.hart a.loc 4 = none →
    ∀ r, r = strongAccess s1 a 4 (fun old => if old = ux s e % 2 ^ 32 then some (natLe 4 (ux s n % 2 ^ 32)) else none)
        (poisX s.hart e || poisX s.hart n) →
    exec (.casW d e n b o) s = .next (retire s1 (r.1.setX d (oldWord 4 (leNat r.2.1)) r.2.2)))
  ∧ (∀ (s s1 : State) (d e n b : XReg) (o : BitVec 32) (a : Acc), AddressClean s [b] → s1 = flushPend s → s1.hart.pend = [] →
    globalCheck s s.hart (accessAddr s b 0 o) 8 .write = .ok a → ovlFires s1 s1.hart a.loc 8 = none →
    ∀ r, r = strongAccess s1 a 8 (fun old => if old = ux s e then some (natLe 8 (ux s n)) else none)
        (poisX s.hart e || poisX s.hart n) →
    exec (.casD d e n b o) s = .next (retire s1 (r.1.setX d (word (leNat r.2.1)) r.2.2)))
  ∧ (∀ (s s1 : State) (d e n b : XReg) (o : BitVec 32) (a : Acc), AddressClean s [b] → s1 = flushPend s → s1.hart.pend = [] →
    globalCheck s s.hart (accessAddr s b 0 o) 16 .write = .ok a → ovlFires s1 s1.hart a.loc 16 = none →
    ∀ r, r = strongAccess s1 a 16
        (fun old => if old = ux s e + 2 ^ 64 * ux s (oddOf e) then some (natLe 16 (ux s n + 2 ^ 64 * ux s (oddOf n))) else none)
        (poisX s.hart e || poisX s.hart (oddOf e) || (poisX s.hart n || poisX s.hart (oddOf n))) →
    exec (.casQ d e n b o) s = .next (retire s1
      ((r.1.setX d (word (leNat r.2.1)) r.2.2).setX (oddOf d) (word (leNat r.2.1 / 2 ^ 64 : Nat)) r.2.2)))

/-- Loads and stores on a DEV page: once the earlier releases are performed, one strong access at the home. That the releases
are performed in the same step is the model's reading (log 7). -/
def Claim.ScalarDeviceAccess : Prop :=
  (∀ (i : Instr) (s s1 : State) (d b x : XReg) (o : BitVec 32) (w : Nat) (signed : Bool) (a : Acc),
    loadForm i = some (d, b, x, o, w, signed) → AddressClean s [b, x] → s1 = flushPend s → s1.hart.pend = [] →
    globalCheck s s.hart (accessAddr s b x o) w .read = .ok a → a.dev = true → ovlFires s1 s1.hart a.loc w = none →
    ∀ r, r = strongAccess s1 a w (fun _ => none) false →
    exec i s = .next (retire s1 (r.1.setX d (loadedWord w signed (leNat r.2.1)) r.2.2)))
  ∧ (∀ (s s1 : State) (d b x : XReg) (o : BitVec 32) (a : Acc), AddressClean s [b, x] → s1 = flushPend s → s1.hart.pend = [] →
    globalCheck s s.hart (accessAddr s b x o) 16 .read = .ok a → a.dev = true → ovlFires s1 s1.hart a.loc 16 = none →
    ∀ r, r = strongAccess s1 a 16 (fun _ => none) false →
    exec (.ldp d b x o) s = .next (retire s1
      ((r.1.setX d (word (leNat r.2.1)) r.2.2).setX (oddOf d) (word (leNat r.2.1 / 2 ^ 64 : Nat)) r.2.2)))
  ∧ (∀ (i : Instr) (s s1 : State) (b x : XReg) (o : BitVec 32) (w v : Nat) (p : Bool) (a : Acc),
    storeForm s i = some (b, x, o, w, v, p) → AddressClean s [b, x] → s1 = flushPend s → s1.hart.pend = [] →
    globalCheck s s.hart (accessAddr s b x o) w .write = .ok a → a.dev = true → ovlFires s1 s1.hart a.loc w = none →
    exec i s = .next (retire s1 (strongAccess s1 a w (fun _ => some (natLe w v)) p).1))

/-- Atomics, and scalar accesses to DEV pages: one strong access at the home each. -/
def Obligations.ScalarStrongForms : Prop := Claim.ScalarAtomics ∧ Claim.ScalarDeviceAccess

/-- Where a scalar memory instruction traps or kills, before it has written anything: a poisoned address register consumes
poison; else an address beyond 48 bits, a misaligned one, and then the fault of the translation or of the key, each with TVAL
the address; a refusal for the key is recorded as well. -/
def Obligations.ScalarAccessFaults : Prop :=
  ∀ (i : Instr) (s : State) (ea : Word) (w : Nat) (u : Use) (rs : List XReg),
    scalarAccess s i = some (ea, w, u, rs) →
    ((∃ r ∈ rs, poisX s.hart r = true) → exec i s = .next (poisonKill s))
    ∧ (AddressClean s rs →
        (2 ^ 48 ≤ ea.toNat → exec i s = .next (takeTrap s 0x0008 ea))
        ∧ (ea.toNat < 2 ^ 48 → ea.toNat % w ≠ 0 → exec i s = .next (takeTrap s 0x0009 ea))
        ∧ (∀ c, ea.toNat < 2 ^ 48 → ea.toNat % w = 0 → c ≠ 0x0010 →
            checkGlobal s s.hart.id.die s.hart.id.core s.hart.id.ctx ea.toNat u = .fault c →
            exec i s = .next (takeTrap s c ea))
        ∧ (ea.toNat < 2 ^ 48 → ea.toNat % w = 0 →
            checkGlobal s s.hart.id.die s.hart.id.core s.hart.id.ctx ea.toNat u = .fault 0x0010 →
            exec i s = .next (takeTrap (noKeyEvent s s.hart.id.ctx ea.toNat) 0x0010 ea)))

/-! ### Control -/

/-- Jumps and calls: the transfer to the line-relative target, or to the code address in a register; the link is the address
of the next slot, written after the register is read; and a target that is no code address takes the address fault with no
register written (R160, R186, R187). -/
def Claim.JumpsAndCalls : Prop :=
  ∀ (s : State) (d a : XReg) (k : Slot) (o : BitVec 32),
    (¬ beyond (relTarget s k o) →
      exec (.j k o) s = .next (transfer s (relTarget s k o))
      ∧ exec (.call d k o) s = .next (transfer (s.setX d (nextSlot s.hart.pc)) (relTarget s k o)))
    ∧ (beyond (relTarget s k o) →
      exec (.j k o) s = .next (takeTrap s 0x0008 (relTarget s k o))
      ∧ exec (.call d k o) s = .next (takeTrap s 0x0008 (relTarget s k o)))
    ∧ (poisX s.hart a = false → CodeOk (s.x a) →
      exec (.jr a) s = .next (transfer s (s.x a)) ∧ exec (.ret a) s = .next (transfer s (s.x a))
      ∧ exec (.callr d a) s = .next (transfer (s.setX d (nextSlot s.hart.pc)) (s.x a)))
    ∧ (poisX s.hart a = false → ¬ CodeOk (s.x a) →
      exec (.jr a) s = .next (takeTrap s 0x0008 (s.x a)) ∧ exec (.ret a) s = .next (takeTrap s 0x0008 (s.x a))
      ∧ exec (.callr d a) s = .next (takeTrap s 0x0008 (s.x a)))
    ∧ (poisX s.hart a = true →
      exec (.jr a) s = .next (poisonKill s) ∧ exec (.ret a) s = .next (poisonKill s)
      ∧ exec (.callr d a) s = .next (poisonKill s))

/-- A transfer: the pc is the target, the slot it came from is kept for the TGT check, and nothing else but the marks of the
retirement differs. -/
def Claim.TransferFrame : Prop :=
  ∀ (s : State) (t : Word), ∃ h, transfer s t = { s with hart := h } ∧ OnlyRetired (nsNow s) s.hart h ∧ h.pc = t
    ∧ h.st.entry = some s.hart.pc ∧ h.loop0 = s.hart.loop0 ∧ h.loop1 = s.hart.loop1 ∧ SameBytes s (transfer s t)

/-- Retirement in sequence or around a loop, and the transfer of control. -/
def Obligations.RetirementAndTransfer : Prop := Claim.RetirementAndLoops ∧ Claim.TransferFrame

/-- A conditional branch transfers when its relation holds and goes on in sequence, with its end check, when it does not. -/
def Claim.Branches : Prop :=
  ∀ (i : Instr) (s : State) (a b : XReg) (k : Slot) (o : BitVec 32) (c : Bool),
    branchRule s i = some (a, b, k, o, c) →
    ((poisX s.hart a = true ∨ poisX s.hart b = true) → exec i s = .next (poisonKill s))
    ∧ (poisX s.hart a = false → poisX s.hart b = false →
      (c = true → ¬ beyond (relTarget s k o) → exec i s = .next (transfer s (relTarget s k o)))
      ∧ (c = true → beyond (relTarget s k o) → exec i s = .next (takeTrap s 0x0008 (relTarget s k o)))
      ∧ (c = false → exec i s = .next (retire s s)))

/-- Jumps, calls and branches. -/
def Obligations.ControlTransfers : Prop := Claim.JumpsAndCalls ∧ Claim.Branches

/-- The set-up of a loop and its exit. With a count of zero, control skips to the slot after the end slot; a target beyond
the address range takes the address fault with no loop register written. -/
def Obligations.Loops : Prop :=
  ∀ (s : State) (a : XReg) (k : Slot) (o : BitVec 32) (n : Bool) (i x : Instr),
    i = (if n then .loop1 a k o else .loop0 a k o) → x = (if n then .lpexit1 else .lpexit0) →
    (poisX s.hart a = false → beyond (relTarget s k o) → exec i s = .next (takeTrap s 0x0008 (relTarget s k o)))
    ∧ (poisX s.hart a = false → ¬ beyond (relTarget s k o) → s.x a ≠ 0 →
      exec i s = .next (retire s (s.onHart (fun h => setLoop h n
        { lc := s.x a, lb := nextSlot s.hart.pc, le := relTarget s k o, lbP := none, leP := none }))))
    ∧ (poisX s.hart a = false → s.x a = 0 → ¬ beyond (relTarget s k o) → beyond (nextSlot (relTarget s k o)) →
      exec i s = .next (takeTrap s 0x0008 (nextSlot (relTarget s k o))))
    ∧ (poisX s.hart a = false → s.x a = 0 → ¬ beyond (relTarget s k o) → ¬ beyond (nextSlot (relTarget s k o)) →
      exec i s = .next (transfer (s.onHart (fun h => setLoop h n
        { lc := 0, lb := nextSlot s.hart.pc, le := relTarget s k o, lbP := none, leP := none })) (nextSlot (relTarget s k o))))
    ∧ (poisX s.hart a = true → exec i s = .next (poisonKill s))
    ∧ (∃ l : LoopRegs, l.lc = 0 ∧ ((loopOf s.hart n).lbP = none → l.lb = (loopOf s.hart n).lb)
        ∧ ((loopOf s.hart n).leP = none → l.le = (loopOf s.hart n).le) ∧ exec x s = .next (retire s (s.onHart (fun h => setLoop h n l))))

/-! ### Traps and returns -/

/-- Taking a trap at the present instruction: the cause with the old mode and ACT, the value and the restart point are saved,
the mode is system mode, ACT is set and control is at TVEC; no other register differs. -/
def Claim.TrapEntry : Prop :=
  ∀ (s : State) (c : Nat) (v : Word), (s.hart.st.fresh = true → s.hart.pc ≠ s.hart.trap.tvec) →
    ∃ h, takeTrap s c v = { s with hart := h }
      ∧ h.trap.code = BitVec.ofNat 16 c ∧ h.trap.ppriv = s.hart.st.priv ∧ h.trap.puia = s.hart.ui.act
      ∧ h.trap.tval = v ∧ h.trap.tpc = s.hart.pc ∧ h.st.priv = true ∧ h.ui.act = true ∧ h.pc = s.hart.trap.tvec
      ∧ h.trap.tvec = s.hart.trap.tvec ∧ h.trap.tscr = s.hart.trap.tscr
      ∧ h.sc = s.hart.sc ∧ h.vf = s.hart.vf ∧ h.vc = s.hart.vc ∧ h.loop0 = s.hart.loop0 ∧ h.loop1 = s.hart.loop1
      ∧ h.ui.uivec = s.hart.ui.uivec ∧ h.ui.uipc = s.hart.ui.uipc ∧ h.ui.en = s.hart.ui.en ∧ h.ui.pend = s.hart.ui.pend
      ∧ h.phs = s.hart.phs ∧ h.pend = s.hart.pend ∧ h.bolter = s.hart.bolter ∧ h.mbox = s.hart.mbox
      ∧ SameBytes s (takeTrap s c v)

/-- A trap whose restart point is the slot at TVEC, before any instruction of the handler has retired, is a double trap: the
hart stops, and for a hart of a context the context's kill has begun (R403). -/
def Claim.DoubleTrap : Prop :=
  ∀ (s : State) (c : Nat) (v : Word), s.hart.st.fresh = true → s.hart.pc = s.hart.trap.tvec →
    takeTrap s c v = doubleTrap s
    ∧ (s.hart.id.ctx ≠ 0 → (doubleTrap s).hart.st.life = .killed
        ∧ ∀ x, findCtx s s.hart.id.ctx = some x →
            ∃ y, findCtx (doubleTrap s) s.hart.id.ctx = some y ∧ y.kill.isSome = true)

/-- `brk` takes the breakpoint trap at itself; `sys` retires with its end check and then takes the system-call trap, so that
TPC is the slot that follows. -/
def Claim.SystemCallAndBreakpoint : Prop :=
  ∀ (s : State) (imm : BitVec 32),
    exec (.brk imm) s = .next (takeTrap s 0x001B (word imm.toNat))
    ∧ (EndInRange s.hart → exec (.sys imm) s = .next (takeTrap (retire s s) 0x001A (word imm.toNat)))
    ∧ (NoEnd s.hart → ∃ t, exec (.sys imm) s = .next t ∧ t.hart.trap.tpc = nextSlot s.hart.pc ∧ t.hart.pc = s.hart.trap.tvec
        ∧ t.hart.trap.code = 0x001A ∧ t.hart.trap.tval = word imm.toNat ∧ t.hart.st.priv = true)

/-- Traps: the entry, the double trap, the system call and the breakpoint. -/
def Obligations.TrapsTaken : Prop := Claim.TrapEntry ∧ Claim.DoubleTrap ∧ Claim.SystemCallAndBreakpoint

/-- `tret` in system mode goes to TPC with the mode and ACT that the trap saved; `uiret` leaves the handler for UIPC, or with
a pending completion that may be delivered goes to UIVEC with ACT still set, or takes the address fault where UIVEC lies beyond
the address range. -/
def Obligations.Returns : Prop :=
  ∀ s : State,
    (s.hart.st.priv = true → ∃ t, exec .tret s = .next t ∧ t.hart.pc = s.hart.trap.tpc ∧ t.hart.st.priv = s.hart.trap.ppriv
      ∧ t.hart.ui.act = s.hart.trap.puia ∧ t.hart.st.entry = none ∧ t.hart.trap = s.hart.trap ∧ t.hart.sc = s.hart.sc
      ∧ t.hart.vf = s.hart.vf ∧ t.hart.vc = s.hart.vc ∧ t.hart.loop0 = s.hart.loop0 ∧ t.hart.loop1 = s.hart.loop1
      ∧ t.mem = s.mem ∧ SameBytes s t)
    ∧ (s.hart.ui.act = false → ∀ w, encode .uiret = some w → exec .uiret s = .next (takeTrap s 0x0001 (w.setWidth 64)))
    ∧ (s.hart.ui.act = true → s.hart.ui.pend = true → s.hart.ui.en = true → s.hart.ui.uivec.toNat < 2 ^ 48 →
      ∃ t, exec .uiret s = .next t ∧ t.hart.pc = s.hart.ui.uivec ∧ t.hart.ui = { s.hart.ui with pend := false }
        ∧ t.hart.st.entry = some s.hart.ui.uipc
        ∧ t.hart.sc = s.hart.sc ∧ t.hart.vf = s.hart.vf ∧ t.hart.trap = s.hart.trap ∧ t.mem = s.mem)
    ∧ (s.hart.ui.act = true → s.hart.ui.pend = true → s.hart.ui.en = true → 2 ^ 48 ≤ s.hart.ui.uivec.toNat →
      exec .uiret s = .next (takeTrap s 0x0008 s.hart.ui.uivec))
    ∧ (s.hart.ui.act = true → (s.hart.ui.pend = false ∨ s.hart.ui.en = false) →
      ∃ t, exec .uiret s = .next t ∧ t.hart.pc = s.hart.ui.uipc ∧ t.hart.ui = { s.hart.ui with act := false }
        ∧ t.hart.st.entry = none ∧ t.hart.sc = s.hart.sc ∧ t.hart.vf = s.hart.vf ∧ t.hart.trap = s.hart.trap ∧ t.mem = s.mem)

/-! ### State registers -/

/-- The state registers that are allocated (R61). -/
def allocatedNumbers : List Nat :=
  List.range 12 ++ List.range' 0x010 6 ++ List.range' 0x018 3 ++ List.range' 0x040 16 ++ List.range' 0x100 6 ++ List.range' 0x110 5

/-- `sget`: an unallocated number is illegal, a privileged number in user mode is refused except VLCAP, and every other read
gives the register's value. -/
def Claim.StateRegisterReads : Prop :=
  ∀ (s : State) (d : XReg) (n : BitVec 12),
    (n.toNat ∉ allocatedNumbers → exec (.sget d n) s = .next (takeTrap s 0x0001 (word n.toNat)))
    ∧ (n.toNat ∈ allocatedNumbers → 0x100 ≤ n.toNat → n.toNat ≠ 0x100 → s.hart.st.priv = false →
        exec (.sget d n) s = .next (takeTrap s 0x0002 (word n.toNat)))
    ∧ (n.toNat ∈ allocatedNumbers → (n.toNat ≤ 0x100 ∨ s.hart.st.priv = true) →
        exec (.sget d n) s = .next (retire s (s.setX d (BitVec.ofNat 64 (srRead s n.toNat)))))

/-- Where the fields of the state registers stand in the value that is read (R65 to R82). -/
def Claim.StateRegisterFields : Prop :=
  ∀ (s : State) (h : Hart), h = s.hart →
    srRead s 0x000 = h.vc.vl.toNat ∧ srRead s 0x001 = h.vc.vtype.toNat ∧ srRead s 0x003 = h.vc.ves.toNat
    ∧ (bits (srRead s 0x004) 2 0 = h.vc.mode.st.toNat ∧ bits (srRead s 0x004) 5 3 = h.vc.mode.dtgt.toNat
      ∧ bits (srRead s 0x004) 12 6 = h.vc.mode.drow.toNat ∧ (srRead s 0x004).testBit 13 = h.vc.mode.chn)
    ∧ (bits (srRead s 0x005) 7 0 = h.vc.ashape.rows.toNat ∧ bits (srRead s 0x005) 15 8 = h.vc.ashape.cols.toNat
      ∧ bits (srRead s 0x005) 17 16 = h.vc.ashape.pk.toNat ∧ bits (srRead s 0x005) 21 18 = h.vc.ashape.cpos.toNat
      ∧ bits (srRead s 0x005) 25 22 = h.vc.ashape.clen.toNat)
    ∧ (bits (srRead s 0x006) 2 0 = h.vc.fxm.sel.toNat ∧ bits (srRead s 0x006) 5 3 = h.vc.fxm.rm.toNat
      ∧ bits (srRead s 0x006) 13 8 = h.vc.fxm.acc.toNat ∧ bits (srRead s 0x006) 7 6 = 0)
    ∧ (bits (srRead s 0x007) 31 0 = h.phs.pcnt.toNat ∧ bits (srRead s 0x007) 34 32 = h.phs.lrs.toNat
      ∧ bits (srRead s 0x007) 37 35 = h.phs.las.toNat ∧ (srRead s 0x007).testBit 38 = h.phs.pubp
      ∧ (srRead s 0x007).testBit 39 = h.phs.hold)
    ∧ ((srRead s 0x00B).testBit 5 = h.st.yreq ∧ (srRead s 0x00B).testBit 6 = h.st.red ∧ (srRead s 0x00B).testBit 7 = h.st.priv
      ∧ bits (srRead s 0x00B) 2 0 = h.id.hnum % 8 ∧ bits (srRead s 0x00B) 4 3 = h.id.part.toNat
      ∧ bits (srRead s 0x00B) 12 8 = h.id.core % 32 ∧ bits (srRead s 0x00B) 20 15 = h.id.die % 64)
    ∧ ((srRead s 0x01A).testBit 0 = h.ui.en ∧ (srRead s 0x01A).testBit 1 = h.ui.act ∧ (srRead s 0x01A).testBit 2 = h.ui.pend)
    ∧ (bits (srRead s 0x112) 15 0 = h.trap.code.toNat ∧ (srRead s 0x112).testBit 16 = h.trap.ppriv
      ∧ (srRead s 0x112).testBit 17 = h.trap.puia)
    ∧ (∀ k : FEnt, srRead s (0x040 + k.val) = (entry h k).toNat)
    ∧ srRead s 0x010 = h.loop0.lc.toNat ∧ srRead s 0x011 = h.loop0.lb.toNat ∧ srRead s 0x012 = h.loop0.le.toNat
    ∧ srRead s 0x013 = h.loop1.lc.toNat ∧ srRead s 0x014 = h.loop1.lb.toNat ∧ srRead s 0x015 = h.loop1.le.toNat
    ∧ srRead s 0x110 = h.trap.tvec.toNat ∧ srRead s 0x111 = h.trap.tpc.toNat ∧ srRead s 0x113 = h.trap.tval.toNat
    ∧ srRead s 0x114 = h.trap.tscr.toNat

/-- Reads of the state registers: the access rules and where the fields stand. -/
def Obligations.StateRegistersRead : Prop := Claim.StateRegisterReads ∧ Claim.StateRegisterFields

/-- A code address written over another (R78): the line and slot of the value, bits 5:3 zero, and the old slot where the
value's slot is 5 to 7. -/
def codeWrite (old v : Word) : Word := word (v.toNat / 64 * 64 + (if v.toNat % 8 ≤ 4 then v.toNat % 8 else old.toNat % 8) : Nat)

/-- FXM after a write (R71): reserved codes leave SEL or RM, and a 1 clears a flag of ACC. -/
def fxmAfter (f : Fxm) (v : Nat) : Fxm :=
  { sel := if v % 8 = 7 then f.sel else BitVec.ofNat 3 v,
    rm := if 6 ≤ v / 8 % 8 then f.rm else BitVec.ofNat 3 (v / 8),
    acc := f.acc &&& ~~~(BitVec.ofNat 6 (v / 256)) }

/-- What `sset` makes of the hart (R62, R67 to R82). -/
def ssetRule (h : Hart) (n : Nat) (v : Word) : Hart :=
  if n = 0x002 then { h with vc := { h.vc with vmt := BitVec.ofNat 2 v.toNat } }
  else if n = 0x003 then { h with vc := { h.vc with ves := BitVec.ofNat 17 (min (v.toNat % 2 ^ 17) h.vc.vl.toNat) } }
  else if n = 0x006 then { h with vc := { h.vc with fxm := fxmAfter h.vc.fxm v.toNat } }
  else if n = 0x008 then { h with vc := { h.vc with sfth := BitVec.ofNat 32 v.toNat } }
  else if n = 0x018 then { h with ui := { h.ui with uivec := codeWrite h.ui.uivec v } }
  else if n = 0x01A then { h with ui := { h.ui with en := v.toNat.testBit 0 } }
  else if n = 0x110 then { h with trap := { h.trap with tvec := codeWrite h.trap.tvec v } }
  else if n = 0x111 then { h with trap := { h.trap with tpc := codeWrite h.trap.tpc v } }
  else if n = 0x114 then { h with trap := { h.trap with tscr := v } }
  else h

/-- `sset`: the access rules of R62, and then each register takes its writable fields and keeps the others; read-only
registers are left. The store of VES takes the lesser of the value and VL, as a value above VL counts as VL (R68, log
entry on VES). -/
def Claim.StateRegisterWrites : Prop :=
  ∀ (s : State) (a : XReg) (n : BitVec 12),
    (n.toNat ∉ allocatedNumbers → exec (.sset n a) s = .next (takeTrap s 0x0001 (word n.toNat)))
    ∧ (n.toNat ∈ allocatedNumbers → 0x100 ≤ n.toNat → s.hart.st.priv = false →
        exec (.sset n a) s = .next (takeTrap s 0x0002 (word n.toNat)))
    ∧ (n.toNat ∈ allocatedNumbers → (n.toNat < 0x100 ∨ s.hart.st.priv = true) → ssetSpecial n = false →
        (poisX s.hart a = true → exec (.sset n a) s = .next (poisonKill s))
        ∧ (poisX s.hart a = false → exec (.sset n a) s = .next (retire s (s.onHart (fun h => ssetRule h n.toNat (s.x a))))))

/-- The writes that have rows of their own: RSEED takes the value; a count that becomes zero ends its loop, and LB or LE of
an active loop are pending; VLCAP is the context's and needs system mode. When the values of loop registers take effect, and
MERR, are the model's readings (log 8, log 22). -/
def Claim.SpecialRegisterWrites : Prop :=
  ∀ (s : State) (a : XReg), poisX s.hart a = false →
    exec (.rseedWrite a) s = .next (retire s (s.onHart (fun h => { h with vc := { h.vc with rseed := s.x a } })))
    ∧ (∀ r : LoopReg, ∃ l : LoopRegs, l = loopWrite (loopOf s.hart (isLoop1 r)) r (s.x a)
        ∧ exec (.loopRegWrite r a) s = .next (retire s (s.onHart (fun h => setLoop h (isLoop1 r) l)))
        ∧ ((r = .lc0 ∨ r = .lc1) → l.lc = s.x a)
        ∧ ((r = .lb0 ∨ r = .lb1) → (loopOf s.hart (isLoop1 r)).lc ≠ 0 →
            l.lb = (loopOf s.hart (isLoop1 r)).lb ∧ l.lbP = some (codeWrite l.lb (s.x a)))
        ∧ ((r = .lb0 ∨ r = .lb1) → (loopOf s.hart (isLoop1 r)).lc = 0 → l.lb = codeWrite (loopOf s.hart (isLoop1 r)).lb (s.x a))
        ∧ ((r = .le0 ∨ r = .le1) → (loopOf s.hart (isLoop1 r)).lc ≠ 0 →
            l.le = (loopOf s.hart (isLoop1 r)).le ∧ l.leP = some (codeWrite l.le (s.x a)))
        ∧ ((r = .le0 ∨ r = .le1) → (loopOf s.hart (isLoop1 r)).lc = 0 → l.le = codeWrite (loopOf s.hart (isLoop1 r)).le (s.x a)))
    ∧ (s.hart.st.priv = false → exec (.vlcapWrite a) s = .next (takeTrap s 0x0002 0x100)
        ∧ exec (.dmodeWrite a) s = .next (takeTrap s 0x0002 0x101))
    ∧ (s.hart.st.priv = true → ∃ s1, exec (.vlcapWrite a) s = .next (retire s s1)
        ∧ s1.ctxs = updWhere (fun x => x.num == s.hart.id.ctx) (fun x => { x with vlk := BitVec.ofNat 2 (ux s a) }) s.ctxs
        ∧ s1 = { s with ctxs := s1.ctxs, launches := s1.launches })

/-- A write of DMODE in system mode (R27): naming the present mode is never refused and its bit 3 clears MERR; a new mode is
refused, with MERR set and nothing started, while a context exists or a change runs, and for code 3; and otherwise it becomes
the mode and CHG reads 1. -/
def Claim.DeviceModeWrite : Prop :=
  ∀ (s : State) (a : XReg), poisX s.hart a = false → s.hart.st.priv = true →
    (ux s a % 4 = modeCode s.pkg.mode → exec (.dmodeWrite a) s = .next (retire s
        { s with pkg := { s.pkg with merr := s.pkg.merr && !(ux s a).testBit 3 } }))
    ∧ (ux s a % 4 ≠ modeCode s.pkg.mode → (s.ctxs ≠ [] ∨ s.pkg.chg.isSome = true ∨ ux s a % 4 = 3) →
        exec (.dmodeWrite a) s = .next (retire s { s with pkg := { s.pkg with merr := true } }))
    ∧ (ux s a % 4 ≠ modeCode s.pkg.mode → s.ctxs = [] → s.pkg.chg = none → ux s a % 4 < 3 →
        ∃ s1, exec (.dmodeWrite a) s = .next (retire s s1) ∧ modeCode s1.pkg.mode = ux s a % 4
          ∧ s1.pkg.chg = some s.cycle ∧ s1.mem = s.mem ∧ s1.hart.sc = s.hart.sc)

/-- Writes of the state registers, those with rows of their own included. -/
def Obligations.StateRegistersWritten : Prop :=
  Claim.StateRegisterWrites ∧ Claim.SpecialRegisterWrites ∧ Claim.DeviceModeWrite

/-! ### Privilege -/

/-- The forms marked privileged in R192. -/
def isPrivileged : Instr → Bool
  | .tret | .tlbinv _ | .tlbinvVa _ _ | .keyset _ _ _ | .keydel _ _ | .ctxnew _ _ | .ctxkill _ _ | .qbind _ _ _ | .qunbind _ _ _
  | .qpause _ _ _ | .qresume _ _ _ | .qappend _ _ _ | .scrub _ _ _ => true
  | _ => false

/-- A privileged form in user mode takes the privileged-instruction trap with word bits 63:0, before every other effect. -/
def Obligations.PrivilegedForms : Prop :=
  ∀ (i : Instr) (w : BitVec 96) (s : State), isPrivileged i = true → encode i = some w → s.hart.st.priv = false →
    exec i s = .next (takeTrap s 0x0002 (w.setWidth 64))

/-- The state without the translations of a context, or without those of them that cover an address: TLB entries and
walk-cache entries go, on every die; a number that names no context has no effect (R197). -/
def withoutTranslations (s : State) (c : Nat) (va : Option Nat) : State :=
  let covers := fun b n => match va with | none => true | some v => decide (b ≤ v) && decide (v < b + n)
  if findCtx s c = none then s
  else { s with mem := { s.mem with
    tlb := s.mem.tlb.filter (fun e => !(e.ctx == c && covers e.va e.size)),
    wcache := s.mem.wcache.filter (fun e => !(e.ctx == c && covers e.va (tabSpan e.lvl))) } }

/-- The kill of a context that the hart asks for: from a trap handler of that context it carries the record of the trap. -/
def killing (s : State) (c : Nat) : State × Nat :=
  ctxkillOp s s.hart.src (if s.hart.st.inHandler && s.hart.id.ctx == c then some s.hart else none) c

/-- Every privileged control completes in system mode, with operands that are not poisoned: the translations of a context, or
those of one address of it, go; the other controls write the result of their operation to xd. They retire. That a poisoned
operand kills is the model's reading (log 19). -/
def Claim.PrivilegedControls : Prop :=
  ∀ (s : State) (d a b : XReg), s.hart.st.priv = true → poisX s.hart a = false → poisX s.hart b = false →
    exec (.tlbinv a) s = .next (retire s (withoutTranslations s (ux s a % 65536) none))
    ∧ exec (.tlbinvVa a b) s = .next (retire s (withoutTranslations s (ux s a % 65536) (some (ux s b % 2 ^ 48))))
    ∧ exec (.keyset d a b) s = .next (retire s ((keysetOp s s.hart.id.dev (ux s a) (ux s b % 1024)).1.setX d
        (word (keysetOp s s.hart.id.dev (ux s a) (ux s b % 1024)).2)))
    ∧ exec (.keydel d a) s = .next (retire s ((keydelOp s s.hart.id.dev (ux s a % 1024)).1.setX d
        (word (keydelOp s s.hart.id.dev (ux s a % 1024)).2)))
    ∧ exec (.ctxnew d a) s = .next (retire s ((ctxnewOp s s.hart.id.dev (ux s a)).1.setX d
        (ctxnewOp s s.hart.id.dev (ux s a)).2))
    ∧ exec (.ctxkill d a) s = .next (retire s ((killing s (ux s a % 65536)).1.setX d (word (killing s (ux s a % 65536)).2)))
    ∧ exec (.qbind d a b) s = .next (retire s ((qbindOp s s.hart.id.dev (ux s a % 65536) (ux s b)).1.setX d
        (word (qbindOp s s.hart.id.dev (ux s a % 65536) (ux s b)).2)))
    ∧ exec (.qunbind d a b) s = .next (retire s ((qunbindOp s s.hart.id.dev (ux s a % 65536)).1.setX d
        (word (qunbindOp s s.hart.id.dev (ux s a % 65536)).2)))
    ∧ exec (.qpause d a b) s = .next (retire s ((qpauseOp s s.hart.id.dev (ux s a % 65536) true).1.setX d
        (word (qpauseOp s s.hart.id.dev (ux s a % 65536) true).2)))
    ∧ exec (.qresume d a b) s = .next (retire s ((qpauseOp s s.hart.id.dev (ux s a % 65536) false).1.setX d
        (word (qpauseOp s s.hart.id.dev (ux s a % 65536) false).2)))
    ∧ exec (.qappend d a b) s = .next (retire s ((qctlAppendOp s s.hart.id.dev (ux s a % 65536) (ux s b)).1.setX d
        (word (qctlAppendOp s s.hart.id.dev (ux s a % 65536) (ux s b)).2)))
    ∧ exec (.scrub d a b) s = .next (retire s ((scrubOp s s.hart.id.dev (ux s a) (ux s b)).1.setX d
        (word (scrubOp s s.hart.id.dev (ux s a) (ux s b)).2)))

/-- What the privileged operations do: a key goes to every controller of the device, a slot number outside 1 to 1,023 being
refused with 1 and a slot in use, or for its deletion not in use, with 2; a deletion leaves no key in the slot; a context
takes the lowest free number, and none is made while a mode change is in progress; a scrub sets the range to zero under every key and leaves the rest. What a key slot in use is,
and what a scrub leaves of unpublished writes, are the model's readings (log 14, log 30). -/
def Claim.PrivilegedOperations : Prop :=
  ∀ (s : State) (dev : Nat), MemOk s →
    (∀ pa slot, slot = 0 ∨ 1023 < slot → keysetOp s dev pa slot = (s, 1) ∧ keydelOp s dev slot = (s, 1))
    ∧ (∀ pa slot, 0 < slot → slot ≤ 1023 → (slotMaterial s dev slot).isSome = true → keysetOp s dev pa slot = (s, 2))
    ∧ (∀ slot, 0 < slot → slot ≤ 1023 → slotMaterial s dev slot = none → keydelOp s dev slot = (s, 2))
    ∧ (∀ pa slot b, 0 < slot → slot ≤ 1023 → slotMaterial s dev slot = none → devRead s dev pa 64 = some b →
        (keysetOp s dev pa slot).2 = 0
        ∧ ∀ st ∈ stacksOf s.pkg dev, ∃ k ∈ (keysetOp s dev pa slot).1.mem.keys,
            k.stack = st ∧ k.slot = slot ∧ k.material = BitVec.ofNat 512 (leNat b))
    ∧ (∀ pa slot, 0 < slot → slot ≤ 1023 → slotMaterial s dev slot = none → devRead s dev pa 64 = none →
        keysetOp s dev pa slot = (s, 3))
    ∧ (∀ slot, 0 < slot → slot ≤ 1023 → (slotMaterial s dev slot).isSome = true →
        (keydelOp s dev slot).2 = 0 ∧ slotMaterial (keydelOp s dev slot).1 dev slot = none)
    ∧ (s.pkg.chg.isSome = true → ∀ pa q, ctxnewOp s dev pa = (chgRefused s dev, failCode 6)
        ∧ qctlAppendOp s dev q pa = (chgRefused s dev, 6))
    ∧ (∀ pa b, s.pkg.chg = none → pa % 64 = 0 → devRead s dev pa 64 = some b → ctxCheck s dev b = none →
        (∃ n, 1 ≤ n ∧ n ≤ 1023 ∧ (∀ x ∈ s.ctxs, x.num ≠ n) ∧ (∀ m, 1 ≤ m → m < n → ∃ x ∈ s.ctxs, x.num = m)
          ∧ ctxnewOp s dev pa = ({ s with ctxs := s.ctxs ++ [newCtx n dev b] }, word n))
        ∨ (∀ m, 1 ≤ m → m ≤ 1023 → ∃ x ∈ s.ctxs, x.num = m))
    ∧ (∀ base len, base % 64 = 0 → len % 64 = 0 → base + len ≤ paLimit s.pkg.mode →
        (scrubOp s dev base len).2 = 0
        ∧ ∀ k loc, isTile loc = false →
            (inRange s.pkg dev base len (64 * granule loc) = true → homeByte (scrubOp s dev base len).1 k loc = 0)
            ∧ (inRange s.pkg dev base len (64 * granule loc) = false → inRange s.pkg dev base len loc = false →
                homeByte (scrubOp s dev base len).1 k loc = homeByte s k loc))

/-- The privileged controls in system mode and what their operations do. -/
def Obligations.PrivilegedEffects : Prop := Claim.PrivilegedControls ∧ Claim.PrivilegedOperations

/-! ### Vector configuration -/

/-- What a configuration makes of VL and VTYPE (R201, R207): a value with a bit above 8 set, a group size above 8 or an
invalid entry sets VILL and VL 0; else VL is the lesser of the request and VLMAX. -/
def configured1 (h : Hart) (v : Word) (avl : Option Nat) : VCtl :=
  let k : FEnt := ⟨v.toNat % 16, by omega⟩
  if 512 ≤ v.toNat ∨ 4 ≤ v.toNat / 16 % 8 ∨ fmtValid (entry h k) = false then
    { h.vc with vtype := 0x8000000000000000, vl := 0, ves := 0 }
  else
    let vlen := 8192 * 2 ^ h.id.vk.toNat
    let mx := min (2 ^ (v.toNat / 16 % 8) * (vlen / (fmt h k).n)) vlen
    { h.vc with vtype := v, vl := BitVec.ofNat 17 (min (avl.getD mx) mx), ves := 0 }

/-- `vcfg`, `vcfgi`, `vcfgn` and `vcfgmax` set VL, VTYPE and VES from the old registers, and write the granted VL to xd. -/
def Claim.Configurations : Prop :=
  ∀ (s : State) (d a b : XReg) (vt : BitVec 9) (n : BitVec 17),
    (∀ v, v = configured1 s.hart (s.x b) (some (ux s a)) → poisX s.hart a = false → poisX s.hart b = false →
      exec (.vcfg d a b) s = .next (retire s ((s.onHart (fun h => { h with vc := v })).setX d (word v.vl.toNat))))
    ∧ (∀ v, v = configured1 s.hart (word vt.toNat) (some (ux s a)) → poisX s.hart a = false →
      exec (.vcfgi d a vt) s = .next (retire s ((s.onHart (fun h => { h with vc := v })).setX d (word v.vl.toNat))))
    ∧ (∀ v, v = configured1 s.hart (word vt.toNat) (some n.toNat) →
      exec (.vcfgn d n vt) s = .next (retire s ((s.onHart (fun h => { h with vc := v })).setX d (word v.vl.toNat))))
    ∧ (∀ v, v = configured1 s.hart (word vt.toNat) none →
      exec (.vcfgmax d vt) s = .next (retire s ((s.onHart (fun h => { h with vc := v })).setX d (word v.vl.toNat))))
    ∧ (poisX s.hart a = true → exec (.vcfg d a b) s = .next (poisonKill s) ∧ exec (.vcfgi d a vt) s = .next (poisonKill s))

/-- `vspace` and `vspacex` set the memory space; `vsetre` cuts VL at the end of a bucket of 2^k positions, and is refused
under VILL and an invalid entry. -/
def Claim.SpacesAndBuckets : Prop :=
  ∀ (s : State) (d a b : XReg) (k : Fin 17) (sp : Space),
    (∀ c : BitVec 2, c = (match sp with | .global => 0 | .tile => 1 | .peer => 2 | .host => 3) →
      exec (.vspace sp) s = .next (retire s (s.onHart (fun h => { h with vc := { h.vc with vmt := c, ves := 0 } }))))
    ∧ (poisX s.hart a = false → exec (.vspacex a) s = .next (retire s (s.onHart (fun h =>
        { h with vc := { h.vc with vmt := BitVec.ofNat 2 (ux s a), ves := 0 } }))))
    ∧ (poisX s.hart a = true → exec (.vspacex a) s = .next (poisonKill s))
    ∧ (s.hart.vc.vtype.toNat.testBit 63 = true → exec (.vsetre d a b k) s = .next (takeTrap s 0x0003 s.hart.vc.vtype))
    ∧ (s.hart.vc.vtype.toNat.testBit 63 = false → fmtValid (entry s.hart (vtFmt s.hart)) = false →
        exec (.vsetre d a b k) s = .next (takeTrap s 0x0004 (word (vtFmt s.hart).val)))
    ∧ (∀ n vlen, vlen = 8192 * 2 ^ s.hart.id.vk.toNat →
        n = min (min (ux s b) (2 ^ k.val - ux s a % 2 ^ k.val)) (min (capOf s.hart (fmt s.hart (vtFmt s.hart)).n) vlen) →
        s.hart.vc.vtype.toNat.testBit 63 = false → fmtValid (entry s.hart (vtFmt s.hart)) = true →
        poisX s.hart a = false → poisX s.hart b = false →
        exec (.vsetre d a b k) s = .next (retire s ((s.onHart (fun h =>
          { h with vc := { h.vc with vl := BitVec.ofNat 17 n, ves := 0 } })).setX d (word n))))

/-- Vector configuration: VL, VTYPE, the memory space and the cut at a bucket's end. -/
def Obligations.VectorConfiguration : Prop := Claim.Configurations ∧ Claim.SpacesAndBuckets

/-- A vector form is refused at issue, before any element, by the first of its checks that fails: VILL, VL beyond the group
of an entry, an entry that is invalid or not admitted, a group that does not fit, and a forbidden overlap. -/
def Obligations.VectorRefusals : Prop :=
  (∀ (i : Instr) (s : State) (F : VecForm) (c : Nat) (v : Word),
    vecForm s.hart i = some F → refusal s.hart F = some (c, v) → exec i s = .next (takeTrap s c v))
  ∧ ∀ (s : State) (md ms mk : MReg), (md = ms ∨ md = mk) →
    exec (.mcutLt md ms mk) s = .next (takeTrap s 0x0001 8) ∧ exec (.mcutLe md ms mk) s = .next (takeTrap s 0x0001 8)
    ∧ exec (.mcutEq md ms mk) s = .next (takeTrap s 0x0001 8)

/-! ### Element-wise arithmetic -/

/-- The forms on integers: each active element of the group is the operation of the form applied to the operand elements
read as numbers of their entries, narrowed into the destination entry, with its flags and poison. -/
def Claim.IntegerElements : Prop :=
  ∀ (i : Instr) (s : State) (F : VecForm) (vd a : VReg) (b : VSrc) (fd fa fb : FEnt) (mk : MReg) (usesD : Bool) (op : IntOp),
    intRule i = some (vd, a, b, fd, fa, fb, mk, usesD, op) → vecForm s.hart i = some F → refusal s.hart F = none →
    VecDone i s (overGroup s.hart vd fd mk false (fun j =>
      let h := s.hart
      let r := op (fmt h fd) (intOf (fmt h fa) (elem h a.val j (fmt h fa).n)) (intOf (fmt h fb) (secondCode h b fb j))
        (intOf (fmt h fd) (elem h vd.val j (fmt h fd).n))
      { code := r.1, flags := r.2,
        pois := elemPois h a.val j (fmt h fa).n || secondPois h b fb j || (usesD && elemPois h vd.val j (fmt h fd).n) }))

/-- The forms on codes: each active element is the logical or shift operation on the codes. The average of two elements
is half their sum, rounded in the form's mode and narrowed, with INEXACT where a bit was lost. -/
def Claim.CodeElements : Prop :=
  (∀ (i : Instr) (s : State) (F : VecForm) (vd a : VReg) (b : VSrc) (fd fa fb : FEnt) (mk : MReg) (op : Nat → Nat → Nat → Nat),
    codeRule i = some (vd, a, b, fd, fa, fb, mk, op) → vecForm s.hart i = some F → refusal s.hart F = none →
    VecDone i s (overGroup s.hart vd fd mk false (fun j =>
      let h := s.hart
      { code := op (fmt h fd).n (elem h a.val j (fmt h fd).n) (secondCode h b fb j), flags := 0,
        pois := elemPois h a.val j (fmt h fd).n || secondPois h b fb j })))
  ∧ (∀ (s : State) (F : VecForm) (vd a : VReg) (b : VSrc) (fd fa fb : FEnt) (mk : MReg) (rm : RMode) (dr : Bool),
    vecForm s.hart (.vavg vd a b fd fa fb mk rm) = some F → refusal s.hart F = none →
    (dr = true ↔ takesDraw s.hart (rmode s.hart rm) mk) →
    VecDone (.vavg vd a b fd fa fb mk rm) s (overGroup s.hart vd fd mk dr (fun j =>
      let h := s.hart
      let v := intOf (fmt h fa) (elem h a.val j (fmt h fa).n) + intOf (fmt h fb) (secondCode h b fb j)
      let r := narrow (fmt h fd) (halved (rmode h rm) v (drawAt h.vc.rseed j))
      { code := r.1, flags := r.2 ||| (if v % 2 = 0 then 0 else fINEXACT),
        pois := elemPois h a.val j (fmt h fa).n || secondPois h b fb j })))

/-- Element-wise integer arithmetic, logic and shifts. -/
def Obligations.IntegerVectors : Prop := Claim.IntegerElements ∧ Claim.CodeElements

/-- The rounding forms of two operands: the exact result of the operation, rounded once into the destination entry. -/
def Claim.FloatElements : Prop :=
  (∀ (i : Instr) (s : State) (F : VecForm) (vd a : VReg) (b : VSrc) (fd fa fb : FEnt) (mk : MReg) (rm : RMode) (usesD : Bool)
      (op : WideOp) (dr : Bool),
    floatRule i = some (vd, a, b, fd, fa, fb, mk, rm, usesD, op) → vecForm s.hart i = some F → refusal s.hart F = none →
    (dr = true ↔ takesDraw s.hart (rmode s.hart rm) mk) →
    VecDone i s (overGroup s.hart vd fd mk dr (fun j =>
      let h := s.hart
      rounded h fd (rmode h rm) j (op (decide (rmode h rm = 2)) (wide1 h a fa j) (wide2 h b fb j) (wide1 h vd fd j))
        (elemPois h a.val j (fmt h fa).n || secondPois h b fb j || (usesD && elemPois h vd.val j (fmt h fd).n)))))
  ∧ (∀ (s : State) (F : VecForm) (vd a : VReg) (b : VSrc) (c : VReg) (fd fa fb : FEnt) (mk : MReg) (rm : RMode) (dr : Bool),
    vecForm s.hart (.vfma vd a b c fd fa fb mk rm) = some F → refusal s.hart F = none →
    (dr = true ↔ takesDraw s.hart (rmode s.hart rm) mk) →
    VecDone (.vfma vd a b c fd fa fb mk rm) s (overGroup s.hart vd fd mk dr (fun j =>
      let h := s.hart
      rounded h fd (rmode h rm) j (fmaW (decide (rmode h rm = 2)) (wide1 h a fa j) (wide2 h b fb j) (wide1 h c fd j))
        (elemPois h a.val j (fmt h fa).n || secondPois h b fb j || elemPois h c.val j (fmt h fd).n))))

/-- The sign forms, the classes, and the conversion between entries. -/
def Claim.SignsClassesConversions : Prop :=
  (∀ (i : Instr) (s : State) (F : VecForm) (vd a : VReg) (b : VSrc) (fd fa fb : FEnt) (mk : MReg) (rm : RMode)
      (op : Bool → Bool → Bool) (dr : Bool),
    signRule i = some (vd, a, b, fd, fa, fb, mk, rm, op) → vecForm s.hart i = some F → refusal s.hart F = none →
    (dr = true ↔ takesDraw s.hart (rmode s.hart rm) mk) →
    VecDone i s (overGroup s.hart vd fd mk dr (fun j =>
      let h := s.hart
      let w := signed (op (signOf (fmt h fa) (elem h a.val j (fmt h fa).n)) (signOf (fmt h fb) (secondCode h b fb j))) (wide1 h a fa j)
      rounded h fd (rmode h rm) j (w, nanFlag w) (elemPois h a.val j (fmt h fa).n || secondPois h b fb j))))
  ∧ (∀ (s : State) (F : VecForm) (vd a : VReg) (fd fa : FEnt) (mk : MReg),
    vecForm s.hart (.vfclass vd a fd fa mk) = some F → refusal s.hart F = none →
    VecDone (.vfclass vd a fd fa mk) s (overGroup s.hart vd fd mk false (fun j =>
      let h := s.hart
      let r := narrow (fmt h fd) (classOf (fmt h fa) (elem h a.val j (fmt h fa).n))
      { code := r.1, flags := r.2, pois := elemPois h a.val j (fmt h fa).n })))
  ∧ (∀ (s : State) (F : VecForm) (vd a : VReg) (fd fa : FEnt) (mk : MReg) (rm : RMode) (dr : Bool),
    vecForm s.hart (.vcvt vd a fd fa mk rm) = some F → refusal s.hart F = none →
    (dr = true ↔ takesDraw s.hart (rmode s.hart rm) mk) →
    VecDone (.vcvt vd a fd fa mk rm) s (overGroup s.hart vd fd mk dr (fun j =>
      let h := s.hart
      rounded h fd (rmode h rm) j (wide1 h a fa j, nanFlag (wide1 h a fa j)) (elemPois h a.val j (fmt h fa).n))))

/-- The class of a code (R234), by its value and sign. -/
def Claim.ClassOfCode : Prop :=
  ∀ (f : Fmt) (c : Nat),
    (fdecode f c = .nan false → classOf f c = 8) ∧ (fdecode f c = .nan true → classOf f c = 9)
    ∧ (∀ g, fdecode f c = .inf g → classOf f c = if signOf f c then 0 else 7)
    ∧ (∀ g, fdecode f c = .zero g → classOf f c = if f.isInt = false ∧ signOf f c = true then 3 else 4)
    ∧ (∀ g m e st, fdecode f c = .fin g m e st → f.isInt = true → classOf f c = if g then 1 else 6)
    ∧ (∀ g m e st, fdecode f c = .fin g m e st → f.isInt = false →
        classOf f c = 1 ∨ classOf f c = 2 ∨ classOf f c = 5 ∨ classOf f c = 6)

/-- Floating arithmetic, signs, classes and conversions. -/
def Obligations.FloatVectors : Prop := Claim.FloatElements ∧ Claim.SignsClassesConversions ∧ Claim.ClassOfCode

/-- The exact operations, over any unit that divides their operands: sum, product, fused product and order; a minus b is the
sum with the sign of b turned; and the invalid combinations give a quiet NaN with INVALID. -/
def Claim.ExactOperations : Prop :=
  (∀ (x : Int) (a b : WVal) (u v : Int) (r : Bool), unitsOf2 x a = some u → unitsOf2 x b = some v →
    unitsOf2 x (addW r a b).1 = some (u + v) ∧ (addW r a b).2 = 0
    ∧ unitsOf2 (x + x) (mulW a b).1 = some (u * v) ∧ (mulW a b).2 = 0
    ∧ cmpW a b = (if u < v then -1 else if u = v then 0 else 1) ∧ unitsOf2 x (negW a) = some (-u))
  ∧ (∀ (x : Int) (a b c : WVal) (u v w : Int) (r : Bool), unitsOf2 x a = some u → unitsOf2 x b = some v →
    unitsOf2 (x + x) c = some w → unitsOf2 (x + x) (fmaW r a b c).1 = some (u * v + w))
  ∧ (∀ (s : Bool) (r : Bool), addW r (.inf s) (.inf (!s)) = (.nan true, fINVALID) ∧ addW r (.inf s) (.inf s) = (.inf s, 0))
  ∧ (∀ s t : Bool, mulW (.inf s) (.zero t) = (.nan true, fINVALID) ∧ divW (.zero s) (.zero t) = (.nan true, fINVALID)
    ∧ divW (.inf s) (.inf t) = (.nan true, fINVALID))
  ∧ (∀ (s t q : Bool) (m : Nat) (e : Int), divW (.fin s m e q) (.zero t) = (.inf (s != t), fDIVZERO))
  ∧ (∀ w : WVal, ∀ r, (addW r (.nan false) w).1 = .nan true ∧ (addW r (.nan false) w).2.getLsbD 0 = true)

/-- The one rounding (R100): the rounded integer is the cut-off one or the next, nearest under RNE and RMM with ties to even
and away from zero, the cut-off one under RTZ, and the side of the sign under RDN and RUP; exact values stay. -/
def Claim.Rounding : Prop :=
  ∀ (s : Bool) (m : Nat) (e u : Int) (rm draw : Nat), e < u → draw < 2 ^ 16 →
    let d := 2 ^ (u - e).toNat
    let q := (rndAt s m e u false rm draw).1
    (m % d = 0 → q = m / d ∧ (rndAt s m e u false rm draw).2 = true)
    ∧ (m % d ≠ 0 → (rndAt s m e u false rm draw).2 = false
        ∧ (q = m / d ∨ q = m / d + 1)
        ∧ (rm = 0 → 2 * (m % d) < d → q = m / d) ∧ (rm = 0 → d < 2 * (m % d) → q = m / d + 1)
        ∧ (rm = 0 → 2 * (m % d) = d → q % 2 = 0)
        ∧ (rm = 1 → q = m / d)
        ∧ (rm = 2 → q = if s then m / d + 1 else m / d)
        ∧ (rm = 3 → q = if s then m / d else m / d + 1)
        ∧ (rm = 4 → (q = m / d + 1 ↔ d ≤ 2 * (m % d)))
        ∧ (rm = 5 → (q = m / d + 1 ↔ 2 ^ 16 ≤ m % d * 2 ^ 16 / d + draw)))

/-- Exact operations on wide values and their one rounding. -/
def Obligations.ExactThenRounded : Prop := Claim.ExactOperations ∧ Claim.Rounding

/-- Compares write a mask: the relation of the two exact values, the one that holds with a NaN, and INVALID for a NaN. -/
def Claim.Compares : Prop :=
  ∀ (i : Instr) (s : State) (F : VecForm) (md : MReg) (a : VReg) (b : VSrc) (fa fb : FEnt) (mk : MReg) (rel : Int → Bool)
      (strict : Bool),
    compareRule i = some (md, a, b, fa, fb, mk, rel, strict) → vecForm s.hart i = some F → refusal s.hart F = none →
    MaskDone i s md (mbit s.hart mk) (mpois s.hart mk)
      (fun j => ((compared i rel strict (wide1 s.hart a fa j) (wide2 s.hart b fb j)).1,
        elemPois s.hart a.val j (fmt s.hart fa).n || secondPois s.hart b fb j))
      (fun j => (compared i rel strict (wide1 s.hart a fa j) (wide2 s.hart b fb j)).2)

/-- `vmerge` takes every element from one of its operands, by the mask; `vsplat` writes a scalar to the active elements. -/
def Claim.MergeAndSplat : Prop :=
  (∀ (s : State) (F : VecForm) (vd a : VReg) (b : VSrc) (fd fa fb : FEnt) (mk : MReg) (rm : RMode) (dr : Bool),
    vecForm s.hart (.vmerge vd a b fd fa fb mk rm) = some F → refusal s.hart F = none →
    (dr = true ↔ rmode s.hart rm = 5 ∧ 0 < vlOf s.hart) →
    VecDone (.vmerge vd a b fd fa fb mk rm) s
      { n := (fmt s.hart fd).n, act := fun _ => true, pm := mpois s.hart mk, draws := dr,
        dsts := [(vd.val, fun j =>
          let h := s.hart
          if mbit h mk j = true then rounded h fd (rmode h rm) j (wide1 h a fa j, 0) (elemPois h a.val j (fmt h fa).n)
          else rounded h fd (rmode h rm) j (wide2 h b fb j, 0) (secondPois h b fb j))] })
  ∧ (∀ (s : State) (F : VecForm) (vd : VReg) (x : XReg) (fd fb : FEnt) (mk : MReg) (rm : RMode) (dr : Bool),
    vecForm s.hart (.vsplat vd x fd fb mk rm) = some F → refusal s.hart F = none →
    (dr = true ↔ takesDraw s.hart (rmode s.hart rm) mk) →
    VecDone (.vsplat vd x fd fb mk rm) s (overGroup s.hart vd fd mk dr (fun j =>
      let h := s.hart
      rounded h fd (rmode h rm) j (fdecode (fmt h fb) (ux s x % 2 ^ (fmt h fb).n), 0) (poisX h x))))

/-- Compares, merges and splats. -/
def Obligations.CompareAndSelect : Prop := Claim.Compares ∧ Claim.MergeAndSplat

/-! ### Masks, butterflies, blocks and special functions -/

/-- Mask logic, counts, finds and cuts. -/
def Claim.MaskResults : Prop :=
  (∀ (i : Instr) (s : State) (d a b : MReg) (f : Bool → Bool → Bool), maskRule i = some (d, a, b, f) →
    MaskDone i s d (fun _ => true) (fun _ => false)
      (fun j => (f (mbit s.hart a j) (mbit s.hart b j), mpois s.hart a j || mpois s.hart b j)) (fun _ => 0))
  ∧ (∀ (s : State) (d : XReg) (a k : MReg),
    ScalarDone (.mcount d a k) s d (word (bothBelow s.hart a k (vlOf s.hart))) (maskPois s.hart a k (vlOf s.hart))
    ∧ ScalarDone (.mfind d a k) s d (if firstBoth s.hart a k < vlOf s.hart then word (firstBoth s.hart a k) else word (-1))
        (maskPois s.hart a k (vlOf s.hart)))
  ∧ (∀ (i : Instr) (s : State) (d a k : MReg) (rel : Nat → Nat → Bool), cutRule i = some (d, a, k, rel) → d ≠ a → d ≠ k →
    MaskDone i s d (mbit s.hart k) (mpois s.hart k)
      (fun j => (rel j (firstBoth s.hart a k), maskPois s.hart a k (vlOf s.hart))) (fun _ => 0))

/-- Ranks and indices, encoded exactly into VTYPE.FMT. -/
def Claim.RanksAndIndices : Prop :=
  ∀ (s : State) (F : VecForm) (d : VReg) (a k : MReg),
    (vecForm s.hart (.vrank d a k) = some F → refusal s.hart F = none →
      VecDone (.vrank d a k) s (overGroup s.hart d (vtFmt s.hart) k false (fun j =>
        let r := fencode (fmt s.hart (vtFmt s.hart)) (exactInt (bothBelow s.hart a k j)) 0 0
        { code := r.1, flags := r.2, pois := maskPois s.hart a k j })))
    ∧ (vecForm s.hart (.vindex d k) = some F → refusal s.hart F = none →
      VecDone (.vindex d k) s (overGroup s.hart d (vtFmt s.hart) k false (fun j =>
        let r := fencode (fmt s.hart (vtFmt s.hart)) (exactInt j) 0 0
        { code := r.1, flags := r.2, pois := false })))

/-- Mask logic, scans, ranks and indices. -/
def Obligations.MasksAndScans : Prop := Claim.MaskResults ∧ Claim.RanksAndIndices

/-- The butterfly: the halved sum to the first group and the halved difference to the second, from the old operands. -/
def Claim.Butterfly : Prop :=
  ∀ (s : State) (F : VecForm) (d a b : VReg) (fd fa fb : FEnt) (k : MReg) (rm : RMode) (sh : Fin 16) (dr : Bool),
    vecForm s.hart (.vbfly d a b fd fa fb k rm sh) = some F → refusal s.hart F = none →
    (dr = true ↔ takesDraw s.hart (rmode s.hart rm) k) →
    let h := s.hart
    let m := rmode h rm
    let x := fun j => addW (decide (m = 2)) (wide1 h a fa j) (wide1 h b fb j)
    let y := fun j => addW (decide (m = 2)) (wide1 h a fa j) (negW (wide1 h b fb j))
    let p := fun j => elemPois h a.val j (fmt h fa).n || elemPois h b.val j (fmt h fb).n
    VecDone (.vbfly d a b fd fa fb k rm sh) s
      { n := (fmt h fd).n, act := mbit h k, pm := mpois h k, draws := dr,
        dsts := [(d.val, fun j => rounded h fd m j (halveW sh.val (x j).1, (x j).2) (p j)),
                 (d.val + groupSize h, fun j => rounded h fd m j (halveW sh.val (y j).1, (y j).2) (p j))] }

/-- Decoding under block scales, and the special functions; which of two bracketing codes a 32-bit result takes is free. The
free choice of a 32-bit result and the evaluation of the functions are those of log 17. -/
def Claim.BlocksDecodedAndFunctions : Prop :=
  (∀ (s : State) (F : VecForm) (d a c : VReg) (fd fa : FEnt) (k : MReg) (rm : RMode) (dr : Bool),
    vecForm s.hart (.vcvtbd d a c fd fa k rm) = some F → refusal s.hart F = none →
    (dr = true ↔ takesDraw s.hart (rmode s.hart rm) k) →
    VecDone (.vcvtbd d a c fd fa k rm) s (overGroup s.hart d fd k dr (fun j =>
      let h := s.hart
      let at_ := 8 * scaleByte h (fmt h fa) a.val j
      let w := scaledVal (fmt h fa) (getBits (vreg h c.val) at_ 8) (elem h a.val j (fmt h fa).n)
      rounded h fd (rmode h rm) j (w, nanFlag w)
        (elemPois h a.val j (fmt h fa).n || decide (getBits (vpoisReg h c.val) at_ 8 ≠ 0)))))
  ∧ (∀ (i : Instr) (s : State) (F : VecForm) (d a : VReg) (sub : Option SfSub) (fd fa : FEnt) (k : MReg) (fn : SfFn),
    (match fn with
      | .exp => i = .vexp d a sub fd fa k | .exp2 => i = .vexp2 d a sub fd fa k | .log2 => i = .vlog2 d a sub fd fa k
      | .rcp => i = .vrcp d a sub fd fa k | .rsqrt => i = .vrsqrt d a sub fd fa k | .sqrt => i = .vsqrt d a sub fd fa k
      | .sin => i = .vsin d a sub fd fa k | .cos => i = .vcos d a sub fd fa k | .tanh => i = .vtanh d a sub fd fa k
      | .sigmoid => i = .vsigmoid d a sub fd fa k | .erf => i = .verf d a sub fd fa k) →
    vecForm s.hart i = some F → refusal s.hart F = none →
    VecDone i s (overGroup s.hart d fd k false (fun j =>
      let h := s.hart
      let x := match sub with
        | none => (wide1 h a fa j, 0)
        | some q => addW false (wide1 h a fa j) (negW (fdecode (fmt h q.fb) ((getX h q.xs).toNat % 2 ^ (fmt h q.fb).n)))
      let r := sfApply fn (fmt h fd) h.vc.sfth x.1 (Config.freeBool s.free j)
      { code := r.1, flags := x.2 ||| r.2,
        pois := (match sub with | none => false | some q => poisX h q.xs) || elemPois h a.val j (fmt h fa).n })))

/-- A block of `vcvtbs`: its elements lie from a to z. -/
structure Block where
  a : Nat
  z : Nat

/-- The block of element i, cut off at VL. -/
def blockOf (h : Hart) (d : Fmt) (i : Nat) : Block :=
  { a := i / d.blkLen * d.blkLen, z := min (i / d.blkLen * d.blkLen + d.blkLen) (vlOf h) }

/-- The active elements of a block, their values, and whether one is a NaN or an infinity. -/
def Block.active (B : Block) (h : Hart) (k : MReg) : List Nat := (List.range' B.a (B.z - B.a)).filter (mbit h k)
def Block.values (B : Block) (h : Hart) (k : MReg) (a : VReg) (fa : FEnt) : List WVal := (B.active h k).map (wide1 h a fa)
def Block.bad (B : Block) (h : Hart) (k : MReg) (a : VReg) (fa : FEnt) : Bool :=
  (B.values h k a fa).any (fun w => match w with | .nan _ => true | .inf _ => true | .zero _ => false | .fin _ _ _ _ => false)
def Block.pois (B : Block) (h : Hart) (k : MReg) (a : VReg) (fa : FEnt) : Bool :=
  (B.active h k).any (fun j => elemPois h a.val j (fmt h fa).n) || (List.range' B.a (B.z - B.a)).any (mpois h k)

/-- The scale of a block: the NaN scale, or that of its largest magnitude. -/
def Block.scale (B : Block) (h : Hart) (d : Fmt) (t : Nat) (k : MReg) (a : VReg) (fa : FEnt) : Nat :=
  let m := magMax (B.values h k a fa)
  if B.bad h k a fa then nanScale d t else blockScale d t m.1 m.2

/-- `vcvtbs` (R240): a block with an active element from VES on gets its scale byte and the codes of all its active elements;
its others follow the mask's rule; a block without one is left. Only the group and the scale register differ. A
group has at most 8 registers, as every configuration leaves it (R207). -/
def Claim.BlocksEncoded : Prop :=
  ∀ (s : State) (F : VecForm) (d a c : VReg) (fd fa : FEnt) (k : MReg) (rm : RMode) (t : Fin 4) (dr : Bool),
    vecForm s.hart (.vcvtbs d a c fd fa k rm t) = some F → refusal s.hart F = none → groupSize s.hart ≤ 8 →
    (dr = true ↔ takesDraw s.hart (rmode s.hart rm) k) →
    let h := s.hart
    let D := fmt h fd
    let takes := fun i => ∃ j, startsAt h ≤ j ∧ (blockOf h D i).a ≤ j ∧ j < (blockOf h D i).z ∧ mbit h k j = true
    ∃ u, exec (.vcvtbs d a c fd fa k rm t) s = .next (retire s { s with hart := u })
      ∧ u = { h with vf := u.vf, vc := { h.vc with ves := 0, rseed := if dr then nextSeed h.vc.rseed else h.vc.rseed,
                                                   fxm := { h.vc.fxm with acc := u.vc.fxm.acc } } }
      ∧ u.vf = { h.vf with v := u.vf.v, pv := u.vf.pv, m := u.vf.m }
      ∧ (∀ r, r < 64 → r ≠ c.val → (r < d.val ∨ d.val + groupSize h ≤ r) → vreg u r = vreg h r ∧ vpoisReg u r = vpoisReg h r)
      ∧ (∀ m : MReg, m ≠ 7 ∨ h.vc.fxm.sel = 0 → u.vf.m[m.val] = h.vf.m[m.val])
      ∧ ∀ i, i < vlOf h →
          let B := blockOf h D i
          let sc := B.scale h D t.val k a fa
          let p := B.pois h k a fa
          (takes i → getBits (vreg u c.val) (8 * scaleByte h D d.val B.a) 8 = sc % 256)
          ∧ (takes i → mbit h k i = true → elem u d.val i D.n = (if B.bad h k a fa then 0 else
                (encBlockElem D t.val sc (wide1 h a fa i) (rmode h rm) (drawAt h.vc.rseed i)).1) % 2 ^ D.n
              ∧ elemPois u d.val i D.n = p)
          ∧ (takes i → mbit h k i = false → maskZero h = true →
              elem u d.val i D.n = 0 ∧ elemPois u d.val i D.n = p)
          ∧ (takes i → mbit h k i = false → maskZero h = false →
              elem u d.val i D.n = elem h d.val i D.n ∧ elemPois u d.val i D.n = (mpois h k i || elemPois h d.val i D.n))
          ∧ (¬ takes i → SameElem h u d.val i D.n)

/-- The butterfly stage, block scales, and the special functions. -/
def Obligations.ButterflyBlocksFunctions : Prop :=
  Claim.Butterfly ∧ Claim.BlocksDecodedAndFunctions ∧ Claim.BlocksEncoded

/-! ### Permutes and reductions -/

/-- The permutes that write each element from a source. -/
def Claim.Slides : Prop :=
  ∀ (i : Instr) (s : State) (F : VecForm) (d : VReg) (fd : FEnt) (k : MReg) (live : Nat → Bool) (out : Nat → ElemOut),
    permuteRule s.hart i = some (d, fd, k, live, out) → vecForm s.hart i = some F → refusal s.hart F = none →
    VecDone i s { n := (fmt s.hart fd).n, dsts := [(d.val, out)], live := live, act := mbit s.hart k, pm := mpois s.hart k }

/-- `vpack` moves the counted elements down to the positions counted from bit 0; `vget` reads element 0 into a register; and
`vplace` writes element 0, whose successors are tail elements. -/
def Claim.PackGetPlace : Prop :=
  (∀ (s : State) (F : VecForm) (d a : VReg) (fd : FEnt) (k : MReg),
    vecForm s.hart (.vpack d a fd k) = some F → refusal s.hart F = none →
    ∃ t, exec (.vpack d a fd k) s = .next (retire s { s with hart := t }) ∧ OnlyGroup s.hart d.val t
      ∧ t.vc.fxm = s.hart.vc.fxm
      ∧ let h := s.hart
        let n := (fmt h fd).n
        let pos := fun i => (List.range i).countP (mbit h k)
        (∀ i, ActiveAt h k i → elem t d.val (pos i) n = elem h a.val i n
          ∧ elemPois t d.val (pos i) n = (elemPois h a.val i n || (List.range (i + 1)).any (mpois h k)))
        ∧ (∀ j, j < pos (startsAt h) → SameElem h t d.val j n)
        ∧ (∀ j, pos (vlOf h) ≤ j → j < capOf h n → if tailZero h = true ∧ startsAt h < vlOf h
            then elem t d.val j n = 0 ∧ elemPois t d.val j n = false else SameElem h t d.val j n))
  ∧ (∀ (s : State) (F : VecForm) (x : XReg) (a : VReg) (fd : FEnt),
    vecForm s.hart (.vget x a fd) = some F → refusal s.hart F = none →
    ScalarDone (.vget x a fd) s x
      (let c := elem s.hart a.val 0 (fmt s.hart fd).n
       if (fmt s.hart fd).spv = 4 then word (signedLow (fmt s.hart fd).n c) else word c)
      (elemPois s.hart a.val 0 (fmt s.hart fd).n))
  ∧ (∀ (s : State) (F : VecForm) (d : VReg) (x : XReg) (fd : FEnt),
    vecForm s.hart (.vplace d x fd) = some F → refusal s.hart F = none →
    ∃ t, exec (.vplace d x fd) s = .next (retire s { s with hart := t }) ∧ OnlyGroup s.hart d.val t
      ∧ t.vc.fxm = s.hart.vc.fxm
      ∧ (startsAt s.hart = 0 → 0 < vlOf s.hart → FirstWritten s.hart d.val (fmt s.hart fd).n (ux s x) (poisX s.hart x) t)
      ∧ (vlOf s.hart ≤ startsAt s.hart → t.vf = s.hart.vf))

/-- Slides, packs and single elements. -/
def Obligations.Permutes : Prop := Claim.Slides ∧ Claim.PackGetPlace

/-- A reduction with a result completes with it in element 0, when an element from VES on is left to do. -/
def ReducesTo (i : Instr) (s : State) (d : VReg) (n : Nat) (r : Nat × Flags → Prop) (p : Bool) : Prop :=
  ∃ t c, r c ∧ exec i s = .next (retire s { s with hart := t }) ∧ OnlyGroup s.hart d.val t
    ∧ (startsAt s.hart < vlOf s.hart → FirstWritten s.hart d.val n c.1 p t
        ∧ t.vc.fxm.acc = s.hart.vc.fxm.acc ||| c.2)
    ∧ (vlOf s.hart ≤ startsAt s.hart → t.vf = s.hart.vf ∧ t.vc.fxm = s.hart.vc.fxm)

/-- Reductions over the active elements below VL, from element 0 of the second source: the ordered sum, some tree of sums, the
greatest and least numbers, and the exact integer sum; stochastic rounding counts as to nearest. -/
def Obligations.Reductions : Prop :=
  ∀ (s : State) (F : VecForm) (d a b : VReg) (fd fa : FEnt) (k : MReg) (rm : RMode),
    let h := s.hart
    let D := fmt h fd
    let m := if rmode h rm < 5 then rmode h rm else 0
    let w := wide1 h b fd 0
    let l := (activeBelow h k).map (wide1 h a fa)
    let p := elemPois h b.val 0 D.n || (activeBelow h k).any (fun j => elemPois h a.val j (fmt h fa).n)
      || (List.range (vlOf h)).any (mpois h k)
    (vecForm h (.vfredosum d a b fd fa k rm) = some F → refusal h F = none →
      ReducesTo (.vfredosum d a b fd fa k rm) s d D.n (fun c => c = orderedSum D m w l) p)
    ∧ (vecForm h (.vfredusum d a b fd fa k rm) = some F → refusal h F = none →
      ReducesTo (.vfredusum d a b fd fa k rm) s d D.n
        (fun c => ∃ v f, TreeSum D m (w :: l) v f ∧ c = ((fencode D v m 0).1, f ||| (fencode D v m 0).2)) p)
    ∧ (∀ mx : Bool, ∀ i, i = (if mx then .vfredmax d a b fd fa k rm else .vfredmin d a b fd fa k rm) →
      vecForm h i = some F → refusal h F = none →
      ReducesTo i s d D.n (fun c => ∃ v,
        ((v ∈ w :: l ∧ isNan v = false
            ∧ ∀ u ∈ w :: l, isNan u = false → (if mx then lessW v u else lessW u v) = false)
          ∨ ((∀ u ∈ w :: l, isNan u = true) ∧ v = .nan true))
        ∧ c = ((fencode D v m 0).1, ((w :: l).foldl (fun f u => f ||| nanFlag u) 0) ||| (fencode D v m 0).2)) p)
    ∧ (vecForm h (.vredsum d a b fd fa k rm) = some F → refusal h F = none →
      ReducesTo (.vredsum d a b fd fa k rm) s d D.n (fun c => c = narrow D (intOf D (elem h b.val 0 D.n)
        + ((activeBelow h k).map (fun j => intOf (fmt h fa) (elem h a.val j (fmt h fa).n))).sum)) p)

/-! ### Vector memory -/

/-- Loads: every active field from its address (R212), in ordinary memory without a fault or a race. -/
def Claim.LoadElements : Prop :=
  ∀ (i : Instr) (s : State) (F : VecForm) (m : MForm) (loc : Nat → Nat → Acc),
    vecLoad i = some m → vecForm s.hart i = some F → refusal s.hart F = none → AddressesClean s.hart m →
    FieldsReach s m .read loc → VecDone i s (loadSpec s m loc)

/-- Element e is the first active one of which a field faults, with this cause at this address; the fields before it reach
ordinary memory. -/
def FirstFault (s : State) (m : MForm) (u : Use) (loc : Nat → Nat → Acc) (e c : Nat) (a : Word) : Prop :=
  let ok := fun i f => elemPlace s (fieldAddr s.hart m i f) (fieldBytes (fmt s.hart m.fe).n) u = .mem (loc i f)
    ∧ (loc i f).dev = false
    ∧ ∀ j, j < fieldBytes (fmt s.hart m.fe).n → copyRaces s ((loc i f).loc + j) (decide (u = .write)) = false
  ActiveAt s.hart m.msk e ∧ (∀ i f, ActiveAt s.hart m.msk i → i < e → f < m.nf → ok i f)
  ∧ ∃ f, f < m.nf ∧ (∀ g, g < f → ok e g) ∧ a = fieldAddr s.hart m e f
      ∧ elemPlace s a (fieldBytes (fmt s.hart m.fe).n) u = .bad c

/-- The elements below e of a load are written, and no other. -/
def LoadedBelow (h : Hart) (E : ElemSpec) (e : Nat) (t : Hart) : Prop :=
  (∀ p ∈ E.dsts, ∀ i, i < capOf h E.n →
    (E.takes h i → i < e → elem t p.1 i E.n = (p.2 i).code % 2 ^ E.n ∧ elemPois t p.1 i E.n = ((p.2 i).pois || E.pm i))
    ∧ (startsAt h ≤ i → i < e → E.act i = false →
        elem t p.1 i E.n = (if maskZero h then 0 else elem h p.1 i E.n)
        ∧ elemPois t p.1 i E.n = (E.pm i || (!maskZero h && elemPois h p.1 i E.n)))
    ∧ (i < startsAt h ∨ (e ≤ i ∧ i < vlOf h) → SameElem h t p.1 i E.n))
  ∧ (∀ r, r < 64 → (∀ p ∈ E.dsts, r < p.1 ∨ p.1 + groupSize h ≤ r) → vreg t r = vreg h r ∧ vpoisReg t r = vpoisReg h r)

/-- A fault at an element of a load or store: the elements below it are done and none from it on, VES names it, and the trap
is taken at the instruction; but a `vldff` whose fault lies above its first active element cuts VL there and completes. -/
def Claim.ElementFaults : Prop :=
  (∀ (i : Instr) (s : State) (F : VecForm) (m : MForm) (loc : Nat → Nat → Acc) (e c : Nat) (a : Word),
    vecLoad i = some m → vecForm s.hart i = some F → refusal s.hart F = none → AddressesClean s.hart m →
    FirstFault s m .read loc e c a →
    ((∀ vr xb o fe nf k, i ≠ .vldff vr xb o fe nf k) ∨ (s.hart.rreq = none ∧ ∀ j, ActiveAt s.hart m.msk j → e ≤ j) →
      ∃ t, exec i s = .next (memTrap { s with hart := t } c a) ∧ LoadedBelow s.hart (loadSpec s m loc) e t
        ∧ t = { s.hart with vf := t.vf, vc := { s.hart.vc with ves := BitVec.ofNat 17 e } }
        ∧ t.vf = { s.hart.vf with v := t.vf.v, pv := t.vf.pv })
    ∧ (∀ vr xb o fe nf k, i = .vldff vr xb o fe nf k → s.hart.rreq = none → (∃ j, ActiveAt s.hart m.msk j ∧ j < e) →
      ∃ t, exec i s = .next (retire s { s with hart := t }) ∧ LoadedBelow s.hart (loadSpec s m loc) e t
        ∧ t = { s.hart with vf := t.vf, vc := { s.hart.vc with ves := 0, vl := BitVec.ofNat 17 e } }))
  ∧ (∀ (i : Instr) (s : State) (F : VecForm) (m : MForm) (loc : Nat → Nat → Acc) (e c : Nat) (a : Word),
    vecStore i = some m → vecForm s.hart i = some F → refusal s.hart F = none → AddressesClean s.hart m →
    FirstFault s m .write loc e c a →
    ∃ t, exec i s = .next (memTrap t c a)
      ∧ t = { s with
              hart := { s.hart with own := t.hart.own, vc := { s.hart.vc with ves := BitVec.ofNat 17 e } },
              mem := { s.mem with nextWid := t.mem.nextWid } }
      ∧ ∀ l k, (∀ j f, ActiveAt s.hart m.msk j → j < e → f < m.nf →
          l < (loc j f).loc ∨ (loc j f).loc + fieldBytes (fmt s.hart m.fe).n ≤ l) → viewByte t t.hart k l = viewByte s s.hart k l)

/-- Vector loads and the faults of elements. -/
def Obligations.VectorLoads : Prop := Claim.LoadElements ∧ Claim.ElementFaults

/-- Stores complete, and what the hart then sees in memory. -/
def Claim.StoreElements : Prop :=
  ∀ (i : Instr) (s : State) (F : VecForm) (m : MForm) (loc : Nat → Nat → Acc),
    vecStore i = some m → vecForm s.hart i = some F → refusal s.hart F = none → AddressesClean s.hart m →
    FieldsReach s m .write loc →
    ∃ t, exec i s = .next (retire s t) ∧ OnlyOwnStores s t
      ∧ StoredFields s t (fmt s.hart m.fe).n (match m.mop with | .index _ _ o => o | .unit => true | .stride _ => true)
          (fun j f => ActiveAt s.hart m.msk j ∧ f < m.nf) loc
          (fun j f => elem s.hart (m.vr.val + f * groupSize s.hart) j (fmt s.hart m.fe).n) (fun j f => j * m.nf + f)

/-- `vappend` stores the counted elements at consecutive positions of the work vector, and adds their number to xd. -/
def Claim.Append : Prop :=
  ∀ (s : State) (F : VecForm) (x b : XReg) (a : VReg) (fd : FEnt) (k : MReg) (loc : Nat → Acc),
    vecForm s.hart (.vappend x a b fd k) = some F → refusal s.hart F = none → poisX s.hart x = false → poisX s.hart b = false →
    let h := s.hart
    let n := (fmt h fd).n
    let pos := fun j => ux s x + (List.range j).countP (mbit h k)
    (∀ j, ActiveAt h k j →
      elemPlace s (word (ux s b + pos j * n / 8 : Nat)) (fieldBytes n) .write = .mem (loc j) ∧ (loc j).dev = false
      ∧ ∀ q, q < fieldBytes n → copyRaces s ((loc j).loc + q) true = false) →
    ∃ t, exec (.vappend x a b fd k) s =
        .next (retire s (t.setX x (word (ux s x + (List.range (vlOf h)).countP (mbit h k) : Nat)) ((List.range (vlOf h)).any (mpois h k))))
      ∧ OnlyOwnStores s t
      ∧ StoredFields s t n true (fun j f => ActiveAt h k j ∧ f = 0) (fun j _ => loc j) (fun j _ => elem h a.val j n) (fun j _ => pos j)

/-- `vlm` and `vsm` move mask bit i to or from bit i mod 8 of byte i div 8; `vsm` writes whole bytes. -/
def Claim.MaskBytes : Prop :=
  ∀ (s : State) (d : MReg) (b : XReg) (o : BitVec 32) (loc : Nat → Acc), poisX s.hart b = false →
    let h := s.hart
    let on := fun j => startsAt h / 8 ≤ j ∧ j < (vlOf h + 7) / 8 ∧ startsAt h < vlOf h
    let place := fun u => ∀ j, on j → elemPlace s (word (ux s b + o.toInt + j)) 1 u = .mem (loc j) ∧ (loc j).dev = false
      ∧ copyRaces s (loc j).loc (decide (u = Use.write)) = false
    (place .read → MaskDone (.vlm d b o) s d (fun _ => true) (fun _ => false)
      (fun i => ((viewByte s h (loc (i / 8)).key (loc (i / 8)).loc).toNat.testBit (i % 8), viewPois s h (loc (i / 8)).loc 1))
      (fun _ => 0))
    ∧ (place .write → ∃ t, exec (.vsm d b o) s = .next (retire s t) ∧ OnlyOwnStores s t
      ∧ StoredFields s t 8 true (fun j f => on j ∧ f = 0) (fun j _ => loc j)
          (fun j _ => getBits (h.vf.m[d.val]) (8 * j) 8) (fun j _ => j))

/-- Vector stores, appends, and mask bytes. -/
def Obligations.VectorStores : Prop := Claim.StoreElements ∧ Claim.Append ∧ Claim.MaskBytes

/-- Vector atomics, after the hart's earlier releases: one strong access per active element, in ascending order or under MOP 3
in some order, with the old codes in the group; masked-off and tail elements follow their rules. That the releases are
performed in the same step is the model's reading (log 7). -/
def Obligations.VectorAtomics : Prop :=
  ∀ (i : Instr) (s s1 : State) (F : VecForm) (op : Nat) (m : MForm) (loc : Nat → Acc),
    vecAtomic i = some (op, m) → vecForm s.hart i = some F → refusal s.hart F = none → AddressesClean s.hart m →
    s1 = flushPend s →
    let h := s.hart
    let n := (fmt h m.fe).n
    (s1.hart.pend ≠ [] → exec i s = .next s1)
    ∧ (s1.hart.pend = [] →
      ((∀ j, ActiveAt h m.msk j → h.vc.vmt ≠ 3 ∧ elemPlace s1 (fieldAddr h m j 0) (n / 8) .write = .mem (loc j)
          ∧ (loc j).dev = false ∧ ovlFires s1 s1.hart (loc j).loc (n / 8) = none) →
        ∃ t order, List.Perm order ((List.range' (startsAt h) (vlOf h - startsAt h)).filter (mbit h m.msk))
          ∧ ((∃ vo fi, m.mop = .index vo fi true) → order.Pairwise (· < ·))
          ∧ exec i s = .next (retire s t)
          ∧ let s2 := order.foldl (atomicAt op m loc) s1
            t = { s2 with hart := t.hart }
            ∧ t.hart = { s2.hart with
                         vf := { s2.hart.vf with v := t.hart.vf.v, pv := t.hart.vf.pv }, vc := { s2.hart.vc with ves := 0 } }
            ∧ (∀ j, j < capOf h n →
              (ActiveAt h m.msk j ∨ j < startsAt h → SameElem s2.hart t.hart m.vr.val j n)
              ∧ (startsAt h ≤ j → j < vlOf h → mbit h m.msk j = false →
                  elem t.hart m.vr.val j n = (if maskZero h then 0 else elem h m.vr.val j n)
                  ∧ elemPois t.hart m.vr.val j n = (mpois h m.msk j || (!maskZero h && elemPois h m.vr.val j n)))
              ∧ (vlOf h ≤ j → if tailZero h = true ∧ startsAt h < vlOf h
                  then elem t.hart m.vr.val j n = 0 ∧ elemPois t.hart m.vr.val j n = false else SameElem h t.hart m.vr.val j n))
            ∧ ∀ r, r < 64 → (r < m.vr.val ∨ m.vr.val + groupSize h ≤ r) → vreg t.hart r = vreg h r ∧ vpoisReg t.hart r = vpoisReg h r)
      ∧ (∀ c, ActiveAt h m.msk (startsAt h) → (if h.vc.vmt = 3 then c = 8 else
            elemPlace s1 (fieldAddr h m (startsAt h) 0) (n / 8) .write = .bad c) →
          exec i s = .next (memTrap (s1.onHart (fun x => { x with vc := { x.vc with ves := BitVec.ofNat 17 (startsAt h) } })) c
            (fieldAddr h m (startsAt h) 0))))

/-! ### Tables and tiles -/

/-- `fset` writes an entry of the format table whole, valid or not, and its poison kills (R63, R109). -/
def Claim.FormatTable : Prop :=
  ∀ (s : State) (a : XReg) (k j : FEnt),
    (poisX s.hart a = false → ∃ h, exec (.fset k a) s = .next (retire s { s with hart := h })
      ∧ h = { s.hart with vc := { s.hart.vc with ft := h.vc.ft } } ∧ entry h k = BitVec.ofNat 32 (ux s a)
      ∧ (j ≠ k → entry h j = entry s.hart j))
    ∧ (poisX s.hart a = true → exec (.fset k a) s = .next (poisonKill s))

/-- The packing that an entry gives `amode` (R251). -/
def packCode (h : Hart) (fa : FEnt) : Option (BitVec 2) :=
  if fmtValid (entry h fa) = false then none
  else if (fmt h fa).n = 16 then some 0 else if (fmt h fa).n = 8 then some 1 else if (fmt h fa).n = 4 then some 2 else none

/-- `amode`: from VECTOR it begins ENTERING, with the array's shape; in its own state with the same packing it only retires;
else the array-state trap, and then the entry's (R252, R255). -/
def Claim.ArrayEntry : Prop :=
  ∀ (s : State) (fa : FEnt) (st : BitVec 3) (i : Instr), ((st = 2 ∧ i = .amodeWs fa) ∨ (st = 3 ∧ i = .amodeRs fa)) →
    (∀ p, packCode s.hart fa = some p → s.hart.vc.mode.st = 0 →
      exec i s = .next { s with hart := { s.hart with
        vc := { s.hart.vc with
                mode := { st := 1, dtgt := st, drow := 0, chn := false },
                ashape := { rows := 64, cols := BitVec.ofNat 8 (2 * (32 / 2 ^ s.hart.id.part.toNat)), pk := p, cpos := 0, clen := 0 } },
        arr := { s.hart.arr with since := some s.cycle } } })
    ∧ (∀ p, packCode s.hart fa = some p → s.hart.vc.mode.st = st → s.hart.vc.ashape.pk = p →
      exec i s = .next (retire s (s.onHart (fun h => { h with vc := { h.vc with ves := 0 } }))))
    ∧ (s.hart.vc.mode.st ≠ 0 → (s.hart.vc.mode.st ≠ st ∨ ∃ p, packCode s.hart fa = some p ∧ s.hart.vc.ashape.pk ≠ p) →
      exec i s = .next (takeTrap s 0x0012 (modeValue s.hart)))
    ∧ (packCode s.hart fa = none → (s.hart.vc.mode.st = 0 ∨ s.hart.vc.mode.st = st) →
      exec i s = .next (takeTrap s 0x0004 (entryValue fa.val (fmtValid (entry s.hart fa)))))

/-- `vmode`: from VECTOR it only retires; while chained it takes the chain trap; in another drain the array-state trap; else
the drain begins, or goes on at its row. -/
def Claim.ArrayExit : Prop :=
  ∀ s : State,
    (s.hart.vc.mode.st = 0 → s.hart.vc.mode.chn = false →
      exec .vmode s = .next (retire s (s.onHart (fun h => { h with vc := { h.vc with ves := 0 } }))))
    ∧ (s.hart.vc.mode.st = 4 → s.hart.vc.mode.dtgt ≠ 0 → exec .vmode s = .next (takeTrap s 0x0012 (modeValue s.hart)))
    ∧ ((s.hart.vc.mode.st ≠ 4 ∨ s.hart.vc.mode.dtgt = 0) → s.hart.vc.mode.chn = true →
        exec .vmode s = .next (takeTrap s 0x0013 8))
    ∧ ((s.hart.vc.mode.st = 2 ∨ s.hart.vc.mode.st = 3 ∨ (s.hart.vc.mode.st = 4 ∧ s.hart.vc.mode.dtgt = 0)) →
        s.hart.vc.mode.chn = false →
        ∃ h, exec .vmode s = .next { s with hart := h }
          ∧ h = { s.hart with vc := { s.hart.vc with mode := h.vc.mode }, arr := { s.hart.arr with since := h.arr.since, drain := none } }
          ∧ h.vc.mode = { s.hart.vc.mode with
                          st := 4, dtgt := 0, drow := if s.hart.vc.mode.st = 4 then s.hart.vc.mode.drow else 0 }
          ∧ h.arr.since = some (s.cycle - h.vc.mode.drow.toNat))

/-- A tile move holds the core's PEs for 16 cycles: it begins, it goes on, and once they have passed it completes with `done`
(R257). -/
def MovesTile (i : Instr) (s : State) (done : Hart) : Prop :=
  (s.hart.arr.began = none → exec i s = .next { peWork s 15 with
    hart := { s.hart with arr := { s.hart.arr with began := some (s.cycle, 0) } } })
  ∧ (∀ c k, s.hart.arr.began = some (c, k) → s.cycle < c + 16 → exec i s = .next s)
  ∧ (∀ c k, s.hart.arr.began = some (c, k) → c + 16 ≤ s.cycle → exec i s = .next (retire s { s with
      hart := { done with vc := { done.vc with ves := 0 }, arr := { done.arr with began := none, entered := [] } } }))

/-- `wld` and `wst` move whole registers (R257): when the core holds all its rows, the tile takes the register with its poison
and the latch the descriptor, or the register takes the tile, after 16 cycles; else the rows are requested. -/
def Claim.TileMoves : Prop :=
  ∀ (s : State) (w : TReg) (v : VReg) (fa : FEnt),
    let h := s.hart
    (∀ r, r = ((failing (h.vc.mode.st = 4) 0x0012 (modeValue h)).or (configRefusal h [fa])).or
          ((failing (fmtValid (entry h fa) = false) 0x0004 (entryValue fa.val false)).or
            (failing (((fmt h fa).n ≠ 4 ∧ (fmt h fa).n ≠ 8 ∧ (fmt h fa).n ≠ 16)
              ∨ ((fmt h fa).blk ≠ 0 ∧ ¬ (((fmt h fa).n = 8 ∧ (fmt h fa).blk = 1) ∨ ((fmt h fa).n = 4 ∧ (fmt h fa).blk = 2)))) 0x0004
              (entryValue fa.val true))) →
      (∀ c x, r = some (c, x) → exec (.wld w v fa) s = .next (takeTrap s c x))
      ∧ (r = none → granted s = false → exec (.wld w v fa) s = .next (requestRows s))
      ∧ (r = none → granted s = true → MovesTile (.wld w v fa) s { h with
          vf := { h.vf with w := h.vf.w.set w.val (vreg h v.val), pw := h.vf.pw.set w.val (vpoisReg h v.val),
                            fw := h.vf.fw.set w.val 0, td := h.vf.td.set w.val (entry h fa) } }))
    ∧ (∀ r, r = (failing (h.vc.mode.st = 4) 0x0012 (modeValue h)).or (configRefusal h [0]) →
      (∀ c x, r = some (c, x) → exec (.wst v w) s = .next (takeTrap s c x))
      ∧ (r = none → granted s = false → exec (.wst v w) s = .next (requestRows s))
      ∧ (r = none → granted s = true → h.vf.fw[w.val] = 0 → MovesTile (.wst v w) s { h with
          vf := { h.vf with v := h.vf.v.set v.val h.vf.w[w.val], pv := h.vf.pv.set v.val h.vf.pw[w.val] } }))

/-- The format table, the array's modes, and whole tiles. -/
def Obligations.ModesAndTiles : Prop := Claim.FormatTable ∧ Claim.ArrayEntry ∧ Claim.ArrayExit ∧ Claim.TileMoves

/-! ### Array products -/

/-- The rows from r0 to r1 of a product are written: each governed row holds its eight-group sums, masked-off rows follow the
mask's rule, and no other row of the product differs. -/
def RowsWritten (h : Hart) (m : RowForm) (r0 r1 nr : Nat) (t : Hart) : Prop :=
  (∀ r c, r0 ≤ r → r < r1 → c < columns h →
    (mbit h m.msk r = true → elem t m.vd.val (r * columns h + c) 32 = (rowResult h m r c).1)
    ∧ (mbit h m.msk r = false → elem t m.vd.val (r * columns h + c) 32 =
        if maskZero h then 0 else elem h m.vd.val (r * columns h + c) 32))
  ∧ (∀ j, (j < r0 * columns h ∨ (r1 * columns h ≤ j ∧ j < nr * columns h)) → SameElem h t m.vd.val j 32)
  ∧ (∀ b, b < 6 → (t.vc.fxm.acc.getLsbD b = true ↔ h.vc.fxm.acc.getLsbD b = true
      ∨ ∃ r c, r0 ≤ r ∧ r < r1 ∧ c < columns h ∧ mbit h m.msk r = true ∧ (rowResult h m r c).2.getLsbD b = true))

/-- Every row of a product that began at row b0 has entered the array, and `k` of them have been in it for 63 + N cycles
(R262). -/
def RowsIn (s : State) (m : RowForm) (b0 k : Nat) : Prop :=
  s.hart.arr.entered.length = resultRows s.hart m - b0 ∧ b0 ≤ resultRows s.hart m
  ∧ (s.hart.arr.entered.filter (fun e => decide (e + (63 + columns s.hart) ≤ s.cycle))).length = k

/-- The weight-stationary products: with the rows granted, outside a chain, free of residue errors, and with the columns of the
lanes, the first row enters in the first cycle; each row is written 63 + N cycles after it entered, VES counting the rows; and
with the last row the product completes, with its tail (R260 to R262). -/
def Claim.RowProducts : Prop :=
  ∀ (i : Instr) (s : State) (m : RowForm), rowForm i = some m →
    let h := s.hart
    let nr := resultRows h m
    let r0 := min h.vc.ves.toNat nr
    (∀ c v, rowRefusal h m = some (c, v) → exec i s = .next (takeTrap s c v))
    ∧ (rowRefusal h m = none → granted s = false → exec i s = .next (requestRows s))
    ∧ (rowRefusal h m = none → granted s = true → h.vc.mode.chn = false → h.soft = [] →
        1024 * columns h ≤ 8192 * 2 ^ h.id.vk.toNat →
        (r0 < nr → h.arr.began = none → h.arr.entered = [] → exec i s = .next { peWork s (63 + columns h) with
            hart := { h with arr := { h.arr with began := some (s.cycle, r0), entered := [s.cycle] },
                             vc := { h.vc with ves := BitVec.ofNat 17 r0 } } })
        ∧ (∀ c b0 k, h.arr.began = some (c, b0) → RowsIn s m b0 k → b0 + k < nr → r0 ≤ b0 + k →
            ∃ t w, exec i s = .next { peWork s w with hart := t } ∧ RowsWritten h m r0 (b0 + k) nr t
              ∧ t = { h with vf := { h.vf with v := t.vf.v, pv := t.vf.pv },
                             vc := { h.vc with ves := BitVec.ofNat 17 (b0 + k), fxm := { h.vc.fxm with acc := t.vc.fxm.acc } } }
              ∧ ∀ j, nr * columns h ≤ j → j < capOf h 32 → SameElem h t m.vd.val j 32)
        ∧ (∀ c b0 k, h.arr.began = some (c, b0) → RowsIn s m b0 k → b0 + k = nr →
            ∃ t, exec i s = .next (retire s { peWork s 0 with hart := t }) ∧ OnlyGroup (endWork h) m.vd.val t
              ∧ RowsWritten h m r0 nr nr t
              ∧ ∀ j, nr * columns h ≤ j → j < capOf h 32 →
                  if tailZero h = true ∧ r0 < nr then elem t m.vd.val j 32 = 0 else SameElem h t m.vd.val j 32))

/-- The result-stationary products: every accumulator of the pair gains the outer products of the governed steps from VES on,
in groups; `maccz` starts from zero at step 0; the latches of the pair name the accumulation. -/
def Claim.OuterProducts : Prop :=
  ∀ (i : Instr) (s : State) (m : MaccForm), outerForm i = some m →
    let h := s.hart
    let t1 := vlOf h / 64
    let t0 := min h.vc.ves.toNat t1
    (∀ c v, outerRefusal h m = some (c, v) → exec i s = .next (takeTrap s c v))
    ∧ (outerRefusal h m = none → granted s = false → exec i s = .next (requestRows s))
    ∧ (outerRefusal h m = none → granted s = true → h.soft = [] → 1024 * columns h ≤ 8192 * 2 ^ h.id.vk.toNat →
        ∃ t, exec i s = .next (retire s { peWork s (64 + t1 - t0) with hart := t })
          ∧ t = { h with
                  vf := { h.vf with w := t.vf.w, pw := t.vf.pw, fw := t.vf.fw, td := t.vf.td },
                  vc := { h.vc with ves := 0, fxm := { h.vc.fxm with acc := t.vc.fxm.acc } } }
          ∧ (∀ a c, a < 64 → c < columns h → accumulator t m.wt a c =
              outerSum h m a c t1 (t1 - t0) t0 (if m.zero = true ∧ t0 = 0 then 0 else accumulator h m.wt a c))
          ∧ (∀ w : TReg, (w.val / 2 = m.wt.val / 2 →
                (integers h m.fa (fmt h m.fb) → t.vf.td[w.val] = 0x00A003E1)
                ∧ (¬ integers h m.fa (fmt h m.fb) → t.vf.td[w.val] = 0x1043FAF1))
              ∧ (w.val / 2 ≠ m.wt.val / 2 → t.vf.w[w.val] = h.vf.w[w.val] ∧ t.vf.td[w.val] = h.vf.td[w.val])))

/-- `mdrain` (R263): its refusals, the request for the rows, and the drain it begins or goes on with. -/
def Claim.DrainStart : Prop :=
  ∀ (s : State) (d : VReg) (w : TReg) (fc : FEnt),
    let h := s.hart
    let latched := fun j : Nat => h.vf.td.toArray.getD j 0 = 0x1043FAF1 ∨ h.vf.td.toArray.getD j 0 = 0x00A003E1
    ∀ r, r = [failing (¬ (h.vc.mode.st = 3 ∨ (h.vc.mode.st = 4 ∧ h.vc.mode.dtgt = 3))) 0x0012 (modeValue h), configRefusal h [fc],
        failing (fmtValid (entry h fc) = false) 0x0004 (entryValue fc.val false),
        failing ((fmt h fc).blk ≠ 0) 0x0004 (entryValue fc.val true),
        failing (¬ (latched (accPair w) ∧ latched (accPair w + 1))) 0x0004 (entryValue 15 true),
        groupRefusal h (d.val, 8, 1), failing (w.val % 2 = 1) 0x0001 26,
        failing (capOf h (fmt h fc).n < 64 * columns h) 0x0003 h.vc.vtype].findSome? id →
      (∀ c v, r = some (c, v) → exec (.mdrain d w fc) s = .next (takeTrap s c v))
      ∧ (r = none → granted s = false → exec (.mdrain d w fc) s = .next (requestRows s))
      ∧ (r = none → granted s = true → ∃ t, exec (.mdrain d w fc) s = .next { peWork s (64 - t.vc.mode.drow.toNat) with hart := t }
          ∧ t = { h with vc := { h.vc with mode := t.vc.mode }, arr := { h.arr with since := t.arr.since, drain := some (d, w, fc) } }
          ∧ t.vc.mode = { h.vc.mode with st := 4, dtgt := 3, drow := if h.vc.mode.st = 4 then h.vc.mode.drow else 0 }
          ∧ t.arr.since = some (s.cycle - t.vc.mode.drow.toNat))

/-- The ends of a mode change and of a drain, as events on the hart in focus: ENTERING gives way to its target after 16
cycles; a drain, at row 64, to its target, with each row of an `mdrain` from DROW on written to the group and cleared. The
turn at which a drain or an entry ends is the model's reading (log 11). -/
def Claim.ArrayEvents : Prop :=
  ∀ (s : State) (u : Nat), s.hart.id.uid = u →
    let h := s.hart
    (h.vc.mode.st = 1 → ∀ t0, h.arr.since = some t0 → t0 + 16 ≤ s.cycle →
      exec (.modeEnterDone u) s = .next (retire s { s with hart := { h with
        vc := { h.vc with mode := { h.vc.mode with st := h.vc.mode.dtgt, dtgt := 0 }, ves := 0 },
        arr := { h.arr with since := none } } }))
    ∧ (h.vc.mode.st = 4 → h.vc.mode.dtgt = 0 → h.arr.drain = none → h.vc.mode.drow.toNat ≤ 64 →
      ∀ t0, h.arr.since = some t0 → t0 + 64 ≤ s.cycle →
      exec (.arrayDrainDone u) s = .next (retire s { s with hart := { h with
        vc := { h.vc with
                mode := { h.vc.mode with st := 0, dtgt := 0, drow := 0 },
                ashape := { rows := 0, cols := 0, pk := 0, cpos := 0, clen := 0 }, ves := 0 },
        arr := { h.arr with since := none, drain := none } } }))
    ∧ (h.vc.mode.st = 4 → h.vc.mode.dtgt = 3 → h.vc.mode.drow.toNat ≤ 64 → 1024 * columns h ≤ 8192 * 2 ^ h.id.vk.toNat →
      (∀ w : TReg, h.vf.fw[w.val] = 0) → ∀ t0 d w fc, h.arr.since = some t0 → t0 + 64 ≤ s.cycle → h.arr.drain = some (d, w, fc) →
      fmtValid (entry h fc) = true → groupRefusal h (d.val, 8, 1) = none → 64 * columns h ≤ capOf h (fmt h fc).n →
      ∃ t, exec (.arrayDrainDone u) s = .next (retire s { peWork s 1 with hart := t })
        ∧ t.vc.mode = { h.vc.mode with st := 3, dtgt := 0, drow := 0 } ∧ t.vc.ves = 0 ∧ t.vc.ashape = h.vc.ashape
        ∧ t.arr = { h.arr with since := none, drain := none } ∧ t.sc = h.sc ∧ t.vf.m = h.vf.m
        ∧ ∀ a c, a < 64 → c < columns h →
            let j := a * columns h + c
            let lat := h.vf.td.toArray.getD (accPair w + j / (8192 * 2 ^ h.id.vk.toNat / 32)) 0
            (h.vc.mode.drow.toNat ≤ a → accumulator t w a c = 0
              ∧ elem t d.val j (fmt h fc).n = (fencode (fmt h fc) (fdecode (parseFmt lat) (accumulator h w a c)) 0 0).1 % 2 ^ (fmt h fc).n)
            ∧ (a < h.vc.mode.drow.toNat → accumulator t w a c = accumulator h w a c
              ∧ elem t d.val j (fmt h fc).n = elem h d.val j (fmt h fc).n))

/-- Chains (R264 to R266): a chain that cannot be gives the chain trap with its reason; else the hart waits in the collective,
which completes on every hart of it at once; and leaving is a collective of the same harts. The order of the reasons is the
model's reading (log 33). -/
def Claim.Chains : Prop :=
  ∀ (s : State) (n p : Fin 16),
    let h := s.hart
    (h.vc.mode.st = 4 → exec (.achain n p) s = .next (takeTrap s 0x0012 (modeValue h))
      ∧ exec .aunchain s = .next (takeTrap s 0x0012 (modeValue h)))
    ∧ (h.vc.mode.st ≠ 4 → (h.vc.mode.chn = true → exec (.achain n p) s = .next (takeTrap s 0x0013 8))
      ∧ (h.vc.mode.chn = false → exec .aunchain s = .next (takeTrap s 0x0013 8)))
    ∧ (h.vc.mode.st ≠ 4 → h.vc.mode.chn = false → chainReason s n.val p.val = none →
      exec (.achain n p) s = .next (s.onHart (fun h =>
        { h with arr := { h.arr with chain := some (true, n.val, p.val) }, st := { h.st with asleep := some (.chain true n.val p.val) } })))
    ∧ (h.vc.mode.st ≠ 4 → h.vc.mode.chn = true →
      exec .aunchain s = .next (s.onHart (fun h =>
        { h with arr := { h.arr with chain := some (false, 0, 0) }, st := { h.st with asleep := some (.chain false 0 0) } })))
    ∧ ((n.val < 2 ∨ n.val ≤ p.val) → chainReason s n.val p.val = some (4, [h.id.uid]))
    ∧ (∀ u, chainReady s h = none → u = h.id.uid → exec (.chainComplete u) s = .next s)

/-- One hart's part of a collective that completes: CHN, CLEN and CPOS of its form, and retirement. -/
def Claim.ChainJoins : Prop :=
  ∀ (s : State) (us : List Nat) (join : Bool) (n p : Nat), s.hart.arr.chain = some (join, n, p) →
    ∃ t, chainJoin us s = retire s { s with hart := t } ∧ t.vc.mode = { s.hart.vc.mode with chn := join }
      ∧ t.vc.ashape = { s.hart.vc.ashape with clen := BitVec.ofNat 4 n, cpos := BitVec.ofNat 4 p }
      ∧ t.arr.chain = none ∧ t.arr.peers = (if join then us else []) ∧ t.vf = s.hart.vf ∧ t.sc = s.hart.sc

/-- The collective completes on exactly the harts of the chain: with two harts that have both issued `aunchain`, both leave. -/
def Claim.ChainCompletes : Prop :=
  ∀ (s : State) (us : List Nat), chainReady s s.hart = some us →
    exec (.chainComplete s.hart.id.uid) s = .next (us.foldl (fun st u => withHart st u (chainJoin us)) s)

/-- The array's instructions complete: a mode entry 16 cycles and an exit or an `mdrain` 64 cycles after they began, by the
event that ends them; and a collective, on each of its harts, once every one of them waits in it (R252, R253, R263, R265). -/
def Claim.ArrayCompletes : Prop :=
  (∀ (s : State) (n : Nat) (fa : FEnt) (st : BitVec 3) (i : Instr) (p : BitVec 2),
    ((st = 2 ∧ i = .amodeWs fa) ∨ (st = 3 ∧ i = .amodeRs fa)) → packCode s.hart fa = some p → s.hart.vc.mode.st = 0 →
    s.cycle + 16 ≤ n → ∃ t t1 h, exec i s = .next t ∧ t1 = { t with cycle := n }
      ∧ exec (.modeEnterDone s.hart.id.uid) t1 = .next (retire t1 { t1 with hart := h })
      ∧ h.vc.mode = { st := st, dtgt := 0, drow := 0, chn := false } ∧ h.vc.ashape.pk = p ∧ h.vc.ves = 0 ∧ h.arr.since = none
      ∧ h.pc = s.hart.pc ∧ h.vf = s.hart.vf ∧ h.sc = s.hart.sc)
  ∧ (∀ (s : State) (n : Nat), (s.hart.vc.mode.st = 2 ∨ s.hart.vc.mode.st = 3) → s.hart.vc.mode.chn = false → s.cycle + 64 ≤ n →
    ∃ t t1 h, exec .vmode s = .next t ∧ t1 = { t with cycle := n }
      ∧ exec (.arrayDrainDone s.hart.id.uid) t1 = .next (retire t1 { t1 with hart := h })
      ∧ h.vc.mode = { st := 0, dtgt := 0, drow := 0, chn := false }
      ∧ h.vc.ashape = { rows := 0, cols := 0, pk := 0, cpos := 0, clen := 0 } ∧ h.vc.ves = 0
      ∧ h.pc = s.hart.pc ∧ h.vf = s.hart.vf ∧ h.sc = s.hart.sc)
  ∧ (∀ (s : State) (n : Nat) (d : VReg) (w : TReg) (fc : FEnt),
    let h := s.hart
    let latched := fun j : Nat => h.vf.td.toArray.getD j 0 = 0x1043FAF1 ∨ h.vf.td.toArray.getD j 0 = 0x00A003E1
    h.vc.mode.st = 3 → configRefusal h [fc] = none → fmtValid (entry h fc) = true → (fmt h fc).blk = 0 →
    latched (accPair w) → latched (accPair w + 1) → groupRefusal h (d.val, 8, 1) = none → w.val % 2 = 0 →
    64 * columns h ≤ capOf h (fmt h fc).n → granted s = true → 1024 * columns h ≤ 8192 * 2 ^ h.id.vk.toNat →
    (∀ v : TReg, h.vf.fw[v.val] = 0) → s.cycle + 64 ≤ n →
    ∃ t t1 t2, exec (.mdrain d w fc) s = .next t ∧ t1 = { t with cycle := n }
      ∧ exec (.arrayDrainDone h.id.uid) t1 = .next (retire t1 t2)
      ∧ t2.hart.vc.mode = { h.vc.mode with dtgt := 0, drow := 0 } ∧ t2.hart.vc.ves = 0 ∧ t2.hart.pc = h.pc ∧ t2.hart.sc = h.sc
      ∧ ∀ a c, a < 64 → c < columns h →
          let j := a * columns h + c
          let lat := h.vf.td.toArray.getD (accPair w + j / (8192 * 2 ^ h.id.vk.toNat / 32)) 0
          accumulator t2.hart w a c = 0
          ∧ elem t2.hart d.val j (fmt h fc).n = (fencode (fmt h fc) (fdecode (parseFmt lat) (accumulator h w a c)) 0 0).1 % 2 ^ (fmt h fc).n)
  ∧ (∀ (s t : State) (i : Instr) (n p : Fin 16) (us : List Nat) (join : Bool),
    s.hart.vc.mode.st ≠ 4 → s.hart.vc.mode.chn = !join →
    ((join = true ∧ i = .achain n p ∧ chainReason s n.val p.val = none) ∨ (join = false ∧ i = .aunchain)) →
    exec i s = .next t → chainReady t t.hart = some us → us.Nodup → ((allHarts t).map (·.id.uid)).Nodup →
    (∀ x ∈ allHarts t, EndInRange x) →
    ∃ t1, exec (.chainComplete t.hart.id.uid) t = .next t1
      ∧ ∀ u x, u ∈ us → findHart t u = some x → ∃ y, findHart t1 u = some y ∧ y.vc.mode = { x.vc.mode with chn := join }
          ∧ y.arr.chain = none ∧ y.st.asleep = none ∧ y.st.retired = x.st.retired + 1 ∧ y.vf = x.vf ∧ y.sc = x.sc
          ∧ (¬ EndsAt x.loop0 x.pc → ¬ EndsAt x.loop1 x.pc → y.pc = nextSlot x.pc))

/-- Products of both kinds, drains, and chains. -/
def Obligations.ArrayProducts : Prop := Claim.RowProducts ∧ Claim.OuterProducts

/-- Drains, the ends of mode changes, and chains. -/
def Obligations.DrainsAndChains : Prop :=
  Claim.DrainStart ∧ Claim.ArrayEvents ∧ Claim.Chains ∧ Claim.ChainJoins ∧ Claim.ChainCompletes
  ∧ Claim.ArrayCompletes


/-! ### Tiles and fetched lines -/

/-- `talloc` (R123 to R125): its refusals in order, and the lowest free handle, whose tile has the size that its descriptor gives, reads as zeros
and takes nothing from any other tile or byte. -/
def Claim.TileAllocation : Prop :=
  ∀ (s : State) (d a : XReg),
    let v := ux s a; let h := s.hart; let k := tdEntry v
    let bad := v / 2 ^ 38 ≠ 0 ∨ tdCols v = 0 ∨ tdRows v = 0 ∨ tdLevel v = 3
    (poisX h a = true → exec (.talloc d a) s = .next (poisonKill s))
    ∧ (poisX h a = false → bad → exec (.talloc d a) s = .next (retire s (s.setX d 0xFFFFFFFFFFFFF003)))
    ∧ (poisX h a = false → ¬ bad → fmtValid (entry h k) = false →
        exec (.talloc d a) s = .next (retire s (s.setX d 0xFFFFFFFFFFFFF004)))
    ∧ (poisX h a = false → ¬ bad → fmtValid (entry h k) = true → ∀ x, findCtx s h.id.ctx = some x →
        ((∀ n, n < 4096 → ∃ t ∈ x.tiles, t.h = n) → exec (.talloc d a) s = .next (retire s (s.setX d 0xFFFFFFFFFFFFF001)))
        ∧ (∀ n, n < 4096 → (∀ t ∈ x.tiles, t.h ≠ n) → (∀ m, m < n → ∃ t ∈ x.tiles, t.h = m) →
            let z := tileBytes v (fmt h k); let cs := tileSpan h.id.core (tdLevel v)
            let banks := (z + cs.length * 65536 - 1) / (cs.length * 65536)
            ((∃ q ∈ cs, sliceBanks s h.id.die q < banksUsed s h.id.die q + banks) →
              exec (.talloc d a) s = .next (retire s (s.setX d 0xFFFFFFFFFFFFF002)))
            ∧ ((∀ q ∈ cs, banksUsed s h.id.die q + banks ≤ sliceBanks s h.id.die q) → MemOk s →
              ∃ t, exec (.talloc d a) s = .next (retire s (t.setX d (word n)))
                ∧ findTile t h.id.ctx n = some { h := n, st := .allocated, desc := s.x a, fmt := entry h k, size := z,
                                                 die := h.id.die, cores := cs, banks := banks }
                ∧ (∀ c m, (c ≠ h.id.ctx ∨ m ≠ n) → findTile t c m = findTile s c m)
                ∧ (∀ off key, off < 2 ^ 40 → homeByte t key (tileLoc h.id.ctx n off) = 0 ∧ viewByte t t.hart key (tileLoc h.id.ctx n off) = 0)
                ∧ (∀ loc key, (loc < tileLoc h.id.ctx n 0 ∨ tileLoc h.id.ctx n 0 + 2 ^ 40 ≤ loc) →
                    homeByte t key loc = homeByte s key loc)
                ∧ getX t.hart = getX h ∧ t.hart.pc = h.pc)))

/-- `tfree` (R127): 1 for a free handle, 2 for one that is freeing; else the handle moves to FREEING, with its bytes as they
are. -/
def Claim.TileRelease : Prop :=
  ∀ (s : State) (d a : XReg),
    let n := ux s a % 4096; let c := s.hart.id.ctx
    (poisX s.hart a = true → exec (.tfree d a) s = .next (poisonKill s))
    ∧ (poisX s.hart a = false →
        (findTile s c n = none → exec (.tfree d a) s = .next (retire s (s.setX d 1)))
        ∧ (∀ t, findTile s c n = some t →
          (t.st = .freeing → exec (.tfree d a) s = .next (retire s (s.setX d 2)))
          ∧ (t.st = .allocated → ∃ cs, exec (.tfree d a) s = .next (retire s ({ s with ctxs := cs }.setX d 0))
              ∧ findTile { s with ctxs := cs } c n = some { t with st := .freeing }
              ∧ ∀ c' m, (c' ≠ c ∨ m ≠ n) → findTile { s with ctxs := cs } c' m = findTile s c' m)))

/-- `fsync` (R198): an acquire at its scope, after which the hart's core, and that of a twin, hold no fetched line of the
context, and control has to enter its line anew. -/
def Claim.FetchSync : Prop :=
  ∀ (s : State) (sc : Scope), Calm s sc →
    let kept := s.mem.ilines.filter (fun l => !(fetchesFor s l.die l.core && l.ctx == s.hart.id.ctx))
    AcquireDone (.fsync sc) s { s with mem := { s.mem with ilines := kept },
                                       hart := { s.hart with st := { s.hart.st with line := none } } } sc
    ∧ fetchesFor s s.hart.id.die s.hart.id.core = true
    ∧ ((∀ p ∈ s.pairs, p.uid ≠ s.hart.id.uid ∧ p.partner ≠ s.hart.id.uid) → ∀ die core, fetchesFor s die core = true →
        die = s.hart.id.die ∧ core = s.hart.id.core)

/-- Tiles are allocated and freed, and fetched lines discarded. -/
def Obligations.TilesAndFetchSync : Prop := Claim.TileAllocation ∧ Claim.TileRelease ∧ Claim.FetchSync

/-! ### Phase boundaries -/

/-- Releases and acquires (R273 to R275): a release hands over what it publishes and retires; an acquire takes its snapshot and
retires, or is held for 8 ns, which are ten cycles (R373), where the scope spans dies; and a `phase` is the release followed by the acquire. That releases
are performed within the step that waits for them, and how TIME runs, are the model's choices (log 7, log 10). -/
def Claim.Boundaries : Prop :=
  ∀ (s : State) (sc : Scope),
    (s.hart.pend = [] → exec (.phaseRel sc) s = .next (retire s (releasing s sc .nothing true)))
    ∧ (Calm s sc → AcquireDone (.phaseAcq sc) s s sc)
    ∧ (s.hart.pend = [] → ¬ OneDie s sc → ∃ sn, SnapshotOf s sc sn
        ∧ exec (.phaseAcq sc) s = .next (afterAcquire s sc sn (some (s.cycle + 10))))
    ∧ (s.hart.pend = [] → s.hart.st.half = false → ∀ u v, u = halfDone (releasing s sc .nothing false) →
        exec (.releasePerform s.hart.id.uid) u = .next v → Calm v sc → EndInRange s.hart →
        ∃ t, exec (.phaseAcq sc) v = .next t ∧ exec (.phase sc) s = .next t)
    ∧ (s.hart.st.half = true → Calm s sc → AcquireDone (.phase sc) s s sc)

/-- The end of the hold of a multi-die acquire, as an event on the hart in focus. -/
def Claim.HoldEnds : Prop :=
  ∀ (s : State) (u : Nat), u = s.hart.id.uid →
    (s.hart.phs.hold = true → s.hart.phs.holdUntil ≤ s.cycle → s.hart.phs.holdKind = 0 →
      (∀ p ∈ s.hart.bolter.pins, p.2 = true) →
      exec (.acquireHoldEnd u) s = .next (retire s { s with hart := { s.hart with
        phs := { s.hart.phs with hold := false, pcnt := s.hart.phs.pcnt + 1 } } }))
    ∧ (s.hart.phs.hold = false ∨ s.cycle < s.hart.phs.holdUntil → exec (.acquireHoldEnd u) s = .next s)

/-- What the performing of a release does (R274, R277, R279): the writes it publishes that the hart has made and not yet
performed reach their homes in program order, every write of the set that is performed is published at its scope from the
hart's place but for the Bolter's writes of records and pools (R303), and no other byte changes. -/
def Claim.ReleasePerformed : Prop :=
  ∀ (s : State) (r : PendRel) (rest : List PendRel) (k : KeyTag),
    let h := s.hart; let u := h.id.uid
    let goes := fun o : OwnByte => !o.done && r.set.contains o.wid
    (h.pend = [] → exec (.releasePerform u) s = .next s)
    ∧ (h.pend = r :: rest → r.agreed = false → exec (.releasePerform u) s = .next s)
    ∧ (h.pend = r :: rest → r.agreed = true → r.pins = [] → h.id.partner = false → r.after = .nothing → MemOk s → (∀ o ∈ h.own, goes o = true → o.key = k) →
        ∃ t, exec (.releasePerform u) s = .next t
          ∧ t.hart = { h with pend := rest, own := h.own.map (fun o => if r.set.contains o.wid then { o with done := true } else o),
                              phs := { h.phs with pubp := !rest.isEmpty }, relAt := (r.scope, s.mem.phase + 1) :: h.relAt }
          ∧ t = { s with hart := t.hart, mem := t.mem }
          ∧ (∀ loc o, h.own.find? (fun o => goes o && o.loc == loc) = some o → homeByte t k loc = o.byte)
          ∧ (∀ loc, (∀ o ∈ h.own, goes o = true → granule o.loc ≠ granule loc) → ∀ k', homeByte t k' loc = homeByte s k' loc)
          ∧ (∀ w ∈ t.mem.log, r.set.contains w.wid = true → w.quiet = false → ∃ p ∈ w.pubs, p.scope = r.scope ∧ p.place = h.place)
          ∧ (∀ w ∈ t.mem.log, r.set.contains w.wid = false → w ∈ s.mem.log))

/-- The level forms (R273, R354): a level that the hart's launch does not have is an illegal instruction, one outside its gang
levels the gang-level trap; and the level forms of a boundary are the boundary at the level's scope. -/
def Claim.LevelForms : Prop :=
  ∀ (s : State) (i : Instr) (n : Nat), levelForm i = some n →
    (findLaunch s s.hart.id.launch = none → exec i s = .next (takeTrap s 0x0001 64))
    ∧ (∀ l, findLaunch s s.hart.id.launch = some l →
        (n = 0 ∨ l.levels.length ≤ n → exec i s = .next (takeTrap s 0x0001 64))
        ∧ (0 < n → n < l.levels.length → (∀ m lm, n ≤ m → l.levels[m]? = some lm → lm.gang = false) →
            exec i s = .next (takeTrap s 0x0014 (word n))))
    ∧ (∀ l lv sc, GangLevel s n l lv → sc = numScope lv.scope →
        (i = .phaseL ⟨n % 8, Nat.mod_lt _ (by omega)⟩ → ∃ t, exec (.phase sc) s = .next t ∧ exec i s = .next t)
        ∧ (i = .phaseRelL ⟨n % 8, Nat.mod_lt _ (by omega)⟩ → ∃ t, exec (.phaseRel sc) s = .next t ∧ exec i s = .next t)
        ∧ (i = .phaseAcqL ⟨n % 8, Nat.mod_lt _ (by omega)⟩ → ∃ t, exec (.phaseAcq sc) s = .next t ∧ exec i s = .next t))

/-- Phase boundaries, what performs a release, and the level forms. -/
def Obligations.PhaseBoundaries : Prop := Claim.Boundaries ∧ Claim.HoldEnds ∧ Claim.ReleasePerformed ∧ Claim.LevelForms

/-! ### Barriers, mailboxes and waits -/

/-- Barriers (R353, R354): an arrival is counted and returns the generation, a wait goes on once that generation has ended, and
`bar.sync` is the two in one, counted once. -/
def Claim.BarrierForms : Prop :=
  ∀ (s : State) (n : Fin 8) (l : Launch) (lv : Level) (d a : XReg) (sc : Scope) (b : Barrier),
    GangLevel s n.val l lv → sc = numScope lv.scope → b = myBarrier l n.val s.hart →
    let k := barKey s.hart; let inst := s.hart.id.flat / levelSize l n.val
    let counted := fun (t : State) (sync : Bool) => ∃ l' b', findLaunch t s.hart.id.launch = some l'
      ∧ b' = myBarrier l' n.val s.hart ∧ b'.gen = b.gen ∧ b'.arrived = k :: b.arrived ∧ b'.performed = b.performed
      ∧ b'.syncs = (if sync then (k, b.gen) :: b.syncs else b.syncs)
    (k ∉ b.arrived → s.hart.pend = [] → s.hart.st.half = false →
      ∃ ls, counted { s with launches := ls } false
        ∧ exec (.barArrive d n) s = .next (retire s ((releasing { s with launches := ls } sc (.arrive n.val inst) true).setX d
            (b.gen.setWidth 64))))
    ∧ (k ∈ b.arrived → s.hart.pend = [] → s.hart.st.half = false →
      exec (.barArrive d n) s = .next (sleeping (halfDone (releasing s sc .nothing true)) (.arriveAgain n.val b.gen)))
    ∧ (k ∈ b.arrived → s.hart.st.half = true → exec (.barArrive d n) s = .next (sleeping s (.arriveAgain n.val b.gen)))
    ∧ (∀ g, g = (s.x a).setWidth 32 → (1 ≤ (b.gen - g).toNat ∧ (b.gen - g).toNat ≤ 2 ^ 31) → Calm s sc →
      AcquireDone (.barWait a n) s s sc)
    ∧ (∀ g, g = (s.x a).setWidth 32 → ¬ (1 ≤ (b.gen - g).toNat ∧ (b.gen - g).toNat ≤ 2 ^ 31) →
      exec (.barWait a n) s = .next (sleeping s (.barWait n.val g false)))
    ∧ ((∀ p ∈ b.syncs, p.1 ≠ k) → k ∉ b.arrived → s.hart.pend = [] → s.hart.st.half = false →
      ∃ ls, counted { s with launches := ls } true
        ∧ exec (.barSync n) s = .next (sleeping (releasing { s with launches := ls } sc (.arrive n.val inst) true)
            (.barWait n.val b.gen true)))
    ∧ (∀ g, b.syncs.find? (fun p => p.1 == k) = some (k, g) →
        (¬ (1 ≤ (b.gen - g).toNat ∧ (b.gen - g).toNat ≤ 2 ^ 31) → exec (.barSync n) s = .next (sleeping s (.barWait n.val g true)))
        ∧ ((1 ≤ (b.gen - g).toNat ∧ (b.gen - g).toNat ≤ 2 ^ 31) → Calm s sc →
            ∃ sn ls, SnapshotOf s sc sn
              ∧ exec (.barSync n) s = .next (retire s { afterAcquire s sc sn none with launches := ls })
              ∧ ∃ l' b', findLaunch { s with launches := ls } s.hart.id.launch = some l' ∧ b' = myBarrier l' n.val s.hart
                ∧ b' = { b with syncs := b.syncs.filter (fun p => p.1 != k) }))

/-- A generation ends when every hart of the instance has arrived and every arrival's release has been performed, and then
nothing of it is left (R353); before that it does not end. -/
def Claim.GenerationEnds : Prop :=
  ∀ (s : State) (lid n inst : Nat) (l : Launch) (b : Barrier), findLaunch s lid = some l →
    l.barriers.find? (fun x => x.level == n && x.inst == inst) = some b →
    let came := b.arrived.filter (fun f => decide (f < 2 ^ 32))
    (came.length = levelSize l n → (∀ f ∈ came, f ∈ b.performed) →
      ∃ ls, exec (.barrierGenEnd lid n inst) s = .next { s with launches := ls }
        ∧ (∃ l', findLaunch { s with launches := ls } lid = some l'
          ∧ l'.barriers.find? (fun x => x.level == n && x.inst == inst) = some { b with gen := b.gen + 1, arrived := [], performed := [] }
          ∧ ∀ n' i', (n' ≠ n ∨ i' ≠ inst) →
              l'.barriers.find? (fun x => x.level == n' && x.inst == i') = l.barriers.find? (fun x => x.level == n' && x.inst == i'))
        ∧ ∀ j, j ≠ lid → findLaunch { s with launches := ls } j = findLaunch s j)
    ∧ (came.length ≠ levelSize l n ∨ (∃ f ∈ came, f ∉ b.performed) → exec (.barrierGenEnd lid n inst) s = .next s)

/-- The harts of the sender's cluster and gang instance that a target operand selects (R356). -/
def IsTarget (s : State) (p : Nat) (h : Hart) : Prop :=
  h ∈ allHarts s ∧ h.id.die = s.hart.id.die ∧ h.id.core = s.hart.id.core / 8 * 8 + p % 8 ∧ h.id.hnum = p / 8
  ∧ h.id.launch = s.hart.id.launch ∧ h.id.ginst = s.hart.id.ginst ∧ h.id.partner = false ∧ h.onCore = true

/-- Position 8·h + j is selected. -/
def selected (t p : Nat) : Bool := t.testBit (p % 8) && t.testBit (8 + p / 8)

/-- Mailboxes (R356): a selected position with no target traps; a value goes to every target in one cycle once all have room;
the receiver takes the oldest entry and acquires at CLUSTER scope, or sleeps. -/
def Claim.Mailboxes : Prop :=
  ∀ (s : State) (a b d : XReg),
    let t := ux s b; let v := s.x a
    ((poisX s.hart a = true ∨ poisX s.hart b = true) → exec (.mcast a b) s = .next (poisonKill s))
    ∧ (poisX s.hart a = false → poisX s.hart b = false →
        (∀ p, p < 64 → selected t p = true → (∀ h, ¬ IsTarget s p h) →
          (∀ q, q < p → selected t q = true → ∃ h, IsTarget s q h) → exec (.mcast a b) s = .next (takeTrap s 0x0018 (word p)))
        ∧ ((∀ p, p < 64 → selected t p = false) → exec (.mcast a b) s = .next (retire s s))
        ∧ (s.hart.st.half = true → s.hart.pend = [] → (allHarts s).Pairwise (fun g h => g.id.uid ≠ h.id.uid) →
            (∃ p, p < 64 ∧ selected t p = true) → (∀ p, p < 64 → selected t p = true → ∃ h, IsTarget s p h) →
            (∀ h ∈ allHarts s, h.id.partner = false) → (∀ g ∈ allHarts s, ∀ h ∈ allHarts s,
              g.id.launch = h.id.launch → g.id.flat = h.id.flat → g.id.uid = h.id.uid) →
            (∀ p q g h, IsTarget s p g → IsTarget s q h → p = q → g = h) →
            ((∃ p h, p < 64 ∧ selected t p = true ∧ IsTarget s p h ∧ 4 ≤ h.mbox.length) →
              ∃ us, exec (.mcast a b) s = .next (sleeping s (.mcast us v)))
            ∧ ((∀ p h, p < 64 → selected t p = true → IsTarget s p h → h.mbox.length < 4) →
              ∃ u, exec (.mcast a b) s = .next (retire s u)
                ∧ (∀ g, g ∈ allHarts u ↔ ∃ h ∈ allHarts s, g = { h with mbox := g.mbox }
                    ∧ ((∃ p, p < 64 ∧ selected t p = true ∧ IsTarget s p h) → g.mbox = h.mbox ++ [v])
                    ∧ (¬ (∃ p, p < 64 ∧ selected t p = true ∧ IsTarget s p h) → g.mbox = h.mbox))
                ∧ u = { s with hart := u.hart, others := u.others })))
    ∧ (s.hart.mbox = [] → exec (.mrecv d) s = .next (sleeping s (.mrecv d)))
    ∧ (∀ x r, s.hart.mbox = x :: r → Calm s .cluster →
        AcquireDone (.mrecv d) s ((s.setX d x).onHart (fun h => { h with mbox := r })) .cluster)

/-- An `mcast` that waits for room sends when there is room, as an event on the hart in focus (R356). -/
def Claim.MailboxRoom : Prop :=
  ∀ (s : State) (us : List Nat) (v : Word), s.hart.st.asleep = some (.mcast us v) →
    ((∀ u ∈ us, ∃ h, findHart s u = some h ∧ h.mbox.length < 4) → ∃ t, exec (.mcastAppend s.hart.id.uid) s = .next (retire s t)
      ∧ (∀ u ∈ us, ∀ h, findHart s u = some h → findHart t u = some { h with mbox := h.mbox ++ [v] })
      ∧ t = { s with hart := t.hart, others := t.others })
    ∧ ((∃ u ∈ us, ∃ h, findHart s u = some h ∧ 4 ≤ h.mbox.length) → exec (.mcastAppend s.hart.id.uid) s = .next s)

/-- Barriers and mailboxes. -/
def Obligations.BarriersAndMailboxes : Prop :=
  Claim.BarrierForms ∧ Claim.GenerationEnds ∧ Claim.Mailboxes ∧ Claim.MailboxRoom

/-- `yield` and `sleep` (R49, R51, R357): a yield without a request, in a handler or with no work to take its place does
nothing else; with a request the hart stops running. A `sleep` gives the lowest code whose condition holds, or waits. What
work counts as waiting at a yield is the model's reading (log 52). -/
def Claim.YieldAndSleep : Prop :=
  ∀ (s : State) (d a : XReg),
    (s.hart.pend = [] →
      (findLaunch s s.hart.id.launch = none ∨ s.hart.st.inHandler = true → exec .yield_ s = .next (retire s s))
      ∧ (∀ l, findLaunch s s.hart.id.launch = some l → s.hart.st.inHandler = false →
          (s.hart.st.yreq = false → candidates (markReady s) l.dev = [] → exec .yield_ s = .next (retire s s))
          ∧ (s.hart.st.yreq = true → EndInRange s.hart →
              (∃ h ∈ s.others, h.id.launch = s.hart.id.launch ∧ h.id.ginst = s.hart.id.ginst ∧ h.st.life = .placed) →
              ∃ t r, r = retire s s ∧ exec .yield_ s = .next t
                ∧ t.hart = { r.hart with st := { r.hart.st with life := .yielded } } ∧ t.others = s.others ∧ t.mem = s.mem)))
    ∧ (poisX s.hart a = true → exec (.sleep d a) s = .next (poisonKill s))
    ∧ (poisX s.hart a = false →
        let due := s.hart.st.uiDue = true ∨ (s.hart.ui.pend = true ∧ s.hart.ui.en = true)
        (ux s a ≤ timeOn s s.hart.id.die → exec (.sleep d a) s = .next (retire s (s.setX d 0)))
        ∧ (timeOn s s.hart.id.die < ux s a →
            (due → exec (.sleep d a) s = .next (retire s (s.setX d 1)))
            ∧ (¬ due → (s.hart.st.yreq = true → exec (.sleep d a) s = .next (retire s (s.setX d 2)))
              ∧ (s.hart.st.yreq = false → exec (.sleep d a) s = .next (sleeping s (.sleep d (ux s a) s.cycle))))))

/-- The end of a wait, as an event on the hart in focus (R330): a hart that runs, or does not wait, is not touched; one that
waits goes on as the instruction it waits in, if that can, and otherwise waits on. A `sleep` ends with the condition that arose
first, and the lowest code of those of one cycle (R357). -/
def Claim.WaitsEnd : Prop :=
  ∀ (s : State) (u : Nat), u = s.hart.id.uid →
    (s.hart.st.life ≠ .placed ∨ s.hart.st.asleep = none → exec (.waitWake u) s = .next s)
    ∧ (s.hart.st.life = .placed →
        (∀ d t c, s.hart.st.asleep = some (.sleep d t c) →
          let due := s.hart.st.uiDue = true ∨ (s.hart.ui.pend = true ∧ s.hart.ui.en = true)
          let asked := s.hart.st.yreq = true
          let atU := max c s.hart.st.uiAt; let atY := max c s.hart.st.yreqAt; let time := timeAt s.hart.id.die
          (t ≤ time s.cycle → (due → t ≤ time atU) → (asked → t ≤ time atY) →
            exec (.waitWake u) s = .next (retire s (s.setX d 0)))
          ∧ (due → atU ≤ s.cycle → (asked → atU ≤ atY) → time atU < t → exec (.waitWake u) s = .next (retire s (s.setX d 1)))
          ∧ (asked → atY ≤ s.cycle → (due → atY < atU ∧ atU ≤ s.cycle) → time atY < t →
            exec (.waitWake u) s = .next (retire s (s.setX d 2)))
          ∧ (¬ due → ¬ asked → time s.cycle < t → exec (.waitWake u) s = .next s))
        ∧ (∀ d, s.hart.st.asleep = some (.mrecv d) → (s.hart.mbox = [] → exec (.waitWake u) s = .next s)
          ∧ (∀ x r, s.hart.mbox = x :: r → Calm s .cluster →
              AcquireDone (.waitWake u) s ((s.setX d x).onHart (fun h => { h with mbox := r })) .cluster))
        ∧ (∀ n g l lv, s.hart.st.asleep = some (.barWait n g false) → GangLevel s n l lv →
            ∀ b, b = myBarrier l n s.hart →
              ((1 ≤ (b.gen - g).toNat ∧ (b.gen - g).toNat ≤ 2 ^ 31) → Calm s (numScope lv.scope) →
                AcquireDone (.waitWake u) s s (numScope lv.scope))
              ∧ (¬ (1 ≤ (b.gen - g).toNat ∧ (b.gen - g).toNat ≤ 2 ^ 31) → exec (.waitWake u) s = .next s))
        ∧ (∀ n g l, s.hart.st.asleep = some (.arriveAgain n g) → findLaunch s s.hart.id.launch = some l →
            exec (.waitWake u) s = .next (if barKey s.hart ∈ (myBarrier l n s.hart).arrived then s
              else { s with hart := { s.hart with st := { s.hart.st with asleep := none } } })))

/-- The end of the yield window of an instance (R49): harts that were asked 256·YDL cycles ago and run, or are staged to run, are to stop, and those
that have yielded are stopped as voluntary. -/
def Claim.YieldWindow : Prop :=
  ∀ (s : State) (lid gi : Nat) (l : Launch), findLaunch s lid = some l →
    ∃ f : Hart → Hart, exec (.yieldDeadline lid gi) s = .next { s with hart := f s.hart, others := s.others.map f }
      ∧ ∀ h, let over_ := h.id.launch = lid ∧ h.id.ginst = gi ∧ h.st.yreq = true ∧ h.st.yreqAt + 256 * l.ydl ≤ s.cycle
        (over_ → (h.st.life = .placed ∨ h.st.life = .staged) → f h = { h with st := { h.st with stopDue := some true } })
        ∧ (over_ → h.st.life = .yielded →
            f h = { h with st := { h.st with life := .stopped false s.cycle, stopTime := timeOn s h.id.die } })
        ∧ (¬ over_ ∨ (h.st.life ≠ .placed ∧ h.st.life ≠ .staged ∧ h.st.life ≠ .yielded) → f h = h)

/-- Yields, sleeps, the ends of waits and of the yield window. -/
def Obligations.YieldsAndWaits : Prop := Claim.YieldAndSleep ∧ Claim.WaitsEnd ∧ Claim.YieldWindow

/-! ### The Bolter -/

/-- `hpload` (R306): a descriptor that breaks R295 traps with reason 2 and changes nothing; else the descriptor, its columns and
V are loaded, and nothing else. -/
def Claim.HeadLoad : Prop :=
  ∀ (s : State) (x : XReg) (bs : List Byte),
    (poisX s.hart x = true → exec (.hpload x) s = .next (poisonKill s))
    ∧ (poisX s.hart x = false → NoCopies s → ReadsAt s (ux s x) 64 64 bs →
        let v := leNat bs
        (¬ HeadOk v → exec (.hpload x) s = .next (takeTrap s 0x0015 2))
        ∧ (∀ cols : List (List Byte), HeadOk v → cols.length = hf v 393 5 →
            (∀ j (hj : j < cols.length), ReadsAt s (hf v 256 64 + 32 * j) 32 32 cols[j]) →
            ∃ b : Bolter, BolterDone (.hpload x) s { s with hart := { s.hart with bolter := b } }
              ∧ b.v = true ∧ b.desc.toNat = v ∧ b.pins = s.hart.bolter.pins
              ∧ ∀ j, j < 16 → (∀ hj : j < cols.length, (b.cols.toArray.getD j 0).toNat = leNat cols[j])
                  ∧ (cols.length ≤ j → b.cols.toArray.getD j 0 = s.hart.bolter.cols.toArray.getD j 0)))

/-- `hsig` (R301, R307): its refusals; and bit j of SIG is the sign of the exact projection, and field j of PRB the bit with the
(j + 1)-th smallest margin. -/
def Claim.Signatures : Prop :=
  ∀ (s : State) (d : XReg) (vs : VReg) (fe : FEnt),
    let h := s.hart; let dk := hf (held h) 384 9; let b := hf (held h) 393 5; let c := hf (held h) 398 4
    ∀ r, r = (keyRefusals h vs fe ++ [failing (capOf h (fmt h fe).n < dk) 0x0015 5]).findSome? id →
      (∀ cd v, r = some (cd, v) → exec (.hsig d vs fe) s = .next (takeTrap s cd v))
      ∧ (r = none → (∃ i, i < dk ∧ elemPois h vs.val i (fmt h fe).n = true) → exec (.hsig d vs fe) s = .next (poisonKill s))
      ∧ (r = none → (∀ i, i < dk → elemPois h vs.val i (fmt h fe).n = false) → HeadOk (held h) →
          ∀ (e : Int) (u : Nat → Int), (∀ i, i < dk → unitsOf2 e (finiteOrZero (wide1 h vs fe i)) = some (u i)) →
            ∃ w : Word, BolterDone (.hsig d vs fe) s (s.setX d w) ∧ w.toNat < 2 ^ 44
              ∧ (∀ j, j < 16 → (w.toNat.testBit j = true ↔ j < b ∧ projected h u dk j < 0))
              ∧ (∀ j, j < 7 → let p := w.toNat / 2 ^ (16 + 4 * j) % 16
                  (min 7 c ≤ j → p = 15)
                  ∧ (j < min 7 c → p < c ∧ (List.range c).countP (fun q => decide (
                      (projected h u dk q).natAbs < (projected h u dk p).natAbs
                      ∨ ((projected h u dk q).natAbs = (projected h u dk p).natAbs ∧ q < p))) = j)))

/-- `kst` (R303, R308): its refusals; with a free slot in the bucket's primary page the slot is reserved, and the key and its ID
are written as plain stores; with a bucket that has lost a link only the key is written; a poisoned
record kills (R389). -/
def Claim.KeyStore : Prop :=
  ∀ (s : State) (d : XReg) (vs : VReg) (xp : XReg) (fe : FEnt),
    let h := s.hart; let v := held h; let dk := hf v 384 9; let n := (fmt h fe).n; let kb := (dk * n + 7) / 8; let p := ux s xp
    ∀ r, r = (keyRefusals h vs fe ++ [failing (capOf h n < dk ∨ hf v 416 16 < kb) 0x0015 5, failing (0x7FFFFFFE < p) 0x0015 4]).findSome? id →
      (∀ cd x, r = some (cd, x) → exec (.kst d vs xp fe) s = .next (takeTrap s cd x))
      ∧ (r = none → (poisX h xp = true ∨ ∃ i, i < dk ∧ elemPois h vs.val i n = true) →
          exec (.kst d vs xp fe) s = .next (poisonKill s))
      ∧ (r = none → poisX h xp = false → (∀ i, i < dk → elemPois h vs.val i n = false) → HeadOk v → MemOk s →
          s.hart.pend = [] → NoCopies s →
          ∀ (sg u desc k0 v0 : Nat) (w : Bool) (key : Nat → Acc) (rc pr pl : Acc),
            sg = signature (sigSums h (headOf h) (headElems h vs fe (headOf h))) → u = sg % 2 ^ hf v 398 4 →
            BlockOf s p desc k0 v0 → (desc, w) ∈ h.bolter.pins →
            (∀ i, i < kb → Lies s (k0 + p % 2 ^ hf v 402 5 * hf v 416 16 + i) 1 .write (key i)) →
            (∀ i j, i < kb → j < kb → (key i).loc = (key j).loc → i = j) →
            Lies s (hf v 128 64 + 16 * u) 16 .write rc → Lies s (hf v 64 64 + 64 * u) 64 .write pr → Lies s (hf v 192 64) 16 .write pl →
            rc.loc % 16 = 0 → rc.loc + 16 ≤ 2 ^ 64 → (∀ k loc, racedBytes s h loc k = []) →
            (∀ o ∈ h.own, ¬ (rc.loc ≤ o.loc ∧ o.loc < rc.loc + 16)) →
            let rb := homeBytes s rc.key rc.loc 16
            let byte := fun i => if n = 4 then elem h vs.val (2 * i) 4 + 16 * (if 2 * i + 1 < dk then elem h vs.val (2 * i + 1) 4 else 0)
              else elem h vs.val (i / (n / 8)) n / 256 ^ (i % (n / 8)) % 256
            let pins := h.bolter.pins.map (fun q => if q.1 = desc then (q.1, true) else q)
            let whole := homePois s.mem rc.loc 16 = false
            (¬ whole → exec (.kst d vs xp fe) s = .next (poisonKill s))
            ∧ (whole → leNat ((rb.drop 4).take 1) % 2 = 1 →
              ∃ t, BolterDone (.kst d vs xp fe) s (t.setX d (word (sg + 2 ^ 17)))
                ∧ (∀ i, i < kb → ∀ k, (viewByte t t.hart k (key i).loc).toNat = byte i)
                ∧ (∀ k loc, homeByte t k loc = homeByte s k loc) ∧ t.hart.bolter = { h.bolter with pins := pins })
            ∧ (whole → leNat ((rb.drop 4).take 1) % 2 = 0 → ∀ cnt, cnt = leNat (rb.take 4) → cnt < 15 → leNat ((rb.drop 8).take 4) = 0 →
                ∀ idl : Nat → Acc, (∀ i, i < 4 → Lies s (hf v 64 64 + 64 * u + 4 * cnt + i) 1 .write (idl i)) →
                  (∀ i j, i < 4 → j < 4 → (idl i).loc = (idl j).loc → i = j) →
                  (∀ i j, i < kb → j < 4 → (key i).loc ≠ (idl j).loc) →
                  ∃ t, BolterDone (.kst d vs xp fe) s (t.setX d (word (sg + 2 ^ 16)))
                    ∧ (∀ i, i < kb → ∀ k, (key i).loc < rc.loc ∨ rc.loc + 16 ≤ (key i).loc →
                        (viewByte t t.hart k (key i).loc).toNat = byte i)
                    ∧ (∀ i, i < 4 → ∀ k, (viewByte t t.hart k (idl i).loc).toNat = (p + 1) / 256 ^ i % 256)
                    ∧ homeBytes t rc.key rc.loc 16 = natLe 4 (cnt + 1) ++ natLe 4 0 ++ natLe 4 0 ++ natLe 4 0
                    ∧ (∀ k loc, granule loc ≠ granule rc.loc → homeByte t k loc = homeByte s k loc)
                    ∧ t.hart.bolter = { h.bolter with pins := pins }))

/-- `bgath` and `bgath.dft` (R310, R311): their refusals; where every probed bucket has one page, the positions found are those
the pages list below T, the sink and the window, ascending and once each; a lost link or too many positions is the
dense-required report, or the dense-fallback trap. -/
def Claim.BucketGather : Prop :=
  ∀ (s : State) (vd : VReg) (xq xn : XReg) (np : Fin 8) (i : Instr) (dft : Bool),
    i = (if dft then .bgathDft vd xq xn np else .bgath vd xq xn np) →
    let h := s.hart; let v := held h
    ∀ r, r = ([configRefusal h [vtFmt h], groupRefusal h (vd.val, 8, 1)] ++ positionRefusals h).findSome? id →
      (∀ cd x, r = some (cd, x) → exec i s = .next (takeTrap s cd x))
      ∧ (r = none → (poisX h xq = true ∨ poisX h xn = true) → exec i s = .next (poisonKill s))
      ∧ (r = none → poisX h xq = false → poisX h xn = false → HeadOk v → NoCopies s →
          ∀ (us : List Nat) (rec_ pg : Nat → List Byte) (tt : Nat) (l : List Nat),
            us = probes (headOf h) (ux s xq) np.val → tt = min (ux s xn) 0x7FFFFFFF →
            (∀ u ∈ us, ReadsAt s (hf v 128 64 + 16 * u) 16 16 (rec_ u) ∧ ReadsAt s (hf v 64 64 + 64 * u) 64 64 (pg u)
              ∧ leNat ((pg u).drop 60) = 0) →
            l.Pairwise (· < ·) →
            (∀ p, p ∈ l ↔ (p < tt ∧ ∃ u ∈ us, PageLists (pg u) p) ∨ p < min (hf v 448 32) tt ∨ (tt - hf v 480 32 ≤ p ∧ p < tt)) →
            let most := min (capOf h 32) (8192 * 2 ^ h.id.vk.toNat)
            let lost := ∃ u ∈ us, leNat (((rec_ u).drop 4).take 1) % 2 = 1
            (¬ lost → l.length ≤ most → ∃ t, BolterDone i s (({ s with hart := t }).setX xq (word l.length))
              ∧ t = { h with vf := { h.vf with v := t.vf.v, pv := t.vf.pv }, vc := { h.vc with vl := BitVec.ofNat 17 l.length } }
              ∧ (∀ e (he : e < l.length), elem t vd.val e 32 = l[e] ∧ elemPois t vd.val e 32 = false)
              ∧ (∀ e, l.length ≤ e → e < capOf h 32 → if tailZero h = true ∧ l ≠ []
                  then elem t vd.val e 32 = 0 ∧ elemPois t vd.val e 32 = false else SameElem h t vd.val e 32)
              ∧ (∀ q, q < 64 → (q < vd.val ∨ vd.val + groupSize h ≤ q) → vreg t q = vreg h q ∧ vpoisReg t q = vpoisReg h q))
            ∧ (∀ why : Nat, (lost ∧ why = 1) ∨ (¬ lost ∧ most < l.length ∧ why = 2) →
                (dft = true → exec i s = .next (takeTrap s 0x0016 (word why)))
                ∧ (dft = false → BolterDone i s ((s.onHart (fun h => { h with vc := { h.vc with vl := 0 } })).setX xq
                    (word (2 ^ 63 + why * 2 ^ 60 : Nat))))))

/-- `bxlat.k` and `bxlat.v` (R296, R312): their refusals; with every page pinned, element i becomes the offset of position i's
key or value from KPOOL; a negative position traps with reason 4, and an offset out of range with reason 8, at the lowest
such element. -/
def Claim.Offsets : Prop :=
  ∀ (s : State) (vd vp : VReg) (i : Instr) (val : Bool), i = (if val then .bxlatV vd vp else .bxlatK vd vp) →
    let h := s.hart; let v := held h; let n := vlOf h
    ∀ r, r = ([configRefusal h [vtFmt h], groupRefusal h (vd.val, 8, 1), groupRefusal h (vp.val, 20, 1),
        failing (vd.val < vp.val + groupSize h ∧ vp.val < vd.val + groupSize h) 0x0001 8] ++ positionRefusals h).findSome? id →
      (∀ cd x, r = some (cd, x) → exec i s = .next (takeTrap s cd x))
      ∧ (r = none → (∃ e, e < n ∧ elemPois h vp.val e 32 = true) → exec i s = .next (poisonKill s))
      ∧ (r = none → (∀ e, e < n → elemPois h vp.val e 32 = false) → HeadOk v → NoCopies s → h.pend = [] →
          ∀ (m : Nat) (desc ka va : Nat → Nat), m ≤ n →
            let pos := fun e => elem h vp.val e 32
            let at_ := fun e => if val then va e + pos e % 2 ^ hf v 402 5 * hf v 432 16 else ka e + pos e % 2 ^ hf v 402 5 * hf v 416 16
            let fits := fun e => hf v 320 64 ≤ at_ e ∧ at_ e - hf v 320 64 < 2 ^ 31
            (∀ e, e < m → pos e < 2 ^ 31 ∧ BlockOf s (pos e) (desc e) (ka e) (va e) ∧ pinned h (desc e) = true ∧ fits e) →
            (m = n → ∃ t, BolterDone i s { s with hart := t }
              ∧ t = { h with vf := { h.vf with v := t.vf.v, pv := t.vf.pv } }
              ∧ (∀ e, e < n → elem t vd.val e 32 = at_ e - hf v 320 64 ∧ elemPois t vd.val e 32 = false)
              ∧ (∀ e, n ≤ e → e < capOf h 32 → if tailZero h = true ∧ n ≠ 0
                  then elem t vd.val e 32 = 0 ∧ elemPois t vd.val e 32 = false else SameElem h t vd.val e 32)
              ∧ (∀ q, q < 64 → (q < vd.val ∨ vd.val + groupSize h ≤ q) → vreg t q = vreg h q ∧ vpoisReg t q = vpoisReg h q))
            ∧ (m < n → 2 ^ 31 ≤ pos m → exec i s = .next (takeTrap s 0x0015 (word (4 + m * 2 ^ 32))))
            ∧ (m < n → pos m < 2 ^ 31 → BlockOf s (pos m) (desc m) (ka m) (va m) → pinned h (desc m) = true → ¬ fits m →
                exec i s = .next (takeTrap s 0x0015 (word (8 + m * 2 ^ 32)))))

/-- Heads, signatures, keys, gathers and offsets. -/
def Obligations.BolterForms : Prop :=
  Claim.HeadLoad ∧ Claim.Signatures ∧ Claim.KeyStore ∧ Claim.BucketGather ∧ Claim.Offsets

/-- `respin`, `resrel` and the background fetch (R132, R133, R313): the refusals in order, the lowest free entry, its release;
FULL exactly where every line of the entry is of an IDEM page and is kept, and no set ever keeps more than 12 ways. -/
def Claim.Residency : Prop :=
  ∀ (s : State) (d a b : XReg) (x : Ctx), findCtx s s.hart.id.ctx = some x →
    let base := ux s a; let l := ux s b
    let holds := fun (t : State) (rs : List ResEnt) => (t = { s with ctxs := t.ctxs } ∧ findCtx t x.num = some { x with res := rs }
      ∧ ∀ c, c ≠ x.num → findCtx t c = findCtx s c)
    ((poisX s.hart a = true ∨ poisX s.hart b = true) → exec (.respin d a b) s = .next (poisonKill s))
    ∧ (poisX s.hart a = false → poisX s.hart b = false →
        (base % 128 ≠ 0 ∨ 2 ^ 48 ≤ base → ScalarDone (.respin d a b) s d 0xFFFFFFFFFFFFF002 false)
        ∧ (base % 128 = 0 → base < 2 ^ 48 →
            (l = 0 ∨ 16777215 < l ∨ 2 ^ 48 < base + 128 * l → ScalarDone (.respin d a b) s d 0xFFFFFFFFFFFFF003 false)
            ∧ (0 < l → l ≤ 16777215 → base + 128 * l ≤ 2 ^ 48 →
                ((∀ e, e < 64 → ∃ r ∈ x.res, r.e = e) → ScalarDone (.respin d a b) s d 0xFFFFFFFFFFFFF001 false)
                ∧ (∀ e, e < 64 → (∀ r ∈ x.res, r.e ≠ e) → (∀ f, f < e → ∃ r ∈ x.res, r.e = f) →
                    ∃ t, BolterDone (.respin d a b) s (t.setX d (word e))
                      ∧ holds t (x.res ++ [{ e := e, base := base, lines := l, full := false, pins := [] }])))))
    ∧ (∀ e, e = base % 64 →
        ((∀ r ∈ x.res, r.e ≠ e) → ∃ t, BolterDone (.resrel d a) s (t.setX d 1 (poisX s.hart a)) ∧ holds t x.res)
        ∧ ((∃ r ∈ x.res, r.e = e) → ∃ t, BolterDone (.resrel d a) s (t.setX d 0 (poisX s.hart a))
            ∧ holds t (x.res.filter (fun r => r.e != e))))
    ∧ ((x.res.map (·.e)).Nodup → ∀ (e : Fin 64) (first : Nat), ∃ t rs, exec (.respinFill x.num e first) s = .next t ∧ holds t rs ∧ rs.length = x.res.length
        ∧ (∀ k (hk : k < rs.length) (hj : k < x.res.length), rs[k] = { x.res[k] with full := rs[k].full, pins := rs[k].pins }
          ∧ (x.res[k].e ≠ e.val → rs[k] = x.res[k])
          ∧ (x.res[k].e = e.val →
              (rs[k].full = true ↔ ∀ q, q < x.res[k].lines → ∃ l, lineAt s x (x.res[k].base + 128 * q) = some l ∧ l ∈ rs[k].pins)
              ∧ (∀ l ∈ rs[k].pins, ∃ q, q < x.res[k].lines ∧ lineAt s x (x.res[k].base + 128 * q) = some l)
              ∧ (∀ q l, q < x.res[k].lines → lineAt s x (x.res[k].base + 128 * q) = some l → KeptUpTo12 s t l (l ∈ rs[k].pins))))
        ∧ WaysHold s t)
    ∧ (∀ va l, lineAt s x va = some l → ∃ lva size pa w ex ks, walk s x va = .leaf lva size pa w ex false ks)

/-- `pgref` and `pgunref` (R297, R298): the reference count of a live page goes up or down; the last reference frees the page, at
once onto the free list where no pin is left, and otherwise deferred; a descriptor with a reserved bit of STAT set is
rejected (R11). -/
def Claim.PageReferences : Prop :=
  ∀ (s : State) (d a b : XReg) (x : Acc),
    let h := s.hart; let desc := ux s a
    (poisX h a = true → exec (.pgref d a) s = .next (poisonKill s) ∧ exec (.pgunref d a b) s = .next (poisonKill s))
    ∧ (poisX h a = false → 2 ^ 48 ≤ desc → exec (.pgref d a) s = .next (takeTrap s 0x0008 (s.x a)))
    ∧ (poisX h a = false → desc < 2 ^ 48 → desc % 32 ≠ 0 → exec (.pgref d a) s = .next (takeTrap s 0x0009 (s.x a)))
    ∧ (poisX h a = false → desc < 2 ^ 48 → desc % 32 = 0 →
        checkGlobal s h.id.die h.id.core h.id.ctx (desc + 16) .write = .ok x → MemOk s → s.pkg.setOvl = false → h.pend = [] →
        x.loc % 16 = 0 → x.loc + 16 ≤ 2 ^ 64 → racedBytes s h x.loc 16 = [] → NoCopies s →
        (∀ o ∈ h.own, ¬ (x.loc ≤ o.loc ∧ o.loc < x.loc + 16)) →
        let old := homeBytes s x.key x.loc 16; let p := homePois s.mem x.loc 16
        let ref := leNat (old.take 4); let spin := leNat ((old.drop 4).take 2); let stat := leNat ((old.drop 6).take 2)
        let dead := stat % 2 = 0 ∨ 4 ≤ stat
        let same := fun t : State => ∀ k loc, homeByte t k loc = homeByte s k loc
        let other := fun t : State => ∀ k loc, granule loc ≠ granule x.loc → homeByte t k loc = homeByte s k loc
        (dead ∨ stat / 2 % 2 = 1 → ∃ t, BolterDone (.pgref d a) s (t.setX d 0xFFFFFFFFFFFFF001 p) ∧ same t)
        ∧ (¬ dead → stat / 2 % 2 = 0 → ref = 2 ^ 32 - 1 → ∃ t, BolterDone (.pgref d a) s (t.setX d 0xFFFFFFFFFFFFF002 p) ∧ same t)
        ∧ (¬ dead → stat / 2 % 2 = 0 → ref < 2 ^ 32 - 1 → ∃ t, BolterDone (.pgref d a) s (t.setX d (word (ref + 1)) p)
            ∧ homeBytes t x.key x.loc 16 = natLe 4 (ref + 1) ++ old.drop 4 ∧ other t)
        ∧ (poisX h b = false → ∀ y, globalCheck s h (s.x b) 8 .write = .ok y → y.loc % 8 = 0 → y.loc + 8 ≤ 2 ^ 64 →
            granule y.loc ≠ granule x.loc → racedBytes s h y.loc 8 = [] → (∀ o ∈ h.own, ¬ (y.loc ≤ o.loc ∧ o.loc < y.loc + 8)) →
            homePois s.mem y.loc 8 = false →
            (dead ∨ ref = 0 → ∃ t, BolterDone (.pgunref d a b) s (t.setX d 0xFFFFFFFFFFFFF001 p) ∧ same t)
            ∧ (¬ dead → 1 < ref → ∃ t, BolterDone (.pgunref d a b) s (t.setX d (word (ref - 1 : Nat)) p)
                ∧ homeBytes t x.key x.loc 16 = natLe 4 (ref - 1) ++ old.drop 4 ∧ other t)
            ∧ (¬ dead → ref = 1 → spin ≠ 0 → ∃ t, BolterDone (.pgunref d a b) s (t.setX d 0x4000000000000000 p)
                ∧ homeBytes t x.key x.loc 16 = natLe 4 0 ++ natLe 2 spin ++ natLe 2 2 ++ natLe 8 (ux s b) ∧ other t)
            ∧ (¬ dead → ref = 1 → spin = 0 → ∃ t, BolterDone (.pgunref d a b) s (t.setX d 0 p)
                ∧ homeBytes t x.key x.loc 16 = natLe 8 0 ++ homeBytes s y.key y.loc 8
                ∧ homeBytes t y.key y.loc 8 = natLe 8 desc)))

/-- The residency table and page references. -/
def Obligations.ResidencyAndPages : Prop := Claim.Residency ∧ Claim.PageReferences

/-! ### Streams -/

/-- `strm` and `strm.v` (R324): a command whose descriptor is refused traps with the first reason that applies; one that is
admitted joins its port's commands, with nothing else changed; and with the port full the hart waits. -/
def Claim.StreamIssue : Prop :=
  ∀ (s : State) (x : XReg) (i : Instr) (vp : Bool) (port : Nat) (vr : Nat) (vi : Option VReg) (b rb : List Byte),
    (vp = false ∧ vr = 0 ∧ vi = none ∧ (∃ p : Fin 16, port = p.val ∧ i = .strm x p))
      ∨ (vp = true ∧ port = 16 ∧ ∃ v : VReg, vr = v.val ∧ i = .strmV x v vi) →
    let h := s.hart; let d := leNat b
    (poisX h x = true → exec i s = .next (poisonKill s))
    ∧ (poisX h x = false → h.pend = [] → ReadsClear s (ux s x) 128 128 b → ReadsRing s (hf d 128 64) rb →
        let most := groupSize h * (8192 * 2 ^ h.id.vk.toNat / (8 * 2 ^ hf d 196 3)); let nf := hf d 199 3 + 1
        ∀ g, g = (if vp then [failing (h.vc.vtype.toNat.testBit 63 = true) 0x0003 h.vc.vtype, groupRefusal h (vr, 26, nf),
            vi.bind (fun v => groupRefusal h (v.val, 64, 1)), vi.bind (fun v => failing (hf d 202 1 = 0 ∧ sharesGroup h vr nf v.val 1 = true) 0x0001 64)]
            else []).findSome? id →
          (∀ c v, g = some (c, v) → exec i s = .next (takeTrap s c v))
          ∧ (g = none → ∀ r, r = streamReason d vp vi.isSome most rb →
              (∀ c, r = some c → exec i s = .next (takeTrap s 0x0017 (word c)))
              ∧ (r = none → ∀ ne, ne = hf d 256 32 * hf d 288 32 * hf d 320 32 * hf d 352 32 →
                  let q := portCmds s h.id.ctx h.id.flat port
                  (∀ v j, vi = some v → j < ne → elemPois h v.val j 32 = true → exec i s = .next (poisonKill s))
                  ∧ ((∀ v, vi = some v → ∀ j, j < ne → elemPois h v.val j 32 = false) →
                    ((if vp then 4 else 8) ≤ q.length → exec i s = .next (sleeping s (.portRoom port)))
                    ∧ (q.length < (if vp then 4 else 8) → ∃ t c, exec i s = .next (retire s t)
                        ∧ t = { s with ports := t.ports, fresh := s.fresh + 1 }
                        ∧ (∃ p, findPort t h.id.ctx h.id.flat port = some p ∧ p.cmds = q ++ [c] ∧ p.die = h.id.die)
                        ∧ c.st = .accepted ∧ c.launch = h.id.launch ∧ c.desc.toNat = d ∧ c.cid = s.fresh ∧ c.vr = vr ∧ c.vi = vi.map (·.val)
                        ∧ c.g = groupSize h ∧ (∀ v, vi = some v → c.idx = (List.range ne).map (fun j => elem h v.val j 32))
                        ∧ c.ov = h.own.filter (·.ov) ∧ c.snap = h.snap ∧ c.writes = [] ∧ c.fetch = none
                        ∧ ∀ k f p, (k, f, p) ≠ (h.id.ctx, h.id.flat, port) → portCmds t k f p = portCmds s k f p)))))

/-- A command runs (R315, R318, R319): elements are copied in order up to the first that faults, which its completion names; a
copy that met none completes; and nothing is written before its record. The pace of a copy and the time of its writes are the
model's choices (log 43). -/
def Claim.StreamRuns : Prop :=
  ∀ (s : State) (cx flat port n : Nat) (p : Port) (c : Cmd) (rest : List Cmd), findPort s cx flat port = some p →
    (p.cmds = [] → exec (.streamStart cx flat port n) s = .next s)
    ∧ (p.cmds = c :: rest → port < 16 → c.st = .accepted → c.fetch = none → c.got = none → c.rids = [] → c.writes = [] → c.broken = [] →
        let d := c.desc.toNat; let w := 2 ^ hf d 196 3; let ne := hf d 256 32 * hf d 288 32 * hf d 320 32 * hf d 352 32
        let die := p.die
        (findSrc s (srcStream die)).fenced = false → hf d 199 3 = 0 → hf d 203 1 = 0 → 0 < ne → ne ≤ n →
        let sa := fun e => paddr d (hf d 0 64) 384 e; let da := fun e => paddr d (hf d 64 64) 512 e
        let view := { Hart.reset with own := c.ov, snap := c.snap }
        ∀ (m : Nat) (x y : Nat → Acc), m ≤ ne →
          (∀ e, e < m → engPlace s p.ctx die c.tiles (hf d 192 2) (sa e) w .read = .mem (x e)
            ∧ engPlace s p.ctx die c.tiles (hf d 194 2) (da e) w .write = .mem (y e) ∧ (x e).dev = false ∧ (y e).dev = false
            ∧ viewPois s view (x e).loc w = false) →
          let wrote := (List.range m).flatMap (fun e => (List.range w).map (fun i =>
            ((y e).loc + i, viewByte s view (x e).key ((x e).loc + i), (y e).key)))
          let ends := fun (st : CmdSt) => ∃ t, exec (.streamStart cx flat port n) s = .next t ∧ t = { s with ports := t.ports }
            ∧ portCmds t cx flat port = { c with st := st, writes := wrote } :: rest
          (m = ne → ends (.finished ne 0 0))
          ∧ (m < ne → ∀ k, engPlace s p.ctx die c.tiles (hf d 192 2) (sa m) w .read = .bad k →
              ends (.finished m (faultCode k) (word (sa m)))))

/-- The append of a finished command's record (R326 to R329): with a free slot the record stands in it, HEAD has advanced, the
copy's writes are at their homes, and the command has left its port; with the ring full nothing happens. -/
def Claim.RecordAppends : Prop :=
  ∀ (s : State) (cx flat port : Nat) (p : Port) (c : Cmd) (rest : List Cmd) (e code : Nat) (fa : Word),
    findPort s cx flat port = some p → p.cmds = c :: rest → c.fetch = none → p.port < 32 →
    ((∀ e code fa, c.st ≠ .finished e code fa) → exec (.recordAppend cx flat port) s = .next s)
    ∧ (c.st = .finished e code fa → MemOk s → s.pkg.setOvl = false →
        let d := c.desc.toNat; let eng := asEngine s p.ctx p.die 0
        ∀ a hdr, ringCheck eng (word (hf d 128 64)) .write = .ok a → a.dev = false → a.loc % 32 = 0 → a.loc + 32 ≤ 2 ^ 64 →
          homePois s.mem a.loc 32 = false → hdr = homeBytes s a.key a.loc 32 → ¬ RingBroken hdr →
          let sz := 2 ^ leNat (hdr.drop 8 |>.take 4); let head := leNat (hdr.drop 16 |>.take 8); let tail := leNat (hdr.drop 24)
          (sz ≤ (head + 2 ^ 64 - tail) % 2 ^ 64 → exec (.recordAppend cx flat port) s = .next s)
          ∧ ((head + 2 ^ 64 - tail) % 2 ^ 64 < sz → ∀ b, ringCheck eng (word (leNat (hdr.take 8) + 32 * (head % sz))) .write = .ok b →
              b.loc % 32 = 0 → b.loc + 32 ≤ 2 ^ 64 → granule b.loc ≠ granule a.loc → c.broken = [] → hf d 204 1 = 0 →
              (∀ w ∈ c.writes, granule w.1 ≠ granule a.loc ∧ granule w.1 ≠ granule b.loc) → (c.writes.map (·.1)).Nodup →
              (∀ v ∈ c.writes, ∀ w ∈ c.writes, v.2.2 = w.2.2) →
              ∃ t, exec (.recordAppend cx flat port) s = .next t
                ∧ homeBytes t b.key b.loc 32 = natLe 2 (if code = 0 then 0 else 1) ++ natLe 2 code ++ natLe 1 p.port ++ natLe 3 0
                    ++ natLe 8 (e * (hf d 199 3 + 1) * 2 ^ hf d 196 3) ++ natLe 8 (hf d 640 64) ++ natLe 8 fa.toNat
                ∧ homeBytes t a.key a.loc 32 = hdr.take 16 ++ natLe 8 ((head + 1) % 2 ^ 64) ++ hdr.drop 24
                ∧ (∀ w ∈ c.writes, homeByte t w.2.2 w.1 = w.2.1)
                ∧ portCmds t cx flat port = rest ∧ t.hart = s.hart ∧ t.others = s.others
                ∧ ∃ r, t.copies = r :: s.copies ∧ r.cid = c.cid ∧ r.slot = some b.loc ∧ r.wids.length = c.writes.length))

/-- Streams: their issue, their copies and the records of their completion. -/
def Obligations.Streams : Prop := Claim.StreamIssue ∧ Claim.StreamRuns ∧ Claim.RecordAppends

/-- `strmw`, `crwait` and `crpop` (R330, R331): the first retires once the port is empty, and the hart has then observed its
copies; the second gives the number of records in the ring, once there is one or the deadline has passed; the third takes the
oldest record into four registers and advances TAIL, or gives −1 for an empty ring. -/
def Claim.StreamWaits : Prop :=
  ∀ (s : State) (port : Option (Fin 16)) (d a b : XReg),
    let h := s.hart; let q := (port.map (·.val)).getD 16
    (portCmds s h.id.ctx h.id.flat q ≠ [] → exec (.strmw port) s = .next (sleeping s (.strmw q)))
    ∧ (portCmds s h.id.ctx h.id.flat q = [] → ∃ obs, exec (.strmw port) s = .next (retire s { s with hart := { h with obs := obs } })
        ∧ ∀ c, c ∈ obs ↔ c ∈ h.obs ∨ ∃ r ∈ s.copies, r.cid = c ∧ r.launch = h.id.launch ∧ r.flat = h.id.flat ∧ r.port = q)
    ∧ (poisX h a = true → exec (.crwait d a b) s = .next (poisonKill s) ∧ exec (.crpop d a) s = .next (poisonKill s))
    ∧ (poisX h a = false → ∀ x, ringCheck s (s.x a) .read = .ok x → h.pend = [] → MemOk s → x.loc % 32 = 0 → x.loc + 32 ≤ 2 ^ 64 →
        Undisturbed s (x.loc + 16) 16 →
        let head := leNat (homeBytes s x.key (x.loc + 16) 8); let tail := leNat (homeBytes s x.key (x.loc + 24) 8)
        let n : Nat := (head + 2 ^ 64 - tail) % 2 ^ 64; let dl := ux s b
        (n = 0 → (dl = 0 ∨ timeOn s h.id.die < dl) →
          exec (.crwait d a b) s = .next (sleeping s (.crwait d (ux s a) (poisX h b) dl)))
        ∧ (n ≠ 0 ∨ (dl ≠ 0 ∧ dl ≤ timeOn s h.id.die) → ∃ t, exec (.crwait d a b) s
            = .next (retire s (t.setX d (word n) (homePois s.mem (x.loc + 16) 16 || poisX h b)))
            ∧ (∀ k l, homeByte t k l = homeByte s k l) ∧ t.hart = h))
    ∧ (poisX h a = false → ∀ x, ringCheck s (s.x a) .write = .ok x → h.pend = [] → MemOk s → x.loc % 32 = 0 → x.loc + 32 ≤ 2 ^ 64 →
        Undisturbed s x.loc 16 → Undisturbed s (x.loc + 16) 16 → homePois s.mem x.loc 32 = false →
        let hdr := homeBytes s x.key x.loc 32
        let head := leNat (hdr.drop 16 |>.take 8); let tail := leNat (hdr.drop 24)
        (head = tail → ∃ t, exec (.crpop d a) s = .next (retire s (t.setX d 0xFFFFFFFFFFFFFFFF)) ∧ t.hart = h
          ∧ ∀ k l, homeByte t k l = homeByte s k l)
        ∧ (head ≠ tail → d.val + 3 < 56 → 0 < d.val → ∀ y, leNat (hdr.drop 8 |>.take 4) ≤ 16 →
            ringCheck s (word (leNat (hdr.take 8) + 32 * (tail % 2 ^ leNat (hdr.drop 8 |>.take 4)))) .read = .ok y →
            y.loc % 32 = 0 → y.loc + 32 ≤ 2 ^ 64 → granule y.loc ≠ granule x.loc → Undisturbed s y.loc 32 →
            ∃ t, exec (.crpop d a) s = .next (retire s t)
              ∧ (∀ k, k < 4 → getX t.hart ⟨(d.val + k) % 64, Nat.mod_lt _ (by omega)⟩ = word (leNat (homeBytes s y.key (y.loc + 8 * k) 8))
                  ∧ poisX t.hart ⟨(d.val + k) % 64, Nat.mod_lt _ (by omega)⟩ = homePois s.mem y.loc 32)
              ∧ (∀ r : XReg, (r.val < d.val ∨ d.val + 3 < r.val) → getX t.hart r = getX h r)
              ∧ homeBytes t x.key x.loc 32 = hdr.take 24 ++ natLe 8 ((tail + 1) % 2 ^ 64)
              ∧ (∀ k l, granule l ≠ granule x.loc → homeByte t k l = homeByte s k l)
              ∧ (∀ r ∈ s.copies, r.slot = some y.loc → (∀ r' ∈ s.copies, r'.slot = some y.loc → r' = r) → r.cid ∈ t.hart.obs)))

/-- Delivery of a completion at user level, as an event on the hart in focus (R80, R332): it waits for EN, and goes to UIVEC with
the pc saved; a signal that cannot be delivered is kept in PEND. -/
def Claim.Delivery : Prop :=
  ∀ (s : State) (u : Nat), u = s.hart.id.uid →
    let h := s.hart
    (h.st.life ≠ .placed → exec (.uiDelivery u) s = .next s)
    ∧ (h.st.life = .placed →
        (h.ui.en = true → h.ui.act = false → (h.st.uiDue = true ∨ h.ui.pend = true) → ¬ beyond h.ui.uivec →
          ∃ t, exec (.uiDelivery u) s = .next { s with hart := t }
            ∧ t.pc = h.ui.uivec ∧ t.ui.uipc = h.pc ∧ t.ui.act = true ∧ t.ui.en = true ∧ t.st.uiDue = false ∧ t.st.asleep = none
            ∧ (h.st.uiDue = true → t.ui.pend = h.ui.pend ∧ getX t ⟨63, by omega⟩ = 0 ∧ poisX t ⟨63, by omega⟩ = false)
            ∧ (h.st.uiDue = false → t.ui.pend = false ∧ t.sc = h.sc)
            ∧ t.sc.x = h.sc.x ∧ t.vf = h.vf ∧ t.vc = h.vc ∧ t.trap = h.trap)
        ∧ ((h.ui.en = false ∨ h.ui.act = true) → h.st.uiDue = true →
            exec (.uiDelivery u) s = .next { s with hart := { h with ui := { h.ui with pend := true }, st := { h.st with uiDue := false } } })
        ∧ (h.st.uiDue = false → (h.ui.pend = false ∨ h.ui.en = false ∨ h.ui.act = true) → exec (.uiDelivery u) s = .next s))

/-- Waits on streams and rings, and completion delivery. -/
def Obligations.StreamCompletion : Prop := Claim.StreamWaits ∧ Claim.Delivery

/-! ### The movement timetable -/

/-- `tmark` and `tmark.nc` (R336 to R339) for a pass whose table is read: the marker moves when every entry checked is settled,
and the windows it passes close; the lowest entry that is not settled is a schedule miss, which goes to the user's handler
where it can, and otherwise traps with its word. The checks of a new pass are the model's reading (log 48). -/
def Claim.Markers : Prop :=
  ∀ (s : State) (n : BitVec 32) (l : Launch) (pass : Nat) (es : List TTEnt),
    let h := s.hart; let m := myMill s; let k := myMarker s
    (findLaunch s h.id.launch = none → exec (.tmark n) s = .next (retire s s) ∧ exec (.tmarkNc n) s = .next (retire s s))
    ∧ (findLaunch s h.id.launch = some l →
        ((startsPass k n.toNat → pass = k.pass + 1) ∧ (¬ startsPass k n.toNat → pass = k.pass)) →
        l.ttptr ≠ 0 → m.table pass = some es → ∀ bad, CleanBut s l.ctx m bad →
        let checked := fun i => ∃ e, es[i]? = some e ∧ e.chk = true ∧ Passes k n.toNat i e
        let settled := fun i => m.act pass i = some .settled
        let moved := fun (t : State) => (myMarker t).marker = some n.toNat ∧ (myMarker t).pass = pass
          ∧ (bad = none → t = { s with mills := t.mills, hart := { h with obs := t.hart.obs } }
              ∧ ∀ i, (myMill t).act pass i = some .due ↔ m.act pass i = some .due
                  ∨ (m.act pass i = none ∧ ∃ e, es[i]? = some e ∧ ∃ j ∈ (myMill t).markers, j.pass = pass ∧ entDue j e = true))
          ∧ (∀ i e q, bad = some (pass, i) → es[i]? = some e → m.act pass i = none → entDue (myMarker t) e = true →
              entCause s l.ctx h.id.die e = some (q, none) → (myMill t).act pass i = some .rejected)
        ((∀ i, checked i → settled i) → ∃ t, exec (.tmark n) s = .next (retire s t) ∧ moved t
          ∧ (∀ i, (myMarker t).closed.any (fun c => c.1 == i) = true ↔
              checked i ∨ (¬ startsPass k n.toNat ∧ k.closed.any (fun c => c.1 == i) = true))
          ∧ (∀ c, c ∈ t.hart.obs ↔ c ∈ h.obs ∨ ∃ i, checked i ∧ (pass, i, c) ∈ m.fetches))
        ∧ (∃ t, exec (.tmarkNc n) s = .next (retire s t) ∧ moved t ∧ t.hart.obs = h.obs
          ∧ (∀ i, (myMarker t).closed.any (fun c => c.1 == i) = true ↔
              (∃ e, es[i]? = some e ∧ Passes k n.toNat i e) ∨ (¬ startsPass k n.toNat ∧ k.closed.any (fun c => c.1 == i) = true)))
        ∧ (∀ i, checked i → ¬ settled i → (∀ j, j < i → checked j → settled j) →
            let code : Nat := if m.act pass i = some .rejected then 1 else if m.act pass i = some .faulted then 2 else 0
            let w := word (2 ^ 63 + code * 2 ^ 60 + i : Nat)
            ∃ u, u = { s with ctxs := u.ctxs }
              ∧ (∀ x, findCtx s h.id.ctx = some x → ∃ y, findCtx u h.id.ctx = some y
                  ∧ y.tmcnt.toArray.getD 2 0 = x.tmcnt.toArray.getD 2 0 + 1
                  ∧ ∀ q, q ≠ 2 → y.tmcnt.toArray.getD q 0 = x.tmcnt.toArray.getD q 0)
              ∧ ((h.ui.en = false ∨ h.ui.act = true) → exec (.tmark n) s = .next (takeTrap u 0x0019 w))
              ∧ (h.ui.en = true → h.ui.act = false → ¬ beyond h.ui.uivec → ∃ t, exec (.tmark n) s = .next { u with hart := t }
                  ∧ t.pc = h.ui.uivec ∧ t.ui.uipc = h.pc ∧ t.ui.act = true ∧ getX t ⟨63, by omega⟩ = w
                  ∧ getX t ⟨62, by omega⟩ = word n.toNat ∧ t.sc.x = h.sc.x ∧ t.trap = h.trap)))

/-- `tmwait`, `tmwaive` and `tmcnt` (R340) for a pass whose table the Millrace does not still want to read. -/
def Claim.TierControl : Prop :=
  ∀ (s : State) (d a : XReg),
    let h := s.hart; let m := myMill s; let k := myMarker s; let i := ux s a % 65536; let p := poisX h a
    let due := fun e => (m.table k.pass).bind (fun es => es[i]?) = some e ∧ entDue k e = true
    (k.pass ∉ m.wantRead →
      ((∀ e, ¬ due e) → exec (.tmwait d a) s = .next (retire s (s.setX d 4 p)) ∧ exec (.tmwaive a) s = .next (retire s s))
      ∧ (∀ e, due e →
          (m.act k.pass i = some .settled → exec (.tmwait d a) s = .next (retire s (s.setX d 0 p)) ∧ exec (.tmwaive a) s = .next (retire s s))
          ∧ (m.act k.pass i = some .rejected → exec (.tmwait d a) s = .next (retire s (s.setX d 1 p)))
          ∧ (m.act k.pass i = some .faulted → exec (.tmwait d a) s = .next (retire s (s.setX d 2 p)))
          ∧ (m.act k.pass i = some .late → exec (.tmwait d a) s = .next (retire s (s.setX d 3 p)))
          ∧ (m.act k.pass i = some .due ∨ m.act k.pass i = some .started ∨ m.act k.pass i = none →
              exec (.tmwait d a) s = .next (if k.isOpen i then sleeping s (.tmwait d i p) else retire s (s.setX d 3 p)))
          ∧ (m.act k.pass i ≠ some .settled →
              (k.isOpen i = false → exec (.tmwaive a) s = .next (retire s s))
              ∧ (k.isOpen i = true → ∃ t, exec (.tmwaive a) s = .next (retire s t) ∧ t = { s with mills := t.mills }
                  ∧ myMarker t = { k with closed := (i, false) :: k.closed } ∧ (myMill t).acts = m.acts))))
    ∧ (∀ x, findCtx s h.id.ctx = some x → exec (.tmcnt d a) s
        = .next (retire s (s.setX d (if ux s a % 8 < 5 then x.tmcnt.toArray.getD (ux s a % 8) 0 else 0) p)))

/-- The reading of a timetable (R334, R335, R338): entries up to the first with ACT 0, once for the pass, by the Millrace that
still wants it or by the marker of the first hart that begins the pass; that marker's windows close, and its checks are made,
from the lowest deadline on. -/
def Claim.TimetableReads : Prop :=
  ∀ (s : State) (lid die pass : Nat) (l : Launch) (es : List TTEnt) (x : Nat → Acc),
    let m := findMill s lid die
    findLaunch s lid = some l → l.ttptr ≠ 0 → m.table pass = none → s.pkg.setOvl = false → es.length < 65536 →
    (∀ j, j ≤ es.length → (∀ t, Still s t → globalCheck (asEngine t l.ctx die 0) (asEngine t l.ctx die 0).hart (word (l.ttptr + 32 * j)) 32 .read = .ok (x j))
      ∧ homePois s.mem (x j).loc 32 = false) →
    (∀ j (hj : j < es.length), parseEnt (homeBytes s (x j).key (x j).loc 32) = es[j] ∧ es[j].act ≠ 0) →
    (parseEnt (homeBytes s (x es.length).key (x es.length).loc 32)).act = 0 →
    CleanBut s l.ctx m none → (∀ e ∈ es, entCause s l.ctx die e = none) →
    let read := fun t : State => (findMill t lid die).table pass = some es ∧ (∀ p, p ∈ (findMill t lid die).wantRead ↔ p ∈ m.wantRead ∧ p ≠ pass)
      ∧ t.others = s.others ∧ ∀ k a, homeByte t k a = homeByte s k a
    (m.wantRead = [pass] → ∃ t, exec (.timetableRead lid die) s = .next t ∧ read t ∧ (findMill t lid die).markers = m.markers ∧ t.hart = s.hart)
    ∧ (∀ n : BitVec 32, s.hart.id.launch = lid → s.hart.id.die = die → startsPass (myMarker s) n.toNat → pass = (myMarker s).pass + 1 →
        (∃ t, exec (.tmarkNc n) s = .next (retire s t) ∧ read t ∧ (myMarker t).marker = some n.toNat ∧ (myMarker t).pass = pass
          ∧ ∀ i, (myMarker t).closed.any (fun c => c.1 == i) = true ↔ ∃ e, es[i]? = some e ∧ Passes (myMarker s) n.toNat i e)
        ∧ (∀ i e, es[i]? = some e → e.chk = true → Passes (myMarker s) n.toNat i e → m.act pass i = none →
            (∀ j f, j < i → es[j]? = some f → f.chk = true → Passes (myMarker s) n.toNat j f → m.act pass j = some .settled) →
            (s.hart.ui.en = false ∨ s.hart.ui.act = true) →
            ∃ u, u = { s with ctxs := u.ctxs } ∧ exec (.tmark n) s = .next (takeTrap u 0x0019 (word (2 ^ 63 + i : Nat)))))

/-- The start and the end of an action (R333, R334, R336, R337, R432, R490): the first due action starts, and is counted; a
promotion that ends in time holds its lines as far as the ways allow; an eviction releases them; and a fetch ends as its copy
does. Counter 1 is the model's reading (log 49). -/
def Claim.TimetableActions : Prop :=
  ∀ (s : State) (lid die : Nat) (l : Launch) (a : DueAct) (rest : List DueAct) (c : Ctx),
    findLaunch s lid = some l → findCtx s l.ctx = some c →
    let m := findMill s lid die
    let counts := fun (t : State) (k : Nat) => ∃ y, findCtx t l.ctx = some y ∧ y.tmcnt.toArray.getD k 0 = c.tmcnt.toArray.getD k 0 + 1
    (dueActs s die = [] → exec (.millraceActionStart lid die) s = .next s)
    ∧ (dueActs s die = a :: rest → (a.launch ≠ lid ∨ 64 ≤ inFlight s die ∨ (findSrc s (srcMill die)).fenced = true) →
        exec (.millraceActionStart lid die) s = .next s)
    ∧ (dueActs s die = a :: rest → a.launch = lid → inFlight s die < 64 → (findSrc s (srcMill die)).fenced = false →
        (a.e.act = 1 ∨ (a.e.act = 2 ∧ ∃ hd ∈ c.holds, holdHits hd a.e.obj.toNat a.e.lines = true) → ∃ t,
          exec (.millraceActionStart lid die) s = .next t ∧ t = { s with mills := t.mills, ctxs := t.ctxs }
          ∧ (findMill t lid die).act a.pass a.i = some .started ∧ counts t 0)
        ∧ (a.e.act = 2 → (∀ hd ∈ c.holds, holdHits hd a.e.obj.toNat a.e.lines = false) → ∃ t,
          exec (.millraceActionStart lid die) s = .next t ∧ t = { s with mills := t.mills, ctxs := t.ctxs }
          ∧ (findMill t lid die).act a.pass a.i = some .settled ∧ counts t 0 ∧ counts t 1)
        ∧ (a.e.act = 3 → ∃ t, exec (.millraceActionStart lid die) s = .next t
          ∧ (findMill t lid die).act a.pass a.i = some .started ∧ counts t 0
          ∧ ∃ cm, portCmds t l.ctx a.e.hidx (32 + s.fresh) = portCmds s l.ctx a.e.hidx (32 + s.fresh) ++ [cm]
            ∧ cm.fetch = some (lid, die, a.pass, a.i) ∧ cm.launch = lid ∧ cm.cid = s.fresh ∧ cm.desc = BitVec.ofNat 1024 (fetchDesc a.e)))
    ∧ (∀ i pass es e, m.act pass i = some .started → m.table pass = some es → es[i]? = some e →
        (e.act = 1 → allClosed s m pass i e = false → ∃ t y, exec (.actionSettle lid die ⟨pass, i⟩) s = .next t
          ∧ (findMill t lid die).act pass i = some .settled ∧ counts t 1 ∧ findCtx t l.ctx = some y ∧ WaysHold s t
          ∧ (∀ hd ∈ c.holds, hd ∈ y.holds)
          ∧ (∀ hd ∈ y.holds, hd ∈ c.holds ∨ (hd.launch = lid ∧ hd.die = die
              ∧ ∃ q, q < e.lines ∧ hd.va = e.obj.toNat + 128 * q ∧ lineAt s c hd.va = some hd.line))
          ∧ (∀ q k, q < e.lines → lineAt s c (e.obj.toNat + 128 * q) = some k → KeptUpTo12 s t k
              (∃ hd ∈ y.holds, hd.launch = lid ∧ hd.die = die ∧ hd.va = e.obj.toNat + 128 * q ∧ hd.line = k)))
        ∧ (e.act = 1 → allClosed s m pass i e = true → ∃ t, exec (.actionSettle lid die ⟨pass, i⟩) s = .next t
          ∧ (findMill t lid die).act pass i = some .late ∧ counts t 3 ∧ ∃ y, findCtx t l.ctx = some y ∧ y.holds = c.holds)
        ∧ (e.act = 2 → ∃ t, exec (.actionSettle lid die ⟨pass, i⟩) s = .next t ∧ (findMill t lid die).act pass i = some .settled ∧ counts t 1
          ∧ ∃ y, findCtx t l.ctx = some y ∧ ∀ hd, hd ∈ y.holds ↔ hd ∈ c.holds ∧ holdHits hd e.obj.toNat e.lines = false)
        ∧ (e.act = 3 → ∀ p cm cs, p ∈ s.ports → p.cmds = cm :: cs → cm.fetch = some (lid, die, pass, i) →
            (∀ p' ∈ s.ports, ∀ c' ∈ p'.cmds, ∀ d, c'.fetch = some (lid, d, pass, i) → p' = p) →
            ((∀ n code fa, cm.st ≠ .finished n code fa) → exec (.actionSettle lid die ⟨pass, i⟩) s = .next s)
            ∧ (∀ n code fa, cm.st = .finished n code fa → ∃ t, exec (.actionSettle lid die ⟨pass, i⟩) s = .next t
                ∧ (code = 0 → (findMill t lid die).act pass i = some .settled ∧ counts t 1)
                ∧ (code ≠ 0 → (findMill t lid die).act pass i = some .faulted))))

/-- The movement timetable: markers, tier control, its reading and its actions. -/
def Obligations.Timetable : Prop := Claim.Markers ∧ Claim.TierControl ∧ Claim.TimetableReads ∧ Claim.TimetableActions

/-! ### Launches, placement and ends -/

/-- The taking of a launch (R39, R43, R342, R343), with TAIL as strong writes have left it: a queue that is paused, empty, or has an earlier launch still to place gives none;
else HEAD advances past the record, and the launch joins the machine, or is rejected with its REJ count and its token. -/
def Claim.LaunchTaken : Prop :=
  ∀ (s : State) (dev q : Nat) (x : Queue) (hb b : List Byte), findQueue s dev q = some x → MemOk s →
    let waiting := ∃ l ∈ s.launches, l.dev = dev ∧ l.queue = q ∧ ∃ i ∈ l.insts, i.st = .never
    (x.paused = true ∨ s.pkg.chg ≠ none ∨ waiting → exec (.launchTake dev q) s = .next s)
    ∧ (x.paused = false → s.pkg.chg = none → ¬ waiting → devRead s dev x.hdr 64 = some hb →
        let tail := strongTail s dev x.hdr; let head := leNat (hb.drop 24 |>.take 8)
        let pa := leNat (hb.take 8) + 128 * (head % 2 ^ leNat (hb.drop 8 |>.take 4))
        (tail = head → exec (.launchTake dev q) s = .next s)
        ∧ (tail ≠ head → leNat (hb.drop 8 |>.take 4) ≤ 16 → devRead s dev pa 128 = some b → x.hdr % 64 = 0 → x.hdr + 64 ≤ evArea s.pkg →
            s.pkg.fatalAt = none → (∃ c, findCtx s x.ctx = some c ∧ c.dev = dev) →
            let l := parseLaunch s.fresh x.ctx dev q b
            let advanced := fun t : State => devRead t dev (x.hdr + 0x18) 8 = some (natLe 8 ((head + 1) % 2 ^ 64))
            (∀ ft, launchCause s l b = .inr ft → ∃ t l', exec (.launchTake dev q) s = .next t ∧ advanced t
              ∧ t.launches.getLast? = some l' ∧ l' = { l with ft := ft, insts := instsOf l, readyAt := l'.readyAt }
              ∧ (l'.readyAt = some (nsNow s) ↔ depsOk s l = true) ∧ t.hart = s.hart ∧ t.ctxs = s.ctxs)
            ∧ (∀ c, launchCause s l b = .inl c → ∃ t, exec (.launchTake dev q) s = .next t ∧ advanced t
              ∧ t.launches = s.launches ∧ t.hart = s.hart
              ∧ devRead t dev (x.hdr + 0x20) 8 = some (natLe 8 ((leNat (hb.drop 32 |>.take 8) + 1) % 2 ^ 64))
              ∧ (l.doneTok ≠ 0 → ∃ y, findCtx t x.ctx = some y ∧ tokenStatus y l.doneTok = some false))))

/-- A launch with a failed dependence is removed, and its own token fails (R345). -/
def Claim.DependencesFail : Prop :=
  ∀ (s : State) (lid : Nat) (l : Launch) (c : Ctx), findLaunch s lid = some l → findCtx s l.ctx = some c →
    let failed := ∃ d ∈ l.deps, d ≠ 0 ∧ tokenStatus c d = some false
    (l.readyAt ≠ none ∨ ¬ failed → exec (.dependenceFail lid) s = .next s)
    ∧ (l.readyAt = none → failed → ∃ t, exec (.dependenceFail lid) s = .next t
        ∧ t.launches = s.launches.filter (fun x => x.lid != lid) ∧ t.hart = s.hart
        ∧ (l.doneTok ≠ 0 → ∃ y, findCtx t l.ctx = some y ∧ tokenStatus y l.doneTok = some false))

/-- A placement round (R347, R348): at most one in 64 cycles; with no candidate it only ends the reservations; and the first
candidate that can be placed, with the contexts that reservations hold against it held back, is placed, with the round-robin
pointer behind its queue and its own reservation met; the harts of a fresh instance that fits are placed where it fits, at
their entry. Reservations and places are the model's readings (log 53). -/
def Claim.Rounds : Prop :=
  ∀ (s s1 : State) (dev : Nat),
    (0 < (findDev s dev).lastRound → s.cycle < (findDev s dev).lastRound + 64 → exec (.placementRound dev) s = .next s)
    ∧ (((findDev s dev).lastRound = 0 ∨ (findDev s dev).lastRound + 64 ≤ s.cycle) →
        s1 = switchAll (settleAll (markReady (modDev s dev (fun d => { d with lastRound := s.cycle })))) →
        (candidates s1 dev = [] → exec (.placementRound dev) s = .next (modDev s1 dev (fun d => { d with resv := [] })))
        ∧ (∀ cs c rest s2 s3, cs = sortBy (Cand.le (findDev s dev).rr (queueCount s1.pkg.mode)) (candidates s1 dev) → cs = c :: rest →
            s2 = modDev s1 dev (fun d => { d with resv := d.resv.filter (fun r => cs.any (fun c => (c.lid, c.gi) == r.1)) }) →
            tryCand s2 c (reservedFrom (findDev s2 dev) cs c) = (s3, true) →
            ∃ f : Device → Device, exec (.placementRound dev) s = .next (modDev s3 dev f)
              ∧ ∀ d, f d = { d with rr := (c.q + 1) % queueCount s1.pkg.mode, resv := (f d).resv }
                ∧ ∀ r ∈ (f d).resv, r ∈ d.resv ∧ r.1 ≠ (c.lid, c.gi))
        ∧ (∀ cs c rest s2 l spots, cs = sortBy (Cand.le (findDev s dev).rr (queueCount s1.pkg.mode)) (candidates s1 dev) → cs = c :: rest →
            s2 = modDev s1 dev (fun d => { d with resv := d.resv.filter (fun r => cs.any (fun c => (c.lid, c.gi) == r.1)) }) →
            c.saved = false → findLaunch s2 c.lid = some l → l.lid = c.lid → neverInsts l = [c.gi] →
            freshSpots s2 l c.gi (grantOf s2 l).1 (fun _ => true) (inUse s2 (reservedFrom (findDev s2 dev) cs c)) = some spots →
            ∃ t, exec (.placementRound dev) s = .next t
              ∧ ∀ sp ∈ spots, ∃ h ∈ allHarts t, h.st.life = .placed ∧ h.id.launch = c.lid ∧ h.id.ginst = c.gi ∧ h.id.flat = sp.flat
                  ∧ h.id.partner = sp.partner ∧ h.id.die = sp.die ∧ h.id.core = sp.core ∧ h.id.hnum = sp.hnum ∧ h.pc = l.entry))

/-- The order of candidates (R46, R347): an earlier one has no lower effective priority. -/
def Claim.CandidateOrder : Prop :=
  ∀ (s : State) (dev : Nat) (cs : List Cand) (rr nq : Nat), cs = sortBy (Cand.le rr nq) (candidates s dev) →
    cs.Pairwise (fun a b => b.ep ≤ a.ep) ∧ (∀ c, c ∈ cs ↔ c ∈ candidates s dev)
    ∧ ∀ c ∈ cs, ∃ l ∈ s.launches, l.lid = c.lid ∧ l.dev = dev ∧ c.ep = min 8 (l.prio + (nsNow s - c.since) / 4000000)

/-- The state in which a hart of a launch begins (R44, R83, R346). -/
def Claim.EntryState : Prop :=
  ∀ (s : State) (l : Launch) (gi : Nat) (sp : Spot) (uid lanes : Nat) (vk : BitVec 2) (h : Hart),
    h = beginHart s (entryHart s l gi sp uid lanes vk) → l.levels.length ≤ 8 → 0 < l.levels.length →
      h.pc = l.entry ∧ h.st.life = .placed ∧ h.st.priv = false ∧ h.st.red = l.red ∧ h.ui.act = false
      ∧ h.sc.x[2] = (if l.stksz = 0 then l.stkbase else l.stkbase + word ((sp.flat + 1) * l.stksz))
      ∧ h.sc.x[3] = l.arg ∧ h.sc.x[4] = word sp.flat ∧ h.sc.x[6] = word (8192 * 2 ^ vk.toNat : Nat)
      ∧ h.sc.x[5] = word ((((l.levels.drop 1).map (·.count)).foldl (· * ·) 1 : Nat))
      ∧ (∀ i, i + 1 < l.levels.length → h.sc.x.toArray.getD (8 + i) 0 =
          word (sp.flat / (((l.levels.drop 1).take i).map (·.count)).foldl (· * ·) 1
            % (l.levels.getD (i + 1) { dom := 0, scope := 0, gang := false, count := 1 }).count : Nat))
      ∧ (∀ k, k < 64 → k ∉ [2, 3, 4, 5, 6] → (k < 8 ∨ 8 + l.levels.length ≤ k + 1) → h.sc.x.toArray.getD k 0 = 0)
      ∧ h.sc.px = 0 ∧ h.vf = VFile.reset ∧ h.vc = { VCtl.reset with ft := l.ft } ∧ h.trap = Hart.reset.trap
      ∧ SnapshotOf { s with hart := entryHart s l gi sp uid lanes vk } .device h.snap ∧ h.own = [] ∧ h.pend = []

/-- The end of a hart (R58): it makes its last release at the scope of the outermost level, and has ended once that is
performed. That it is a turn of the agenda is the model's reading (log 54). -/
def Claim.HartEnds : Prop :=
  ∀ (s : State) (u : Nat) (l : Launch), u = s.hart.id.uid →
    (s.hart.st.life ≠ .placed → exec (.hartEnd u) s = .next s)
    ∧ (s.hart.st.life = .placed → findLaunch s s.hart.id.launch = some l → s.hart.pend = [] →
        ∃ t, exec (.hartEnd u) s = .next t ∧ t.hart.id = s.hart.id ∧ t.hart.st.asleep = none
          ∧ (t.hart.pend = [] → t.hart.st.life = .ended ∧ (s.hart.id.partner = false →
              ∃ l', findLaunch t s.hart.id.launch = some l' ∧ s.hart.id.flat ∈ l'.ended))
          ∧ (t.hart.pend ≠ [] → t.hart.st.life = .ending ∧ ∃ r, t.hart.pend = [r] ∧ r.after = .hartEnd
              ∧ r.scope = numScope ((l.levels.getLast?.map (·.scope)).getD 0)))

/-- The completion of a launch (R58, R346): when all its harts have ended, its token is good and nothing of it is left. -/
def Claim.LaunchCompletes : Prop :=
  ∀ (s : State) (lid : Nat) (l : Launch), findLaunch s lid = some l →
    let all := ((l.levels.drop 1).map (·.count)).foldl (· * ·) 1
    (l.ended.length ≠ all → exec (.launchComplete lid) s = .next s)
    ∧ (l.ended.length = all → 0 < l.levels.length → (∀ c, findCtx s l.ctx = some c → c.kill = none) →
        ∃ t, exec (.launchComplete lid) s = .next t ∧ findLaunch t lid = none
          ∧ (∀ h ∈ t.others, h.id.launch ≠ lid) ∧ (s.hart.id.launch = lid → t.hart = Hart.reset)
          ∧ (∀ c, findCtx s l.ctx = some c → l.doneTok ≠ 0 → ∃ y, findCtx t l.ctx = some y ∧ tokenStatus y l.doneTok = some true)
          ∧ ∀ m ∈ t.mills, m.launch ≠ lid)

/-- The end of a mode change (R26, R395): memory reads as zero under every key but for the event areas, and CHG is 0. That
memory is cleared at the end of the change is the model's reading (log 29). -/
def Claim.ModeChanged : Prop :=
  ∀ s : State,
    (s.pkg.chg = none → exec .modeChangeDone s = .next s)
    ∧ (s.pkg.chg ≠ none → ∃ t, exec .modeChangeDone s = .next t ∧ t.pkg = { s.pkg with chg := none } ∧ MemOk t
        ∧ (∀ k loc, isTile loc = false → (∀ d pa, evArea s.pkg ≤ pa → physLoc s.pkg d pa ≠ some loc) → homeByte t k loc = 0)
        ∧ t.mem.tlb = [] ∧ t.mem.wcache = [] ∧ t.mem.ilines = [] ∧ (∀ h ∈ allHarts t, h.own = [] ∧ h.snap = []))

/-- Launches from their taking to their completion, and the mode change. -/
def Obligations.LaunchesAndPlacement : Prop :=
  Claim.LaunchTaken ∧ Claim.DependencesFail ∧ Claim.Rounds ∧ Claim.CandidateOrder ∧ Claim.EntryState ∧ Claim.HartEnds
  ∧ Claim.LaunchCompletes ∧ Claim.ModeChanged

/-! ### Saving and restoring harts -/

/-- The hart's image as it was saved: the bytes of its head and registers. -/
def Claim.imageOf (h : Hart) (forced : Bool) : List Byte := imageHead h forced ++ imageRegs h

/-- The 96 cycles of a switch (R52, R54, R351): the registers of a stopped hart leave, and an instance that is staged on its
context is switched in, whole and from one cycle on. -/
def Claim.ShadowSwitches : Prop :=
  ∀ (s : State) (u : Nat),
    (findHart s u = none → exec (.shadowSwitch u) s = .next s)
    ∧ ∀ h, findHart s u = some h →
      (∀ f c, h.st.life = .stopped f c → s.cycle < c + 96 → exec (.shadowSwitch u) s = .next s)
      ∧ ((∀ f c, h.st.life ≠ .stopped f c) → h.st.life ≠ .staged → exec (.shadowSwitch u) s = .next s)
      ∧ (h.st.life = .staged → ∃ t, exec (.shadowSwitch u) s = .next t ∧ SwitchedIn s t h.id.launch h.id.ginst (s.cycle + 96))
      ∧ ∀ f c, h.st.life = .stopped f c → c + 96 ≤ s.cycle →
          let s1 := modHart s u (fun h => { h with st := { h.st with life := .leaving f c } })
          let here := fun (x : Hart) => x.st.life = .staged ∧ sameCtx x h = true
          ((∀ x ∈ allHarts s, ¬ here x) → exec (.shadowSwitch u) s = .next s1)
          ∧ ∀ lid gi, (∃ x ∈ allHarts s, here x) → (∀ x ∈ allHarts s, here x → x.id.launch = lid ∧ x.id.ginst = gi) →
              ∃ t, exec (.shadowSwitch u) s = .next t ∧ SwitchedIn s1 t lid gi 0

/-- The inward transfer of registers (R53, R54): in order, each after VLEN / 8 bytes at 1,024 bytes a cycle, and after the
outgoing hart's register has left its place. -/
def Claim.RegistersArrive : Prop :=
  ∀ (s : State) (reg : Fin 76), (∀ h ∈ s.others, h.id.uid ≠ s.hart.id.uid) →
    let c := max 1 (s.hart.vlen / 8 / 1024); let out := s.hart.st.outCyc
    let due := s.hart.st.life = .placed ∧ s.hart.st.valid.getLsbD reg.val = false ∧ (∀ k, k < reg.val → s.hart.st.valid.getLsbD k = true)
      ∧ s.hart.st.issueFrom + max (out + (reg.val + 1) * c) ((reg.val + 1) * out + c) ≤ s.cycle
    (¬ due → exec (.spillRegDone s.hart.id.uid reg) s = .next s)
    ∧ (due → ∃ v : BitVec 76,
        exec (.spillRegDone s.hart.id.uid reg) s = .next { s with hart := { s.hart with st := { s.hart.st with valid := v } } }
        ∧ ∀ k, v.getLsbD k = (k == reg.val || s.hart.st.valid.getLsbD k))

/-- The end of a save (R53, R84, R349): once the 96 cycles and the transfer of 76 registers have passed, and no command of the
vector port is under way, the image is in device memory and the hart is saved. That the image is written in one action is the
model's reading (log 55). -/
def Claim.ImagesWritten : Prop :=
  ∀ (s : State) (u : Nat) (h : Hart), findHart s u = some h →
    ((∀ f c, h.st.life ≠ .leaving f c) → exec (.imageWriteback u) s = .next s)
    ∧ ∀ f c, h.st.life = .leaving f c →
      let n := imageBytes h.vlen; let pa := imageAddr s h
      (s.cycle < c + 96 + 76 * max 1 (h.vlen / 8 / 1024) → exec (.imageWriteback u) s = .next s)
      ∧ (portBusy s h = true → exec (.imageWriteback u) s = .next s)
      ∧ (c + 96 + 76 * max 1 (h.vlen / 8 / 1024) ≤ s.cycle → portBusy s h = false → h.vf.fw = Vector.replicate 4 0 →
          h.st.hung = false → pa + n ≤ paLimit s.pkg.mode → MemOk s → pa % 64 = 0 →
          (∀ l q sp, findLaunch s h.id.launch = some l → stateSpan s l h.id.ginst = some (q, sp) → q % 64 = 0 ∧ (q + 4096 ≤ pa ∨ pa + n ≤ q)) →
          ∃ t x, exec (.imageWriteback u) s = .next t ∧ findHart t u = some x ∧ x.st.life = .saved ∧ x.id = h.id
            ∧ devBytes t h.id.dev pa n = Claim.imageOf h f
            ∧ (∀ g ∈ imagePois h, devPois t h.id.dev (pa + 64 * g) = true)
            ∧ t.pkg = s.pkg ∧ t.ports = s.ports)

/-- A restore (R85, R86, R54): an image that fails its check refuses the instance with the check's event; a good one puts the
hart at its place, or in its shadow bank while another is on it, with the registers of the image still to come. What becomes of
an instance's state that was written over is the model's choice (log 103). -/
def Claim.Restores : Prop :=
  ∀ (s : State) (u die core hnum : Nat) (h : Hart) (l : Launch) (o t0 : Nat), findHart s u = some h →
    findLaunch s h.id.launch = some l → l.lid = h.id.launch → instAll s l.lid h.id.ginst = [h] → h.st.life = .saved →
    instState l h.id.ginst = some (.saved o t0 false) →
    let ex := exec (.restore u die core hnum) s
    (restoreSpots s l h.id.ginst [] = none → ex = .next s)
    ∧ ∀ sp, restoreSpots s l h.id.ginst [] = some [sp] → sp.flat = h.id.flat → sp.partner = h.id.partner →
      ((sp.die, sp.core, sp.hnum) ≠ (die, core, hnum) → ex = .next s)
      ∧ ((sp.die, sp.core, sp.hnum) = (die, core, hnum) →
          (∀ c, instCause s l h.id.ginst = some c → ∃ t l', ex = .next t ∧ findHart t u = some h ∧ findLaunch t l.lid = some l'
            ∧ instState l' h.id.ginst = some (.saved o t0 true))
          ∧ (instCause s l h.id.ginst = none →
            let b := devBytes s h.id.dev (imageAddr s h) (max 4096 (imageBytes h.vlen))
            loadState s l h.id.ginst = s → ∃ t x, ex = .next t ∧ findHart t u = some x ∧ x.id.die = die ∧ x.id.core = core ∧ x.id.hnum = hnum
              ∧ x.pc = codeBits (BitVec.ofNat 64 (leNat ((b.drop 16).take 8))) ∧ x.st.valid = 0 ∧ x.st.issueFrom = s.cycle + 96
              ∧ x.st.life = (if spotBusy s sp then .staged else .placed) ∧ x.st.priv = false
              ∧ (∀ k (hk : k < 64), x.sc.x[k] = BitVec.ofNat 64 (leNat ((b.drop (256 + 8 * k)).take 8)))
              ∧ x.own = h.own ∧ x.snap = h.snap ∧ x.mbox = h.mbox))

/-- Saves and restores: the shadow switch, the transfer of the registers, the image and the restore. -/
def Obligations.SavesAndRestores : Prop :=
  Claim.ShadowSwitches ∧ Claim.RegistersArrive ∧ Claim.ImagesWritten ∧ Claim.Restores

/-- The layout of an image (R84): the pc, the scalar registers, and the v, m and w registers at VLEN / 8 bytes each. -/
def Claim.ImageLayout : Prop :=
  ∀ (h : Hart) (f : Bool),
    let b := Claim.imageOf h f; let rb := h.vlen / 8
    let at8 := fun k : Nat => BitVec.ofNat 64 (leNat ((b.drop k).take 8))
    b.length = 4096 + 76 * rb ∧ leNat (b.take 4) = 0x474D4951 ∧ at8 16 = h.pc
    ∧ (∀ k (hk : k < 64), at8 (0x100 + 8 * k) = h.sc.x[k]) ∧ (∀ k (hk : k < 8), at8 (0x300 + 8 * k) = h.sc.xb[k])
    ∧ at8 (0x340 + 8 * 9) = h.vc.rseed ∧ at8 (0x340 + 8 * 16) = h.ui.uivec ∧ at8 (0x340 + 8 * 17) = h.ui.uipc
    ∧ (∀ k (hk : k < 64), leNat ((b.drop (4096 + k * rb)).take rb) = h.vf.v[k].toNat % 2 ^ h.vlen)
    ∧ (∀ k (hk : k < 8), leNat ((b.drop (4096 + (64 + k) * rb)).take rb) = h.vf.m[k].toNat % 2 ^ h.vlen)
    ∧ (∀ k (hk : k < 4), leNat ((b.drop (4096 + (72 + k) * rb)).take rb) = h.vf.w[k].toNat % 2 ^ h.vlen)

/-- A saved hart comes back as it was (R84 to R86, R300): the image of a hart that is not hung passes the check of a place that
is wide enough, and loading it gives back, with the reserved bits of a register zero (R11), the pc, the scalar registers, the VLEN bits of the others, the controls, loops and the
Bolter slot. -/
def Claim.RoundTrip : Prop :=
  ∀ (s : State) (h g : Hart) (f : Bool) (vlk : BitVec 2) (lanes : Nat), h.st.hung = false → g.st.uiDue = false →
    h.sc.x[0] = 0 → h.sc.px = 0 → h.sc.pxb = 0 →
    h.bolter.pins.length ≤ 48 → (∀ p ∈ h.bolter.pins, p.1 % 32 = 0 ∧ p.1 < 2 ^ 48) → h.vlen ≤ min (8192 * 2 ^ vlk.toNat) (2048 * lanes) →
    let b := Claim.imageOf h f; let x := loadImage s g b []
    imageCause b true vlk lanes = none
    ∧ x.pc = codeBits h.pc ∧ x.sc = h.sc ∧ x.vf.td = h.vf.td ∧ x.vc = { h.vc with vtype := h.vc.vtype &&& 0x80000000000001FF }
    ∧ (∀ k (hk : k < 64), x.vf.v[k].toNat = h.vf.v[k].toNat % 2 ^ h.vlen) ∧ (∀ k (hk : k < 8), x.vf.m[k].toNat = h.vf.m[k].toNat % 2 ^ h.vlen)
    ∧ (∀ k (hk : k < 4), x.vf.w[k].toNat = h.vf.w[k].toNat % 2 ^ h.vlen)
    ∧ x.loop0 = codeLoop h.loop0 ∧ x.loop1 = codeLoop h.loop1
    ∧ x.ui = { h.ui with uivec := codeBits h.ui.uivec, uipc := codeBits h.ui.uipc } ∧ x.bolter = h.bolter ∧ x.id.vk = h.id.vk
    ∧ x.phs.pcnt = h.phs.pcnt ∧ x.phs.lrs = h.phs.lrs ∧ x.phs.las = h.phs.las ∧ x.own = g.own ∧ x.snap = g.snap

/-- Images: their layout, and a saved hart comes back as it was. -/
def Obligations.ImageRoundTrip : Prop := Claim.ImageLayout ∧ Claim.RoundTrip

/-! ### Fetch, translation and convoys -/

/-- A line whose parity fails is fetched again (R147): a good copy is used and kept, and a second mismatch is the line-parity
trap with the number of the part that fails. What a fetch reads is the model's reading (log 62). -/
def Claim.LinesRefetched : Prop :=
  ∀ (s : State) (u : Nat), u = s.hart.id.uid →
    let line := lineOf s.hart.pc; let ex := exec (.lineRefetch u) s
    (s.hart.st.life ≠ .placed → ex = .next s)
    ∧ (s.hart.st.life = .placed → (∀ c, fetchChk s s.hart line = .fault c → ex = .next (takeTrap s c (lineAddr line)))
      ∧ ∀ a, fetchChk s s.hart line = .ok a →
        (parityBad (fetchLine s s.hart line a) = none → ex = .next s)
        ∧ (parityBad (fetchLine s s.hart line a) ≠ none →
            (∀ j, parityBad (memLine s a) = some j → ex = .next (takeTrap s 0x0007 (word j)))
            ∧ (parityBad (memLine s a) = none → ∃ t, ex = .next t ∧ t.hart = s.hart ∧ t.others = s.others
                ∧ cachedLine t s.hart line = some (memLine s a)
                ∧ ∀ l, l ≠ line → cachedLine t s.hart l = cachedLine s s.hart l)))

/-- A fault on the path of a line that the hart never entered (R148, R488): the copy is dropped, the line is fetched again, and
the hart does not see it. -/
def Claim.PathsRefetched : Prop :=
  ∀ (s : State) (u : Nat) (line : Word) (why : FetchPathFault), u = s.hart.id.uid →
    ∃ t, exec (.fetchPathRefetch u line why) s = .next t ∧ t.hart = s.hart ∧ t.others = s.others
      ∧ (∀ a, fetchChk s s.hart line = .ok a → parityBad (memLine s a) = none → cachedLine t s.hart line = some (memLine s a))
      ∧ ((∀ a, fetchChk s s.hart line = .ok a → parityBad (memLine s a) ≠ none) → cachedLine t s.hart line = none)

/-- A walk (R115, R116, R118): from the lowest table that the die's walk cache names, or from the root, it ends at a leaf, which
the core then holds in place of those it overlaps, 2,048 at most; the tables it went through stay in the die's walk cache; and
one that faults keeps nothing. -/
def Claim.Walks : Prop :=
  ∀ (s : State) (die core ctx : Nat) (va : Word) (cold : Bool) (c : Ctx), findCtx s ctx = some c → c.num = ctx →
    let ex := exec (.pageWalk ⟨die, cold⟩ core ctx va) s
    let w := if cold then walk s c va.toNat else walkFrom s c die va.toNat
    let top := match (if cold then none else cachedTab s.mem die ctx va.toNat) with | some e => (e.lvl, e.tab) | none => (3, c.ptroot)
    ((wide va = true ∨ devOfDie s.pkg die ≠ c.dev ∨ ∃ f, w = .fault f) → ex = .next s)
    ∧ ∀ lva size pa wr x dev ksel, wide va = false → devOfDie s.pkg die = c.dev → w = .leaf lva size pa wr x dev ksel →
      let ent : TlbEnt := { die := die, core := core, ctx := ctx, va := lva, size := size, pa := pa, w := wr, x := x, dev := dev, ksel := ksel }
      let meets := fun (t : TlbEnt) => t.die = die ∧ t.core = core ∧ t.ctx = ctx ∧ t.va < lva + size ∧ lva < t.va + t.size
      ∃ l m, ex = .next { s with mem := { s.mem with tlb := l, wcache := m } } ∧ ent ∈ l
        ∧ (∀ t ∈ l, meets t → t = ent)
        ∧ (l.filter (fun t => t.die == die && t.core == core)).length ≤ 2048
        ∧ (∀ t ∈ l, t = ent ∨ t ∈ s.mem.tlb)
        ∧ (∀ t ∈ s.mem.tlb, (t.die, t.core) ≠ (die, core) → t ∈ l)
        ∧ ((s.mem.tlb.filter (fun t => t.die == die && t.core == core)).length < 2048 → ∀ t ∈ s.mem.tlb, ¬ meets t → t ∈ l)
        ∧ (∀ k ∈ tablesOn s c.dev va.toNat top.1 top.2, ∃ e ∈ m, e.die = die ∧ e.ctx = ctx ∧ e.lvl = k.1 ∧ e.tab = k.2
            ∧ e.va = va.toNat / tabSpan k.1 * tabSpan k.1)
        ∧ (∀ e ∈ m, e ∈ s.mem.wcache ∨ (e.die = die ∧ e.ctx = ctx ∧ (e.lvl, e.tab) ∈ tablesOn s c.dev va.toNat top.1 top.2))
        ∧ (∀ e ∈ s.mem.wcache, (e.die, e.ctx) ≠ (die, ctx) → e ∈ m)

/-- The release of a tile (R127): once it is FREEING and no accepted command holds it, its handle is free and its bytes read
as zero. -/
def Claim.TilesReleased : Prop :=
  ∀ (s : State) (ctx h : Nat) (x : Tile), findTile s ctx h = some x →
    (x.st ≠ .freeing ∨ tileHeld s ctx h = true → exec (.tileRelease ctx h) s = .next s)
    ∧ (x.st = .freeing → tileHeld s ctx h = false → h < 4096 → MemOk s →
        ∃ t, exec (.tileRelease ctx h) s = .next t ∧ findTile t ctx h = none ∧ MemOk t
          ∧ (∀ k off, off < 2 ^ 40 → homeByte t k (tileLoc ctx h off) = 0)
          ∧ (∀ k loc, isTile loc = false → homeByte t k loc = homeByte s k loc)
          ∧ ∀ h', h' ≠ h → findTile t ctx h' = findTile s ctx h')

/-- A gathered convoy of one instruction (R158, R159): its start and its completion together are the instruction alone, and when
its checks fail its start is. The two steps of a convoy are the model's choice (log 9). -/
def Claim.ConvoyOfOne : Prop :=
  ∀ (s s0 : State) (i : Instr) (m : Member) (u : Nat), u = s.hart.id.uid → memberOf i = some m →
    s.hart.gathered = [(s.hart.pc, i)] → s.hart.convoy = none → s0 = { s with hart := { s.hart with gathered := [] } } →
    (convoyChecks [m] s0 ≠ none → exec (.convoyStart u) s = exec i s0)
    ∧ (convoyChecks [m] s0 = none →
        ∀ s1, runConvoy [m] s0 = .complete s1 → s1.hart.id = s.hart.id → s1.hart.pc = s.hart.pc → s1.hart.convoy = none →
          EndInRange s1.hart → s1.hart.st.ahead = s1.hart.st.line →
          ∃ t, exec (.convoyStart u) s = .next t ∧ t.hart.convoy ≠ none ∧ t.hart.vf = s1.hart.vf ∧ t.hart.sc = s1.hart.sc
            ∧ exec (.convoyComplete u) t = exec i s0)

/-- A gathered convoy of one mask instruction completes: its start and its completion write the mask that the instruction
alone writes (R159, R222). -/
def Claim.ConvoyRuns : Prop :=
  ∀ (s s0 : State) (i : Instr) (u : Nat) (d a b : MReg) (f : Bool → Bool → Bool), u = s.hart.id.uid →
    maskRule i = some (d, a, b, f) → s.hart.gathered = [(s.hart.pc, i)] → s.hart.convoy = none → EndInRange s.hart →
    s.hart.st.ahead = s.hart.st.line → s0 = { s with hart := { s.hart with gathered := [] } } →
    ∃ t t1, exec (.convoyStart u) s = .next t ∧ exec (.convoyComplete u) t = .next t1 ∧ exec i s0 = .next t1
      ∧ t1.hart.convoy = none ∧ t1.hart.st.retired = s.hart.st.retired + 1
      ∧ ∀ j, j < vlOf s.hart → startsAt s.hart ≤ j → mbit t1.hart d j = f (mbit s.hart a j) (mbit s.hart b j)

/-- A convoy starts only when one is gathered and none runs; it completes only when one runs, after its last slot and with
VES 0 (R159). -/
def Claim.ConvoyEnds : Prop :=
  ∀ (s : State) (u : Nat), u = s.hart.id.uid →
    (s.hart.gathered = [] ∨ s.hart.convoy ≠ none → exec (.convoyStart u) s = .next s)
    ∧ (s.hart.convoy = none → exec (.convoyComplete u) s = .next s)
    ∧ ∀ r, s.hart.convoy = some r → EndInRange { s.hart with pc := r.lastPc } →
        ∃ t, exec (.convoyComplete u) s = .next t ∧ t.hart.convoy = none ∧ t.hart.vc.ves = 0 ∧ t.hart.vf = s.hart.vf
          ∧ t.hart.sc = s.hart.sc ∧ t.mem = s.mem ∧ t.hart.trap = s.hart.trap
          ∧ (¬ EndsAt s.hart.loop0 r.lastPc → ¬ EndsAt s.hart.loop1 r.lastPc → t.hart.pc = nextSlot r.lastPc)

/-- Lines fetched again, walks, tiles that are released, and convoys. -/
def Obligations.FetchAndConvoys : Prop :=
  Claim.LinesRefetched ∧ Claim.PathsRefetched ∧ Claim.Walks ∧ Claim.TilesReleased ∧ Claim.ConvoyOfOne ∧ Claim.ConvoyRuns
  ∧ Claim.ConvoyEnds

/-! ### Events, resets and quiesce -/

/-- No granule of a device's event area is poisoned, and one that nothing has written holds no bytes. -/
def Claim.AreaClean (s : State) (dev : Nat) : Prop :=
  ∀ off loc, off < 2 ^ 24 → physLoc s.pkg dev (evArea s.pkg + off) = some loc →
    homePois s.mem loc 1 = false ∧ (keyOfGran s.mem (granule loc) = none → cellGet s.mem.cells loc = 0)

/-- What every event leaves (R391 to R399): no hart, no context and no launch changes, and no byte of device memory below the
event area; nothing follows a FATAL event; and the counter of its source and severity counts it, up to 0xFFFFFFFF. -/
def Claim.EventFrame : Prop :=
  ∀ (s : State) (src : BitVec 16) (cause sev : Nat) (ctx hart : Option Nat) (addr : Option (Nat × Nat)) (data : List Byte) (d : Bool),
    let t := event s src cause sev ctx hart addr data d
    let e := mkEv s src cause sev ctx hart addr data d
    let count := fun u : State => areaGet u e.dev (0x100000 + 32 * src.toNat + 4 * sev) 4
    (s.pkg.fatalAt ≠ none → t = s)
    ∧ (s.pkg.fatalAt = none → MemOk s → sev < 4 →
        MemOk t ∧ t.hart = s.hart ∧ t.others = s.others ∧ t.ctxs = s.ctxs ∧ t.launches = s.launches ∧ t.cycle = s.cycle
        ∧ (∀ dev pa, pa < evArea s.pkg → devRead t dev pa 1 = devRead s dev pa 1)
        ∧ (sev < 3 → t.pkg.fatalAt = none) ∧ (sev = 3 → t.pkg.fatalAt = some s.cycle)
        ∧ (Claim.AreaClean s e.dev → count t = min 0xFFFFFFFF (count s + 1))
        ∧ ∀ src', src' ≠ src → findSrc t src' = findSrc s src')

/-- CORRECTED and DEFERRED events (R392, R393): the first opens the record of its source, an equal one within 1 ms of its TIME
counts in it, and another closes it and opens a new one. -/
def Claim.OpenRecords : Prop :=
  ∀ (s : State) (src : BitVec 16) (cause : Nat) (ctx hart : Option Nat) (addr : Option (Nat × Nat)) (data : List Byte) (d : Bool),
    s.pkg.fatalAt = none →
    let y := findSrc (event s src cause 0 ctx hart addr data d) src; let x := findSrc s src
    let e := mkEv s src cause 0 ctx hart addr data d
    (x.open_ = none → y = { x with seq := x.seq + 1, open_ := some (e, x.seq) })
    ∧ ∀ o n, x.open_ = some (o, n) →
      let equal := e = { o with time := e.time, count := 1, dev := e.dev } ∧ e.time < o.time + 1000000
      (equal → o.count + 1 < 0xFFFFFFFF → y = { x with open_ := some ({ o with count := o.count + 1 }, n) })
      ∧ (¬ equal → y = { x with seq := x.seq + 1, open_ := some (e, x.seq) })

/-- A record goes to its device's ring at HEAD, with SEQ, TIME, SRC and CAUSE first (R391, R395, R396): at once for a severity
above DEFERRED, and else when it is closed, 1 ms after its TIME (R393). -/
def Claim.RingTakes (s t : State) (e : EvRec) (seq : Nat) : Prop :=
  let head := areaGet s e.dev 0x10 8; let tail := areaGet s e.dev 0x18 8
  (head + 2 ^ 64 - tail) % 2 ^ 64 ≠ 2 ^ 17 →
    areaGet t e.dev 0x10 8 = (head + 1) % 2 ^ 64
    ∧ ∃ b, devRead t e.dev (evArea s.pkg + 0x800000 + 64 * (head % 2 ^ 17)) 64 = some b
      ∧ b.take 8 = natLe 8 seq ∧ (b.drop 8).take 8 = natLe 8 e.time ∧ (b.drop 16).take 2 = natLe 2 e.src.toNat
      ∧ (b.drop 18).take 2 = natLe 2 e.cause.toNat ∧ (b.drop 28).take 4 = natLe 4 e.count

/-- The record of an event above DEFERRED joins the ring at once, and an open record when it is closed. -/
def Claim.RecordsAppended : Prop :=
  (∀ (s : State) (src : BitVec 16) (cause sev : Nat) (ctx hart : Option Nat) (addr : Option (Nat × Nat)) (data : List Byte) (d : Bool),
    s.pkg.fatalAt = none → MemOk s → 0 < sev → sev < 4 → (findSrc s src).open_ = none →
    let e := mkEv s src cause sev ctx hart addr data d
    Claim.AreaClean s e.dev → Claim.RingTakes s (event s src cause sev ctx hart addr data d) e (findSrc s src).seq)
  ∧ ∀ (s : State) (src : BitVec 16),
    let ex := exec (.eventRecordClose src) s
    let now := timeOn s (if src.toNat / 4096 ≤ 3 ∨ src.toNat / 4096 = 7 ∨ src.toNat / 4096 = 9 then src.toNat / 64 % 64 else 0)
    ((findSrc s src).open_ = none → ex = .next s)
    ∧ ∀ e n, (findSrc s src).open_ = some (e, n) →
      (now < e.time + 1000000 → ex = .next s)
      ∧ (e.time + 1000000 ≤ now → ∃ t, ex = .next t ∧ findSrc t src = { findSrc s src with open_ := none } ∧ t.hart = s.hart
          ∧ (s.pkg.fatalAt = none → MemOk s → Claim.AreaClean s e.dev → Claim.RingTakes s t e n))

/-- The package reset (R26, R142, R398): no hart, context, launch or key slot is left, memory reads as zero but for the event
areas, the mode is that of its setting, and settings, fuses and the FATAL records stay. A FATAL event leads to it. What a
reset keeps is the model's reading (log 64). -/
def Claim.PackageResets : Prop :=
  ∀ s : State,
    (∃ t, exec .packageReset s = .next t ∧ t.hart = Hart.reset ∧ t.others = [] ∧ t.ctxs = [] ∧ t.launches = [] ∧ t.mem.keys = []
      ∧ t.ports = [] ∧ t.paths = [] ∧ t.cores = [] ∧ t.sources = [] ∧ MemOk t ∧ t.cycle = 0
      ∧ t.pkg.mode = (match s.pkg.setMode with | some 1 => .half | some 2 => .die | _ => .one) ∧ t.pkg.fatalAt = none
      ∧ t.pkg.fatal = s.pkg.fatal ∧ t.pkg.hdie = s.pkg.hdie ∧ t.pkg.wdp = s.pkg.wdp ∧ t.pkg.setMode = s.pkg.setMode
      ∧ t.mem.keyGen ≠ s.mem.keyGen
      ∧ (∀ k loc, isTile loc = false → (∀ d pa, evArea t.pkg ≤ pa → physLoc t.pkg d pa ≠ some loc) → homeByte t k loc = 0)
      ∧ ∀ d ∈ devicesOf t.pkg, areaGet t d 0 8 = evArea t.pkg + 0x800000 ∧ areaGet t d 8 4 = 17 ∧ areaGet t d 0x10 8 = 0
          ∧ areaGet t d 0x18 8 = 0)
    ∧ (s.pkg.fatalAt = none → exec .fatalReset s = .next s)
    ∧ (s.pkg.fatalAt ≠ none → exec .fatalReset s = exec .packageReset s)

/-- A context that is gone: its number names none, and no launch, hart, command or copy of it is left (R450). -/
def Claim.ContextGone (t : State) (c : Nat) : Prop :=
  findCtx t c = none ∧ (∀ l ∈ t.launches, l.ctx ≠ c) ∧ (∀ h ∈ t.others, h.id.ctx ≠ c) ∧ (t.hart.id.ctx = c → t.hart = Hart.reset)
  ∧ (∀ p ∈ t.ports, p.ctx ≠ c) ∧ ∀ p ∈ t.copies, p.ctx ≠ c

/-- Quiesce (R450, R451): a context that is being killed is gone once no hart of it holds lanes and no request of it waits;
20 ms after the start of the kill the cores that still hold its harts are fenced, and it is gone all the same. -/
def Claim.Quiesces : Prop :=
  ∀ (s : State) (c : Nat),
    let ready := (∀ h ∈ allHarts s, h.id.ctx = c → h.onCore = false) ∧ ∀ p ∈ s.paths, p.failed = false → ∀ o ∈ p.out, o.ctx ≠ c
    ((∀ x, findCtx s c = some x → x.kill = none) → exec (.quiesceDone c) s = .next s ∧ exec (.quiesceOverrun c) s = .next s)
    ∧ ∀ x k, findCtx s c = some x → x.kill = some k →
      (¬ ready → exec (.quiesceDone c) s = .next s)
      ∧ (ready → ∃ t, exec (.quiesceDone c) s = .next t ∧ Claim.ContextGone t c)
      ∧ (s.cycle < k + 24000000 ∨ ready → exec (.quiesceOverrun c) s = .next s)
      ∧ (k + 24000000 ≤ s.cycle → ¬ ready → ∃ t, exec (.quiesceOverrun c) s = .next t ∧ Claim.ContextGone t c
          ∧ ∀ h ∈ allHarts s, h.id.ctx = c → h.onCore = true → h.id.die < 64 → h.id.core < 64 →
              (findCore t h.id.die h.id.core).fenced = true)

/-- Events and their records, the resets, and quiesce. -/
def Obligations.ErrorRecords : Prop :=
  Claim.EventFrame ∧ Claim.OpenRecords ∧ Claim.RecordsAppended ∧ Claim.PackageResets ∧ Claim.Quiesces

/-! ### Redundant pairs, structural tests and array rows -/

/-- A context is being killed since this cycle. -/
def Claim.KilledNow (s t : State) (c : Nat) : Prop :=
  ∀ x, findCtx s c = some x → ∃ y, findCtx t c = some y ∧ y.kill = some (x.kill.getD s.cycle)

/-- The comparison of two signatures (R459, R460): equal ones let the oldest waiting release of both harts be performed; others
kill the context. How a pair is matched is the model's choice (log 15). -/
def Claim.SignaturesCompared : Prop :=
  ∀ (s : State) (p : Pair) (a b : Hart), s.pairs.find? (fun q => q.uid == p.uid) = some p → findHart s p.uid = some a →
    findHart s p.partner = some b → p.partner ≠ p.uid →
    let ex := exec (.signatureCompare p.uid) s
    ((waitingRel a = none ∨ waitingRel b = none) → ex = .next s)
    ∧ ∀ ra rb, waitingRel a = some ra → waitingRel b = some rb →
      (ra.sig = rb.sig → ∃ t x y, ex = .next t ∧ findHart t p.uid = some x ∧ findHart t p.partner = some y
        ∧ x = { a with pend := x.pend } ∧ y = { b with pend := y.pend } ∧ t.mem = s.mem
        ∧ (∃ l r, a.pend = l ++ ra :: r ∧ (∀ q ∈ l, q.agreed = true) ∧ x.pend = l ++ { ra with agreed := true } :: r)
        ∧ (∃ l r, b.pend = l ++ rb :: r ∧ (∀ q ∈ l, q.agreed = true) ∧ y.pend = l ++ { rb with agreed := true } :: r))
      ∧ (ra.sig ≠ rb.sig → ∃ t, ex = .next t ∧ Claim.KilledNow s t a.id.ctx
        ∧ (findCore t a.id.die a.id.core).testFirst = [1, 2, 3, 4] ∧ (findCore t b.id.die b.id.core).testFirst = [1, 2, 3, 4])

/-- A hart that has waited more than 10 ms for its twin kills the context (R462). -/
def Claim.TwinsTimeOut : Prop :=
  ∀ (s : State) (p : Pair) (a b : Hart), s.pairs.find? (fun q => q.uid == p.uid) = some p → findHart s p.uid = some a →
    findHart s p.partner = some b →
    let alone := fun x y : Option PendRel => y = none ∧ ∃ r, x = some r ∧ r.since + 12000000 < s.cycle
    let late := alone (waitingRel a) (waitingRel b) ∨ alone (waitingRel b) (waitingRel a)
      ∨ ∃ u k c, p.req = some (u, k, c) ∧ c + 12000000 < s.cycle
    (¬ late → exec (.divergenceTimeout p.uid) s = .next s)
    ∧ (late → ∃ t, exec (.divergenceTimeout p.uid) s = .next t ∧ Claim.KilledNow s t a.id.ctx)

/-- A structural test may start on the core now (R463). -/
def Claim.MayTest (s : State) (die core kind : Nat) : Prop :=
  let c := findCore s die core
  die < 64 ∧ die ≠ s.pkg.hdie ∧ core < 32 ∧ c.fenced = false ∧ c.test = none ∧ (c.testFirst = [] ∨ kind ∈ c.testFirst)

/-- No hart holds or waits for the core, and none has for 4,096 cycles. -/
def Claim.Idle (s : State) (die core : Nat) : Prop :=
  (∀ h ∈ allHarts s, h.id.die = die → h.id.core = core → h.takes = false) ∧ (findCore s die core).idleSince + 4096 ≤ s.cycle

/-- The start of a structural test (R463): kinds 1 to 3 need an idle core, kind 1 its 64 rows too, which it asks for, and kind 4
an idle bank. What an idle bank is, is the model's reading (log 65). -/
def Claim.TestsStart : Prop :=
  ∀ (s : State) (die core kind bank : Nat),
    let c := findCore s die core; let ex := exec (.structTestStart die core kind bank) s
    let started := ∃ t, ex = .next t ∧ (findCore t die core).test = some { kind := kind, bank := bank, since := s.cycle }
      ∧ t.hart = s.hart ∧ t.mem = s.mem
    (¬ Claim.MayTest s die core kind → ex = .next s)
    ∧ (Claim.MayTest s die core kind →
        (kind = 0 ∨ 4 < kind → ex = .next s)
        ∧ (kind = 2 ∨ kind = 3 → (Claim.Idle s die core → started) ∧ (¬ Claim.Idle s die core → ex = .next s))
        ∧ (kind = 4 → (bankIdle s c bank = true → started) ∧ (bankIdle s c bank = false → ex = .next s))
        ∧ (kind = 1 → (¬ Claim.Idle s die core → ex = .next s) ∧ (Claim.Idle s die core →
            (c.gr = 64 → started)
            ∧ (c.gr ≠ 64 → ∃ t, ex = .next t ∧ (findCore t die core).test = none
                ∧ (findCore t die core).req = some (c.req.getD s.cycle)))))

/-- The end of a structural test (R463, R465, R466): after its cycles, a pass is dated and counted, and a failure fences the
core or retires the bank. -/
def Claim.TestsEnd : Prop :=
  ∀ (s : State) (die core : Nat) (res : TestResult),
    let ex := exec (.structTestDone die core res) s; let dev := devOfDie s.pkg die; let base := 0x1000 + 64 * (32 * die + core)
    ((findCore s die core).test = none → ex = .next s)
    ∧ ∀ r, (findCore s die core).test = some r →
      let cycles := if r.kind = 1 then 200000 else if r.kind = 2 then 150000 else if r.kind = 3 then 40000 else 20000
      (s.cycle < r.since + cycles → ex = .next s)
      ∧ (r.since + cycles ≤ s.cycle → 1 ≤ r.kind → r.kind ≤ 4 → die < 64 → core < 32 → MemOk s → Claim.AreaClean s dev →
          ∃ t, ex = .next t ∧ (findCore t die core).test = none
            ∧ (res = .pass → areaGet t dev (base + 8 * (r.kind - 1)) 8 = timeOn s die % 2 ^ 64
                ∧ areaGet t dev (base + 0x20) 4 = (areaGet s dev (base + 0x20) 4 + 1) % 2 ^ 32
                ∧ (findCore t die core).fenced = (findCore s die core).fenced
                ∧ ∀ o ∈ (findCore t die core).overdue, o.1 ≠ r.kind)
            ∧ (∀ lf uf, res = .fail lf uf → (r.kind ≤ 3 → (findCore t die core).fenced = true)
                ∧ (r.kind = 4 → r.bank < 64 → (findCore t die core).retired.getLsbD r.bank = true)))

/-- A kind whose last pass is more than a day old is recorded, once a day (R467). -/
def Claim.TestsOverdue : Prop :=
  ∀ (s : State) (die core kind : Nat),
    let ex := exec (.structTestOverdue die core kind) s; let c := findCore s die core; let now := timeOn s die
    let told := ∃ o, c.overdue.find? (fun o => o.1 == kind) = some o ∧ now < o.2 + 86400000000000
    (now ≤ lastPass s die core kind + 86400000000000 ∨ told → ex = .next s)
    ∧ (lastPass s die core kind + 86400000000000 < now → ¬ told → die < 64 → die ≠ s.pkg.hdie → core < 32 → 1 ≤ kind → kind ≤ 4 →
        ∃ t, ex = .next t ∧ (kind, now) ∈ (findCore t die core).overdue ∧ t.hart = s.hart ∧ t.launches = s.launches)

/-- A boundary of a Weir (R359, R360): every fourth cycle at most two cores (one under the reduced slew) that asked before it take
eight rows more, and at most two that released before it eight less, within the cluster's limit. -/
def Claim.WeirBoundary : Prop :=
  ∀ (s : State) (die clus : Nat),
    let old := fun i => settleGr s.cycle (findCore s die (clus * 8 + i))
    let held := ((List.range 8).map (fun i => grAfter (old i))).sum
    let w := findWeir s die clus
    let limit := max held (if s.pkg.halvedAt = none then w.budget else w.budget / 16 * 8)
    ∃ t, exec (.weirStep die clus) s = .next t ∧ t.hart = s.hart ∧ t.mem = s.mem ∧
      let new := fun i => findCore t die (clus * 8 + i)
      let ups := (List.range 8).filter (fun i => decide (grAfter (old i) < grAfter (new i)))
      let downs := (List.range 8).filter (fun i => decide (grAfter (new i) < grAfter (old i)))
      (s.cycle % 4 ≠ 0 → ∀ i, i < 8 → new i = old i)
      ∧ ((List.range 8).map (fun i => grAfter (new i))).sum ≤ limit
      ∧ ups.length ≤ (if w.slow = none then 2 else 1) ∧ downs.length ≤ 2
      ∧ (∀ i ∈ ups, grAfter (new i) = grAfter (old i) + 8 ∧ grAfter (old i) < 64 ∧ (old i).fenced = false
          ∧ ∃ r, (old i).req = some r ∧ r < s.cycle)
      ∧ (∀ i ∈ downs, grAfter (new i) = grAfter (old i) - 8 ∧ ∃ r, (old i).rel = some r ∧ r < s.cycle)
      ∧ ∀ i, i < 8 → (new i).gr = (old i).gr

/-- An array that has been idle for 64 cycles releases its rows, unless rows are asked for or their release is under way (R360). -/
def Claim.ArraysIdle : Prop :=
  ∀ (s : State) (die core : Nat),
    let c := settleGr s.cycle (findCore s die core)
    let due := c.lastPe + 64 ≤ s.cycle ∧ 0 < grAfter c ∧ c.req = none ∧ c.rel = none
    (¬ due → exec (.coreArrayIdle die core) s = .next s)
    ∧ (due → ∃ t, exec (.coreArrayIdle die core) s = .next t ∧ findCore t die core = { c with rel := some s.cycle } ∧ t.hart = s.hart)

/-- Redundant pairs, structural tests and the granting of array rows. -/
def Obligations.IntegrityAndTests : Prop :=
  Claim.SignaturesCompared ∧ Claim.TwinsTimeOut ∧ Claim.TestsStart ∧ Claim.TestsEnd ∧ Claim.TestsOverdue ∧ Claim.WeirBoundary
  ∧ Claim.ArraysIdle

/-! ### Power, clocks and watchdogs -/

/-- Budgets (R359, R477): set every 1,200 cycles, between what a cluster holds and 512 rows, and 512 for all at full use; halved
for 10 ms after a draw over the limit. Budgets below full use are free, and a repeated halving restarts, by the model's
reading (log 58). -/
def Claim.Budgets : Prop :=
  ∀ s : State,
    (s.cycle % 1200 ≠ 0 → exec .budgetRecompute s = .next s)
    ∧ (s.cycle % 1200 = 0 → ∃ t, exec .budgetRecompute s = .next t ∧ t.hart = s.hart ∧ t.cores = s.cores
        ∧ ∀ die clus, die < 64 → die ≠ s.pkg.hdie → clus < 4 →
            let held := rowsHeld (clusterCores s die clus)
            (held ≤ 512 → held ≤ (findWeir t die clus).budget ∧ (findWeir t die clus).budget ≤ 512)
            ∧ (fullUse s = true → (findWeir t die clus).budget = 512)
            ∧ (findWeir t die clus).slow = (findWeir s die clus).slow)
    ∧ (∃ t, exec .drawOverBudget s = .next t ∧ t.pkg.halvedAt = some (nsNow s) ∧ t.hart = s.hart ∧ t.cores = s.cores ∧ t.weirs = s.weirs)
    ∧ (s.pkg.halvedAt = none → exec .budgetHalvingEnd s = .next s)
    ∧ ∀ n, s.pkg.halvedAt = some n →
        (nsNow s < n + 10000000 → exec .budgetHalvingEnd s = .next s)
        ∧ (n + 10000000 ≤ nsNow s → exec .budgetHalvingEnd s = .next { s with pkg := { s.pkg with halvedAt := none } })

/-- Current changes of more than 16 rows (R478): the first limits the cluster to 8 rows a step for a second, and one within that
second fences its Weir and its eight cores. Undervoltage is FATAL (R479). The two records of a second violation are the
model's reading (log 58). -/
def Claim.SlewAndSupply : Prop :=
  ∀ (s : State) (die clus : Nat),
    let w := findWeir s die clus
    (w.slow = none → ∃ t, exec (.slewViolation die clus) s = .next t ∧ findWeir t die clus = { w with slow := some (nsNow s) }
      ∧ t.hart = s.hart ∧ t.cores = s.cores)
    ∧ (∀ n, w.slow = some n → n + 1000000000 ≤ nsNow s → ∃ t, exec (.slewViolation die clus) s = .next t
        ∧ findWeir t die clus = { w with slow := some (nsNow s) } ∧ t.hart = s.hart ∧ t.cores = s.cores)
    ∧ (∀ n, w.slow = some n → nsNow s < n + 1000000000 → ∃ t, exec (.slewViolation die clus) s = .next t
        ∧ (findWeir t die clus).fenced = true ∧ ∀ i, i < 8 → (findCore t die (clus * 8 + i)).fenced = true)
    ∧ (w.slow = none → exec (.slewLimitEnd die clus) s = .next s)
    ∧ (∀ n, w.slow = some n → nsNow s < n + 1000000000 → exec (.slewLimitEnd die clus) s = .next s)
    ∧ (∀ n, w.slow = some n → n + 1000000000 ≤ nsNow s → ∃ t, exec (.slewLimitEnd die clus) s = .next t
        ∧ findWeir t die clus = { w with slow := none } ∧ t.hart = s.hart ∧ t.cores = s.cores)
    ∧ (s.pkg.fatalAt = none → ∃ t, exec .undervoltage s = .next t ∧ t.pkg.fatalAt = some s.cycle ∧ t.hart = s.hart)
    ∧ (s.pkg.fatalAt ≠ none → exec .undervoltage s = .next s)

/-- Requests of a clock change (R475): by one step of 200 MHz between 1,200 and 800 MHz, one at a time. -/
def Claim.ClocksAsked : Prop :=
  ∀ (s : State) (die : Nat),
    let c := findClock s die; let free := die < 64 ∧ die ≠ s.pkg.hdie ∧ c.want = none ∧ c.pause = none
    (free → c.step < 2 → ∃ t, exec (.clockLower die) s = .next t ∧ findClock t die = { c with want := some (true, unstableHop s die) }
      ∧ t.hart = s.hart)
    ∧ (¬ free ∨ 2 ≤ c.step → exec (.clockLower die) s = .next s)
    ∧ (free → 0 < c.step → ∃ t, exec (.clockRaise die) s = .next t ∧ findClock t die = { c with want := some (false, unstableHop s die) }
        ∧ t.hart = s.hart)
    ∧ (¬ free ∨ c.step = 0 → exec (.clockRaise die) s = .next s)

/-- The pause of a clock change (R475, R476): it begins when every hop of the die is stable, and ends after 2,000 ns. When a
change is recorded is the model's reading (log 59). -/
def Claim.ClockPauses : Prop :=
  ∀ (s : State) (die : Nat),
    let c := findClock s die
    (c.want = none ∨ c.pause ≠ none → exec (.clockPauseStart die) s = .next s)
    ∧ (∀ low hop, c.want = some (low, hop) → c.pause = none →
        (unstableHop s die = none → ∃ t, exec (.clockPauseStart die) s = .next t ∧ t.hart = s.hart
          ∧ findClock t die = { c with step := if low then c.step + 1 else c.step - 1, pause := some (nsNow s + 2000) })
        ∧ (unstableHop s die ≠ none → ∃ t h, exec (.clockPauseStart die) s = .next t ∧ t.hart = s.hart
          ∧ findClock t die = { c with want := some (low, some h) }))
    ∧ (c.pause = none → exec (.clockPauseEnd die) s = .next s)
    ∧ ∀ n, c.pause = some n →
        (nsNow s < n → clockPaused s die = true ∧ exec (.clockPauseEnd die) s = .next s)
        ∧ (n ≤ nsNow s → clockPaused s die = false ∧ ∃ t, exec (.clockPauseEnd die) s = .next t ∧ t.hart = s.hart
            ∧ findClock t die = { c with want := none, pause := none })

/-- The watchdog (R480, R481): a placed hart that has retired nothing for WDP, and is not asleep until a later time, is to stop
with its instance; one that has not stopped after WDP more has its context killed, or is hung when its save is under way. -/
def Claim.Watchdogs : Prop :=
  ∀ (s : State) (u : Nat) (h : Hart), findHart s u = some h →
    let asleep := ∃ xd d since, h.st.asleep = some (.sleep xd d since) ∧ timeOn s h.id.die < d
    let ex1 := exec (.watchdogStage1 u) s; let ex2 := exec (.watchdogStage2 u) s
    (h.st.life ≠ .placed ∨ h.st.wdStage ≠ 0 ∨ asleep ∨ nsNow s < h.st.lastRetire + s.pkg.wdp → ex1 = .next s)
    ∧ (h.st.life = .placed → h.st.wdStage = 0 → ¬ asleep → h.st.lastRetire + s.pkg.wdp ≤ nsNow s →
        ∃ t x, ex1 = .next t ∧ findHart t u = some x ∧ x.st.wdStage = 1 ∧ x.st.wdSince = nsNow s ∧ x.sc = h.sc ∧ x.vf = h.vf ∧ x.pc = h.pc
          ∧ (h.st.img ≠ none → x.st.stopDue = some true ∧ x.st.yreq = true))
    ∧ (h.st.wdStage ≠ 1 ∨ nsNow s < h.st.wdSince + s.pkg.wdp → ex2 = .next s)
    ∧ (h.st.wdStage = 1 → h.st.wdSince + s.pkg.wdp ≤ nsNow s →
        (h.st.life = .placed ∨ h.st.life = .yielded → ∃ t, ex2 = .next t ∧ Claim.KilledNow s t h.id.ctx)
        ∧ (∀ f c, h.st.life = .stopped f c ∨ h.st.life = .leaving f c →
            ∃ t, ex2 = .next t ∧ findHart t u = some { h with st := { h.st with wdStage := 2, hung := true } } ∧ t.mem = s.mem))

/-- A save that has not completed 2 WDP after it began (R483): the contexts on its core are killed, and the core runs its tests
before anything is placed there. What is left of the image is the model's reading (log 66). -/
def Claim.SavesTimeOut : Prop :=
  ∀ (s : State) (u : Nat) (h : Hart), findHart s u = some h →
    ((∀ f c, h.st.life ≠ .stopped f c ∧ h.st.life ≠ .leaving f c) → exec (.saveTimeout u) s = .next s)
    ∧ ∀ f c, h.st.life = .stopped f c ∨ h.st.life = .leaving f c →
      ((s.cycle - c) * 5 / 6 < 2 * s.pkg.wdp → exec (.saveTimeout u) s = .next s)
      ∧ (2 * s.pkg.wdp ≤ (s.cycle - c) * 5 / 6 → ∃ t, exec (.saveTimeout u) s = .next t
          ∧ (findCore t h.id.die h.id.core).testFirst = [1, 2, 3] ∧ (findCore t h.id.die h.id.core).blocked = true
          ∧ ∀ x ∈ allHarts s, x.id.die = h.id.die → x.id.core = h.id.core → x.takes = true → Claim.KilledNow s t x.id.ctx)

/-- Budgets, slew, supply, die clocks and watchdogs. -/
def Obligations.PowerAndClocks : Prop :=
  Claim.Budgets ∧ Claim.SlewAndSupply ∧ Claim.ClocksAsked ∧ Claim.ClockPauses ∧ Claim.Watchdogs ∧ Claim.SavesTimeOut

/-! ### HBM, links and ports -/

/-- Refresh (R136): a per-bank refresh may be postponed while fewer than eight are owed, and an all-bank refresh pays off eight. -/
def Claim.Refreshes : Prop :=
  ∀ (s : State) (stack ch bank : Nat),
    let owed := fun u : State => (findRefresh u stack ch).owed
    exec (.hbmPerBankRefresh stack ch bank false) s = .next s
    ∧ (8 ≤ owed s → exec (.hbmPerBankRefresh stack ch bank true) s = .next s)
    ∧ (owed s < 8 → ∃ t, exec (.hbmPerBankRefresh stack ch bank true) s = .next t ∧ owed t = owed s + 1 ∧ t.hart = s.hart
        ∧ t.mem = { s.mem with refresh := t.mem.refresh })
    ∧ (owed s < 8 → exec (.hbmAllBankRefresh stack ch) s = .next s)
    ∧ (8 ≤ owed s → ∃ t, exec (.hbmAllBankRefresh stack ch) s = .next t ∧ owed t = 0 ∧ t.hart = s.hart
        ∧ t.mem = { s.mem with refresh := t.mem.refresh })

/-- Errors that a patrol finds (R390, R442, R443): a corrected one is only recorded; an uncorrectable one poisons its granule in
a stack, in a dirty line and in a tile, the bits of a register that the spill banks hold, and nothing where a clean line is
fetched again. An activation alert is only recorded, and a lost channel is FATAL (R444, R445). Where an error strikes is the
model's choice (log 60, log 99). -/
def Claim.HbmReports : Prop :=
  ∀ (s : State) (stack gran : Nat) (ch bank : BitVec 16),
    let loc := stackLoc stack (64 * (gran % 2 ^ 30))
    let quiet := ∀ src, (findSrc s src).open_ = none
    let same := fun t : State => t.hart = s.hart ∧ t.others = s.others ∧ (quiet → t.mem.pois = s.mem.pois)
    let marks := fun (t : State) (g : Nat) => t.hart = s.hart ∧ t.others = s.others
      ∧ (quiet → ∀ a, homePois t.mem a 1 = (homePois s.mem a 1 || granule a == g))
    (∃ t, exec (.activationAlert stack ch bank) s = .next t ∧ same t
      ∧ (s.pkg.fatalAt = none → (findSrc s (srcOf 5 stack 0)).open_ = none →
          ∃ e n, (findSrc t (srcOf 5 stack 0)).open_ = some (e, n) ∧ e.cause = 0x0403
            ∧ e.data.take 4 = natLe 2 ch.toNat ++ natLe 2 bank.toNat))
    ∧ (∀ store, exec (.patrolRead store gran .clean) s = .next s ∧ ∃ t, exec (.patrolRead store gran .corrected) s = .next t ∧ same t)
    ∧ (∃ t, exec (.patrolRead (.hbm stack) gran .uncorrectable) s = .next t ∧ marks t (granule loc))
    ∧ (∃ t, exec (.patrolRead (.line stack true) gran .uncorrectable) s = .next t ∧ marks t (granule loc))
    ∧ (∃ t, exec (.patrolRead (.line stack false) gran .uncorrectable) s = .next t ∧ same t)
    ∧ (∀ c h, (∀ x, findTile s c h = some x → x.size ≤ 64 * gran) → exec (.patrolRead (.tile c h) gran .uncorrectable) s = .next s)
    ∧ (∀ c h x, findTile s c h = some x → 64 * gran < x.size →
        ∃ t, exec (.patrolRead (.tile c h) gran .uncorrectable) s = .next t ∧ marks t (granule (tileLoc c h (64 * gran))))
    ∧ (∀ u reg, (∀ x, findHart s u = some x → inSpill x reg.val = false) →
        exec (.patrolRead (.spill u reg) gran .uncorrectable) s = .next s)
    ∧ (∀ u reg x, findHart s u = some x → inSpill x reg.val = true →
        ∃ t y, exec (.patrolRead (.spill u reg) gran .uncorrectable) s = .next t ∧ findHart t u = some y
          ∧ y = { x with vf := { x.vf with pv := y.vf.pv, pm := y.vf.pm, pw := y.vf.pw } }
          ∧ (∀ hk : reg.val < 64, 512 * gran < x.vlen → y.vf.pv[reg.val] = x.vf.pv[reg.val] ||| (BitVec.ofNat 65536 (2 ^ 512 - 1)) <<< (512 * gran)))
    ∧ (s.pkg.fatalAt = none → ∃ t, exec (.hbmChannelLost stack ch) s = .next t ∧ t.pkg.fatalAt = some s.cycle ∧ t.hart = s.hart)
    ∧ (s.pkg.fatalAt ≠ none → exec (.hbmChannelLost stack ch) s = .next s)

/-- A failed CRC (R16, R470, R473) on one of the 112 boundaries between dies: the group is replayed, and one that has failed 8 replays in a row loses the link, which is
FATAL. How long a replay lasts is free (log 59). -/
def Claim.Replays : Prop :=
  ∀ (s : State) (die : Nat) (edge : Fin 4),
    let h := findHop s die edge.val; let k := if s.cycle ≤ h.replayUntil then h.replays else 0
    let there := die < 64 ∧ neighbour die edge.val ≠ none
    (¬ there → exec (.linkCrcFail die edge) s = .next s)
    ∧ (there → 8 ≤ k → s.pkg.fatalAt = none →
        ∃ t, exec (.linkCrcFail die edge) s = .next t ∧ t.pkg.fatalAt = some s.cycle ∧ t.hart = s.hart)
    ∧ (there → k < 8 → ∃ t n, exec (.linkCrcFail die edge) s = .next t ∧ s.cycle < n
        ∧ findHop t die edge.val = { h with replays := k + 1, replayUntil := n } ∧ t.hart = s.hart)

/-- A bad lane (R16, R471) of a boundary between dies: one in use that does not wait already is judged bad, and waits for its repair. -/
def Claim.BadLanes : Prop :=
  ∀ (s : State) (die lane : Nat) (edge : Fin 4),
    let h := findHop s die edge.val
    let used := die < 64 ∧ neighbour die edge.val ≠ none ∧ lane < 64 ∧ (h.half = none ∨ h.half = some (decide (32 ≤ lane)))
    (¬ used ∨ (∃ c, (lane, c) ∈ h.waiting) → exec (.laneBad die edge lane) s = .next s)
    ∧ (used → (∀ c, (lane, c) ∉ h.waiting) → ∃ t b, exec (.laneBad die edge lane) s = .next t ∧ t.hart = s.hart
        ∧ (b = lane ∨ (b = 64 ∧ h.spare0 = some lane) ∨ (b = 65 ∧ h.spare1 = some lane))
        ∧ findHop t die edge.val = { h with bad := b :: h.bad, waiting := h.waiting ++ [(lane, s.cycle)] })

/-- The repair of a bad lane (R472, R473, R476): after the replay, or 256 cycles, and in no pause of a clock, it goes to the lower
free spare in 64 cycles; without a spare the hop narrows to a half that its spares cover, in 128 cycles, or is lost. Which
half is taken first is the model's reading (log 59). -/
def Claim.Repairs : Prop :=
  ∀ (s : State) (die : Nat) (edge : Fin 4),
    let h := findHop s die edge.val; let ex := exec (.laneRepair die edge) s
    (h.waiting = [] → ex = .next s)
    ∧ ∀ lane c rest, h.waiting = (lane, c) :: rest →
      let blocked := clockPaused s die = true ∨ (∃ n, neighbour die edge.val = some n ∧ clockPaused s n = true)
        ∨ s.cycle < h.busyUntil ∨ (s.cycle < h.replayUntil ∧ s.cycle < c + 256)
      (blocked → ex = .next s)
      ∧ (¬ blocked →
          (h.spare0 = none → 64 ∉ h.bad → ∃ t, ex = .next t ∧ t.hart = s.hart
            ∧ findHop t die edge.val = { h with spare0 := some lane, waiting := rest, busyUntil := s.cycle + 64 })
          ∧ ((h.spare0 ≠ none ∨ 64 ∈ h.bad) → h.spare1 = none → 65 ∉ h.bad → ∃ t, ex = .next t ∧ t.hart = s.hart
            ∧ findHop t die edge.val = { h with spare1 := some lane, waiting := rest, busyUntil := s.cycle + 64 })
          ∧ ((h.spare0 ≠ none ∨ 64 ∈ h.bad) → (h.spare1 ≠ none ∨ 65 ∈ h.bad) →
              let few := fun hi : Bool => (badIn h hi).length ≤ (goodSpares h).length
              (h.half = none → (few false ∨ few true) → ∃ t, ex = .next t ∧ t.hart = s.hart
                ∧ (findHop t die edge.val).half = some (decide (¬ few false)) ∧ (findHop t die edge.val).waiting = []
                ∧ (findHop t die edge.val).busyUntil = s.cycle + 128)
              ∧ (h.half ≠ none ∨ (¬ few false ∧ ¬ few true) → s.pkg.fatalAt = none →
                  ∃ t, ex = .next t ∧ t.hart = s.hart ∧ t.pkg.fatalAt = some s.cycle)))

/-- Link loss and return of an Ethernet port (R485), each recorded once. -/
def Claim.EthernetLinks : Prop :=
  ∀ (s : State) (p : Fin 33),
    (portDown s p.val = true → exec (.portLinkDown p) s = .next s)
    ∧ (portDown s p.val = false → ∃ t, exec (.portLinkDown p) s = .next t ∧ portDown t p.val = true ∧ t.hart = s.hart ∧ t.paths = s.paths)
    ∧ (portDown s p.val = false → exec (.portLinkUp p) s = .next s)
    ∧ (portDown s p.val = true → ∃ t, exec (.portLinkUp p) s = .next t ∧ portDown t p.val = false ∧ t.hart = s.hart ∧ t.paths = s.paths)

/-- Refresh and faults of the HBM, the die-to-die links and the Ethernet ports. -/
def Obligations.MemoryAndLinks : Prop :=
  Claim.Refreshes ∧ Claim.HbmReports ∧ Claim.Replays ∧ Claim.BadLanes ∧ Claim.Repairs ∧ Claim.EthernetLinks

/-! ### The transport -/

/-- A packet that is discarded (R362, R364): a wrong version, operation, flag, reserved field or length, or a command or device
address on any path but the host's. -/
def Claim.Refused (s : State) (p : Packet) : Prop :=
  p.ver ≠ 1 ∨ p.op = 0 ∨ 9 < p.op.toNat ∨ 4 ≤ p.flags.toNat ∨ p.rsv ≠ 0 ∨ 4096 < p.payload.length
  ∨ ((p.op = 8 ∨ p.ctx = 0xFFFF) ∧ ¬ (p.port = 32 ∧ p.trusted = true ∧ p.addr6 = s.pkg.hostAddr))

/-- The packet as an event brings it: its kind gives OP. -/
def Claim.arrival : Instr → Option Packet
  | .pktRead p => some { p with op := 1 }
  | .pktReadRsp p => some { p with op := 2 }
  | .pktWrite p => some { p with op := 3 }
  | .pktQappend p => some { p with op := 4 }
  | .pktAtomic p => some { p with op := 5 }
  | .pktAck p => some { p with op := 6 }
  | .pktCnp p => some { p with op := 7 }
  | .pktCmd p => some { p with op := 8 }
  | .pktNak p => some { p with op := 9 }
  | _ => none

/-- Packets discarded at a port. -/
def Claim.discarded (s : State) (port : Nat) : Nat := ((s.eth.find? (fun e => e.port == port)).map (·.discarded)).getD 0

/-- Discards (R364, R485): at a port whose link is down nothing arrives; a packet that is refused is counted, and nothing else. -/
def Claim.Discards : Prop :=
  ∀ (s : State) (i : Instr) (p : Packet), Claim.arrival i = some p →
    (portDown s p.port = true → exec i s = .next s ∧ exec (.packetDiscard p) s = .next s)
    ∧ (portDown s p.port = false → ¬ Claim.Refused s p → exec (.packetDiscard p) s = .next s)
    ∧ (portDown s p.port = false → Claim.Refused s p → exec i s = exec (.packetDiscard p) s
        ∧ ∃ t, exec i s = .next t ∧ Claim.discarded t p.port = Claim.discarded s p.port + 1 ∧ t = { s with eth := t.eth })

/-- The packet arrives on a path of its own, whose next SEQ in order is `n`, and no path else shares its port, number and
address. -/
def Claim.OnPath (s : State) (p : Packet) (q : Path) : Prop :=
  portDown s p.port = false ∧ ¬ Claim.Refused s p ∧ pathOf s p = some q

/-- The order of a path (R365): a request is performed when its SEQ is the next one, held when it is up to 255 further, and
discarded beyond; a request that was performed before is not performed again, and is answered as it was. -/
def Claim.PathOrder : Prop :=
  ∀ (s : State) (i : Instr) (p : Packet) (q : Path), Claim.arrival i = some p → p.op ∈ [1, 3, 4, 5, 8] → Claim.OnPath s p q →
    p.ce = false →
    let d := (p.seq - q.rxNext).toNat
    (256 ≤ d → d < 2 ^ 31 → ∃ t x, exec i s = .next t ∧ t = { s with paths := t.paths } ∧ pathOf t p = some x
        ∧ x = { q with stored := x.stored })
    ∧ (0 < d → d < 256 → ∃ t x, exec i s = .next t ∧ pathOf t p = some x ∧ x.rxNext = q.rxNext ∧ t.mem = s.mem
        ∧ ∃ h ∈ x.held, h.seq = p.seq)
    ∧ (2 ^ 31 ≤ d → p.op ≠ 1 → ∃ t x, exec i s = .next t ∧ pathOf t p = some x ∧ x.rxNext = q.rxNext ∧ t.mem = s.mem
        ∧ ∀ l c, q.stored.find? (fun e => e.1 == p.seq) = some (p.seq, l, c) →
            ∃ r more, t.sent = s.sent ++ r :: more ∧ (∀ b, l = some b → r.op = 2 ∧ r.seq = p.seq ∧ r.payload = b)
              ∧ (l = none → r.op = 9 ∧ r.ack = p.seq - 1 ∧ r.payload = natLe 2 c))
    ∧ (d = 0 → q.held = [] → ∃ t x, exec i s = .next t ∧ pathOf t p = some x ∧ x.rxNext = q.rxNext + 1 ∧ x.held = [])

/-- A packet in order on a path that asks for no acknowledgement and holds nothing. -/
def Claim.InOrder (s : State) (p : Packet) (q : Path) : Prop :=
  Claim.OnPath s p q ∧ p.seq = q.rxNext ∧ q.held = [] ∧ p.ce = false ∧ p.flags = 0 ∧ q.unacked < 15

/-- READ and WRITE of device physical memory by the host (R282, R288, R363, R364): the bytes at their home answer a READ, in a
packet with the header of an answer (R363); and a WRITE puts its bytes there when the host's release of SYSTEM scope is performed, and no
earlier. When that is, and the NAK codes, are the model's readings (log 6, log 25). -/
def Claim.HostAccesses : Prop :=
  ∀ (s : State) (p : Packet) (q : Path), Claim.InOrder s p q → p.ctx = 0xFFFF → MemOk s →
    let same := fun t : State => ∀ k a, homeByte t k a = homeByte s k a
    (p.op = 1 → p.rel = false → ∀ n b, p.payload = natLe 4 n → 0 < n → n ≤ 4096 → devRead s (lowestDev s.pkg) p.addr.toNat n = some b →
      ∃ t r, exec (.pktRead p) s = .next t ∧ t.sent = s.sent ++ [r] ∧ r.op = 2 ∧ r.seq = p.seq ∧ r.payload = b ∧ r.path = q.num
        ∧ r.ver = 1 ∧ r.len.toNat = n ∧ r.dstPort = 0x1B5E ∧ r.srcPort.toNat = 0xC000 + q.num.toNat % 0x4000 ∧ r.ect = true ∧ same t)
    ∧ (p.op = 3 → p.addr.toNat + p.payload.length ≤ paLimit s.pkg.mode →
        (p.rel = true → ∃ t, exec (.pktWrite p) s = .next t ∧ t.sent = s.sent ∧ MemOk t
          ∧ devBytes t (lowestDev s.pkg) p.addr.toNat p.payload.length = p.payload)
        ∧ (p.rel = false → ∃ t x, exec (.pktWrite p) s = .next t ∧ t.sent = s.sent ∧ MemOk t ∧ same t ∧ pathOf t p = some x
          ∧ x.rxw.length = q.rxw.length + p.payload.length))
    ∧ (p.op = 3 → p.rel = false → paLimit s.pkg.mode ≤ p.addr.toNat → 0 < p.payload.length →
        ∃ t r, exec (.pktWrite p) s = .next t ∧ t.sent = s.sent ++ [r] ∧ r.op = 9 ∧ r.payload = natLe 2 5 ∧ t.mem = s.mem)

/-- The request is answered: the last packet sent is the READRSP of its SEQ with these bytes. -/
def Claim.Answered (s t : State) (p : Packet) (b : List Byte) : Prop :=
  ∃ r, t.sent = s.sent ++ [r] ∧ r.op = 2 ∧ r.seq = p.seq ∧ r.port = p.port ∧ r.payload = b

/-- ATOMIC, QAPPEND and CMD from the host (R282, R342, R364): an atomic addition of 8 bytes at its home, an append at a queue header,
and the forms of the privileged controls, each answered with its result. The payload layout is the model's choice (log 24). -/
def Claim.HostOperations : Prop :=
  ∀ (s : State) (p : Packet) (q : Path), Claim.InOrder s p q → p.ctx = 0xFFFF → MemOk s → p.rel = false →
    let dev := lowestDev s.pkg
    (p.op = 5 → ∀ v b, p.payload = [1, 8] ++ natLe 8 v → v < 2 ^ 64 → p.addr.toNat % 8 = 0 → devRead s dev p.addr.toNat 8 = some b →
        q.rxw = [] → s.mem.ovl = [] →
      ∃ t, exec (.pktAtomic p) s = .next t ∧ Claim.Answered s t p b
        ∧ devBytes t dev p.addr.toNat 8 = natLe 8 ((leNat b + v) % 2 ^ 64))
    ∧ (p.op = 4 → p.payload.length = 128 → ∀ u r, qappendOp s dev p.addr.toNat p.payload = (u, r) → r ≠ .unreadable →
      ∃ t, exec (.pktQappend p) s = .next t ∧ Claim.Answered u t p (natLe 8 r.word.toNat) ∧ t.mem = u.mem)
    ∧ (p.op = 8 → ∀ code x1 x2, p.payload = natLe 8 code ++ natLe 8 x1 ++ natLe 8 x2 → x1 < 2 ^ 64 → x2 < 2 ^ 64 →
      ∀ u v, (code = 0 ∧ (u, v) = keysetOp s dev x1 (x2 % 1024)) ∨ (code = 1 ∧ (u, v) = keydelOp s dev (x1 % 1024))
          ∨ (code = 2 ∧ u = (ctxnewOp s dev x1).1 ∧ v = (ctxnewOp s dev x1).2.toNat) ∨ (code = 5 ∧ (u, v) = scrubOp s dev x1 x2) →
        ∃ t, exec (.pktCmd p) s = .next t ∧ Claim.Answered u t p (natLe 8 v) ∧ t.mem = u.mem ∧ t.ctxs = u.ctxs)

/-- Answers to the package's own requests (R364, R365, R366, R369): READRSP brings the data of the request with its SEQ, and a
mark of congestion on it is answered; NAK brings a fault to the one with SEQ ACK + 1. How an answer names its request is the model's reading (log 25). -/
def Claim.AnswersArrive : Prop :=
  ∀ (s : State) (p : Packet) (q : Path) (o : OutReq),
    (p.op = 2 → Claim.OnPath s p q → q.out.find? (fun x => x.seq == p.seq) = some o →
      ∃ t x, exec (.pktReadRsp p) s = .next t ∧ t.answers = s.answers ++ [{ rid := o.rid, data := some p.payload }]
        ∧ pathOf t p = some x ∧ (∀ y ∈ x.out, y.seq ≠ p.seq) ∧ x.tries = 0 ∧ x.timeout = 100
        ∧ (p.ce = true → (q.lastCnpSent = 0 ∨ q.lastCnpSent + 50000 ≤ nsNow s) → ∃ r, t.sent = s.sent ++ [r] ∧ r.op = 7))
    ∧ (p.op = 9 → Claim.OnPath s p q → q.out.find? (fun x => x.seq == p.ack + 1) = some o →
      ∃ t x, exec (.pktNak p) s = .next t ∧ t.answers = s.answers ++ [{ rid := o.rid, data := none }]
        ∧ pathOf t p = some x ∧ (∀ y ∈ x.out, y.seq ≠ p.ack + 1))

/-- Acknowledgements (R365): what one covers is retired, or waits for its response alone; what its bitmap shows missing below its
highest set bit is sent again at once, with RETX set. -/
def Claim.AcksArrive : Prop :=
  ∀ (s : State) (p : Packet) (q : Path), p.op = 6 → Claim.OnPath s p q →
    let covered := fun o : OutReq => (p.ack - o.seq).toNat < 2 ^ 31
    let bit := fun k => (leNat (p.payload.take 32)).testBit k
    let missing := fun o : OutReq => ¬ covered o ∧ bit (o.seq - p.ack - 1).toNat = false
      ∧ ∃ k, k < 256 ∧ (o.seq - p.ack - 1).toNat < k ∧ bit k = true
    ∃ t x again, exec (.pktAck p) s = .next t ∧ pathOf t p = some x ∧ t.mem = s.mem ∧ t.sent = s.sent ++ again
      ∧ (∀ o ∈ x.out, covered o → o.acked = true ∧ o.op ∈ [1, 4, 5, 8])
      ∧ (∀ o ∈ q.out, ¬ covered o → o ∈ x.out)
      ∧ (∀ o ∈ q.out, covered o → o.op = 3 → { rid := o.rid, data := some [] } ∈ t.answers)
      ∧ (∀ o ∈ q.out, missing o → ∃ r ∈ again, r.seq = o.seq ∧ r.flags = 2 ∧ r.op = o.op ∧ r.payload = o.payload)
      ∧ ∀ r ∈ again, ∃ o ∈ q.out, missing o ∧ r.seq = o.seq

/-- Congestion (R366): a notice takes an eighth of the path's rate, down to 1 Gb/s, and each 50 µs without one adds 1% of the line
rate, up to it. -/
def Claim.Congestion : Prop :=
  ∀ (s : State) (p : Packet) (q : Path),
    (p.op = 7 → Claim.OnPath s p q → ∃ t x, exec (.pktCnp p) s = .next t ∧ pathOf t p = some x
      ∧ x = { q with rate := max 1000 (q.rate * 7 / 8), lastCnp := nsNow s } ∧ t.mem = s.mem)
    ∧ ∀ port num, findPath s port num = some q →
        (nsNow s < q.lastCnp + 50000 → exec (.cnpRateRecover port num) s = .next s)
        ∧ (q.lastCnp + 50000 ≤ nsNow s →
            let line := if port = 32 then 1600000 else 800000
            ∃ t, exec (.cnpRateRecover port num) s = .next t
              ∧ findPath t port num = some { q with rate := min line (q.rate + line / 100), lastCnp := nsNow s })

/-- The timers of a path (R365, R486): the acknowledgement 2 µs after the last arrival, the retransmission of all that is
unacknowledged with a doubled timeout, and the failure of the path after eight of them. -/
def Claim.PathTimers : Prop :=
  ∀ (s : State) (port : Nat) (num : BitVec 32) (q : Path), findPath s port num = some q →
    (q.unacked = 0 ∨ nsNow s < q.lastArrival + 2000 → exec (.ackTimer port num) s = .next s)
    ∧ (0 < q.unacked → q.lastArrival + 2000 ≤ nsNow s → ∃ t r, exec (.ackTimer port num) s = .next t ∧ t.sent = s.sent ++ [r]
        ∧ r.op = 6 ∧ r.ack = q.rxNext - 1 ∧ r.path = num ∧ r.port = port ∧ findPath t port num = some { q with unacked := 0 })
    ∧ ((∀ o ∈ q.out, o.acked = true) ∨ 8 ≤ q.tries ∨ nsNow s < q.since + 1000 * q.timeout → exec (.retxTimeout port num) s = .next s)
    ∧ ((∃ o ∈ q.out, o.acked = false) → q.tries < 8 → q.since + 1000 * q.timeout ≤ nsNow s →
        ∃ t again, exec (.retxTimeout port num) s = .next t ∧ t.sent = s.sent ++ again
          ∧ again.map (·.seq) = (q.out.filter (fun o => !o.acked)).map (·.seq) ∧ (∀ r ∈ again, r.flags = 2)
          ∧ findPath t port num = some { q with tries := q.tries + 1, timeout := min 12800 (2 * q.timeout), since := nsNow s })
    ∧ (q.tries < 8 → exec (.pathFail port num) s = .next s)
    ∧ (8 ≤ q.tries → ∃ t, exec (.pathFail port num) s = .next t ∧ t.hart = s.hart
        ∧ (∀ o ∈ q.out, ∃ a ∈ t.answers, a.rid = o.rid ∧ a.data = none) ∧ (∀ x, findPath t port num ≠ some x))

/-- The transport: packets, their order, their answers and acknowledgements, congestion and timers. -/
def Obligations.Transport : Prop :=
  Claim.Discards ∧ Claim.PathOrder ∧ Claim.HostAccesses ∧ Claim.HostOperations ∧ Claim.AnswersArrive ∧ Claim.AcksArrive
  ∧ Claim.Congestion ∧ Claim.PathTimers
end

