-- ==== Sys2Proof/Laws/Bits.lean ====
section
/-! SUPPORT. What the bit, byte and list helpers do: one lemma per helper and per way of reading what it wrote. -/

namespace Sys2Proof.Machine

/-! ### Bits -/

theorem getLsbD_ones {w n : Nat} (i : Nat) (hi : i < w) :
    (BitVec.ofNat w (2 ^ n - 1)).getLsbD i = decide (i < n) := by
  rw [BitVec.getLsbD_ofNat, Nat.testBit_two_pow_sub_one]; simp [hi]

/-- A bit of a register after `putBits`. -/
theorem getLsbD_putBits {w : Nat} (r : BitVec w) (p n v i : Nat) (hi : i < w) :
    (putBits r p n v).getLsbD i = if p ≤ i ∧ i < p + n then v.testBit (i - p) else r.getLsbD i := by
  have hw : i - p < w := by omega
  have h1 := getLsbD_ones (n := n) (i - p) hw
  have h2 : (BitVec.ofNat w (v % 2 ^ n)).getLsbD (i - p) = (decide (i - p < n) && v.testBit (i - p)) := by
    rw [BitVec.getLsbD_ofNat, Nat.testBit_mod_two_pow]; simp [hw]
  have e : (putBits r p n v).getLsbD i = (r.getLsbD i && !(!decide (i < p) && (BitVec.ofNat w (2 ^ n - 1)).getLsbD (i - p))
      || !decide (i < p) && (BitVec.ofNat w (v % 2 ^ n)).getLsbD (i - p)) := by
    simp only [putBits, BitVec.getLsbD_or, BitVec.getLsbD_and, BitVec.getLsbD_not, BitVec.getLsbD_shiftLeft, hi,
      decide_true, Bool.true_and]
  rw [e, h1, h2]
  by_cases a : i < p
  · simp [a, show ¬ p ≤ i by omega]
  · by_cases b : i < p + n
    · simp [a, show p ≤ i by omega, b, show i - p < n by omega]
    · simp [a, show p ≤ i by omega, b, show ¬ i - p < n by omega]

/-- A bit of the number that `getBits` reads. -/
theorem testBit_getBits {w : Nat} (r : BitVec w) (p n i : Nat) :
    (getBits r p n).testBit i = (decide (i < n) && r.getLsbD (p + i)) := by
  simp [getBits, Nat.testBit_mod_two_pow, Nat.testBit_shiftRight, BitVec.testBit_toNat]

theorem getBits_lt {w : Nat} (r : BitVec w) (p n : Nat) : getBits r p n < 2 ^ n := Nat.mod_lt _ (Nat.two_pow_pos n)

/-- Reading the bits just written. -/
theorem getBits_putBits_same {w : Nat} (r : BitVec w) (p n v : Nat) (h : p + n ≤ w) :
    getBits (putBits r p n v) p n = v % 2 ^ n := by
  apply Nat.eq_of_testBit_eq
  intro i
  rw [testBit_getBits, Nat.testBit_mod_two_pow]
  by_cases hi : i < n
  · rw [getLsbD_putBits r p n v _ (by omega), if_pos (by omega)]; simp [hi]
  · simp [hi]

/-- Reading bits apart from those written. -/
theorem getBits_putBits_apart {w : Nat} (r : BitVec w) (p n v q m : Nat) (h : p + n ≤ q ∨ q + m ≤ p) :
    getBits (putBits r p n v) q m = getBits r q m := by
  apply Nat.eq_of_testBit_eq
  intro i
  simp only [testBit_getBits]
  by_cases hi : i < m
  · by_cases hw : q + i < w
    · rw [getLsbD_putBits r p n v _ hw, if_neg (by omega)]
    · simp [hi, BitVec.getLsbD_of_ge _ _ (Nat.le_of_not_lt hw)]
  · simp [hi]

/-! ### Bytes -/

@[simp] theorem natLe_length (n v : Nat) : (natLe n v).length = n := by
  induction n generalizing v with
  | zero => rfl
  | succ n ih => simp [natLe, ih]

/-- The little-endian value of the bytes of a number. -/
theorem leNat_natLe (n v : Nat) : leNat (natLe n v) = v % 2 ^ (8 * n) := by
  induction n generalizing v with
  | zero => simp [natLe, leNat, Nat.mod_one]
  | succ n ih =>
    rw [natLe, leNat, ih, BitVec.toNat_ofNat, show 8 * (n + 1) = 8 + 8 * n by omega, Nat.pow_add]
    rw [Nat.mod_mul]

/-! ### Lists -/

@[simp] theorem forN_zero {α : Type} (a : α) (f : Nat → α → α) : forN 0 a f = a := rfl

theorem forN_succ {α : Type} (n : Nat) (a : α) (f : Nat → α → α) : forN (n + 1) a f = f n (forN n a f) := by
  simp [forN, List.range_succ]

/-- An invariant of an ascending loop. -/
theorem forN_keeps {α : Type} (P : α → Prop) (n : Nat) (a : α) (f : Nat → α → α) (h0 : P a)
    (hs : ∀ i x, i < n → P x → P (f i x)) : P (forN n a f) := by
  induction n with
  | zero => exact h0
  | succ n ih => rw [forN_succ]; exact hs n _ (by omega) (ih (fun i x hi => hs i x (by omega)))

/-- An invariant of a loop that may name the place reached. -/
theorem foldl_keeps {α β : Type} (P : α → Prop) (l : List β) (a : α) (f : α → β → α) (h0 : P a)
    (hs : ∀ x b, b ∈ l → P x → P (f x b)) : P (l.foldl f a) := by
  induction l generalizing a with
  | nil => exact h0
  | cons b r ih =>
    exact ih (f a b) (hs a b (by simp) h0) (fun x c hc => hs x c (by simp [hc]))

@[simp] theorem forRange_empty {α : Type} (lo hi : Nat) (a : α) (f : Nat → α → α) (h : hi ≤ lo) :
    forRange lo hi a f = a := by simp [forRange, Nat.sub_eq_zero_of_le h]

/-- One more turn of a loop over a range. -/
theorem forRange_succ {α : Type} (lo hi : Nat) (a : α) (f : Nat → α → α) (h : lo ≤ hi) :
    forRange lo (hi + 1) a f = f hi (forRange lo hi a f) := by
  have : hi + 1 - lo = (hi - lo) + 1 := by omega
  simp [forRange, this, List.range'_concat, List.foldl_append, show lo + (hi - lo) = hi by omega]

/-- An invariant of a loop over a range that names the place reached. -/
theorem forRange_keeps {α : Type} (P : Nat → α → Prop) (lo hi : Nat) (a : α) (f : Nat → α → α) (hle : lo ≤ hi) (h0 : P lo a)
    (hs : ∀ i x, lo ≤ i → i < hi → P i x → P (i + 1) (f i x)) : P hi (forRange lo hi a f) := by
  induction hi with
  | zero =>
    have : lo = 0 := by omega
    subst this; simpa using h0
  | succ n ih =>
    by_cases h : lo ≤ n
    · rw [forRange_succ lo n a f h]
      exact hs n _ h (by omega) (ih h (fun i x h1 h2 => hs i x h1 (by omega)))
    · have : lo = n + 1 := by omega
      subst this; simpa using h0

end Sys2Proof.Machine
end

