-- ==== Sys2Proof/Laws/Memory.lean ====
section
/-! SUPPORT. The cells of memory: reads after writes and the canonical form; what the writes at the home keep. -/

namespace Sys2Proof.Machine

/-! ### The canonical form -/

theorem cellsAbove_mono {lo lo' : Option Nat} {l : List Host.Cell} (h : cellsAbove lo l = true)
    (hl : ∀ a, lo' = some a → ∃ b, lo = some b ∧ a ≤ b) : cellsAbove lo' l = true := by
  cases l with
  | nil => rfl
  | cons c r =>
    simp only [cellsAbove, Bool.and_eq_true] at h ⊢
    refine ⟨⟨?_, h.1.2⟩, h.2⟩
    cases lo' with
    | none => rfl
    | some a =>
      obtain ⟨b, hb, hab⟩ := hl a rfl
      subst hb
      have := h.1.1
      simp only [decide_eq_true_eq] at this ⊢
      omega

theorem cellsAbove_none {lo : Option Nat} {l : List Host.Cell} (h : cellsAbove lo l = true) : cellsAbove none l = true :=
  cellsAbove_mono h (by simp)

/-- A write keeps the canonical form. -/
theorem cellsAbove_cellSet (l : List Host.Cell) (lo : Option Nat) (a : Nat) (v : Byte) (h : cellsAbove lo l = true)
    (ha : ∀ b, lo = some b → b < a) : cellsAbove lo (cellSet l a v) = true := by
  have hlo : ∀ r : List Host.Cell, v ≠ 0#8 → cellsAbove (some a) r = true → cellsAbove lo ((a, v) :: r) = true := by
    intro r hv hr
    cases lo with
    | none => simp [cellsAbove, hv, hr]
    | some b => simp [cellsAbove, hv, hr, ha b rfl]
  induction l generalizing lo with
  | nil =>
    by_cases hv : v = 0#8
    · simp [cellSet, hv, cellsAbove]
    · simpa [cellSet, hv] using hlo [] hv rfl
  | cons c r ih =>
    obtain ⟨x, b⟩ := c
    have h' := h
    simp only [cellsAbove, Bool.and_eq_true] at h
    obtain ⟨⟨h1, h2⟩, h3⟩ := h
    by_cases c1 : a < x
    · by_cases hv : v = 0#8
      · simpa [cellSet, c1, hv] using h'
      · simp only [cellSet, c1, if_true, show ¬ v = 0 from hv, if_false]
        exact hlo _ hv (by simp [cellsAbove, c1, h3]; simpa using h2)
    · by_cases c2 : a = x
      · subst c2
        by_cases hv : v = 0#8
        · rw [show cellSet ((a, b) :: r) a v = r by simp [cellSet, hv]]
          exact cellsAbove_mono h3 (fun d hd => ⟨a, rfl, Nat.le_of_lt (ha d hd)⟩)
        · rw [show cellSet ((a, b) :: r) a v = (a, v) :: r by simp [cellSet, hv]]
          exact hlo _ hv h3
      · simp only [cellSet, c1, c2, if_false, cellsAbove, Bool.and_eq_true]
        refine ⟨⟨h1, h2⟩, ih (some x) h3 ?_ ?_⟩
        · intro d hd; cases hd; omega
        · intro q hv hq; simp [cellsAbove, hv, hq]; omega

/-- Removing cells keeps the canonical form. -/
theorem cellsAbove_cellDrop (p : Nat → Bool) (l : List Host.Cell) (lo : Option Nat) (h : cellsAbove lo l = true) :
    cellsAbove lo (cellDrop p l) = true := by
  induction l generalizing lo with
  | nil => rfl
  | cons c r ih =>
    obtain ⟨x, b⟩ := c
    simp only [cellsAbove, Bool.and_eq_true] at h
    obtain ⟨⟨h1, h2⟩, h3⟩ := h
    by_cases hp : p x = true
    · have : cellDrop p ((x, b) :: r) = cellDrop p r := by simp [cellDrop, hp]
      rw [this]
      refine ih lo (cellsAbove_mono h3 ?_)
      intro d hd; subst hd
      exact ⟨x, rfl, Nat.le_of_lt (by simpa using h1)⟩
    · have : cellDrop p ((x, b) :: r) = (x, b) :: cellDrop p r := by simp [cellDrop, hp]
      rw [this]
      simp only [cellsAbove, Bool.and_eq_true]
      exact ⟨⟨h1, h2⟩, ih (some x) h3⟩

/-! ### Reads after writes -/

theorem cellGet_below (l : List Host.Cell) (lo a : Nat) (h : cellsAbove (some lo) l = true) (ha : a ≤ lo) : cellGet l a = 0 := by
  cases l with
  | nil => rfl
  | cons c r =>
    obtain ⟨x, b⟩ := c
    simp only [cellsAbove, Bool.and_eq_true, decide_eq_true_eq] at h
    simp [cellGet, show a < x by omega]

/-- The byte just written. -/
theorem cellGet_cellSet_same (l : List Host.Cell) (lo : Option Nat) (a : Nat) (v : Byte) (h : cellsAbove lo l = true) :
    cellGet (cellSet l a v) a = v := by
  induction l generalizing lo with
  | nil => by_cases hv : v = 0#8 <;> simp [cellSet, hv, cellGet]
  | cons c r ih =>
    obtain ⟨x, b⟩ := c
    simp only [cellsAbove, Bool.and_eq_true] at h
    by_cases c1 : a < x
    · by_cases hv : v = 0#8 <;> simp [cellSet, c1, hv, cellGet]
    · by_cases c2 : a = x
      · subst c2
        by_cases hv : v = 0#8
        · simp [cellSet, hv, cellGet_below r a a h.2 (Nat.le_refl a)]
        · simp [cellSet, hv, cellGet]
      · simp [cellSet, c1, c2, cellGet, ih (some x) h.2]

/-- Every other byte. -/
theorem cellGet_cellSet_other (l : List Host.Cell) (lo : Option Nat) (a q : Nat) (v : Byte) (h : cellsAbove lo l = true)
    (hq : q ≠ a) : cellGet (cellSet l a v) q = cellGet l q := by
  induction l generalizing lo with
  | nil =>
    by_cases hv : v = 0#8
    · simp [cellSet, hv]
    · simp [cellSet, hv, cellGet, hq]
  | cons c r ih =>
    obtain ⟨x, b⟩ := c
    simp only [cellsAbove, Bool.and_eq_true] at h
    by_cases c1 : a < x
    · by_cases hv : v = 0#8
      · simp [cellSet, c1, hv]
      · by_cases hqa : q < a
        · simp [cellSet, c1, hv, cellGet, hqa, show q < x by omega]
        · simp [cellSet, c1, hv, cellGet, hqa, hq]
    · by_cases c2 : a = x
      · subst c2
        by_cases hv : v = 0#8
        · by_cases hqa : q < a
          · simp [cellSet, hv, cellGet, hqa, cellGet_below r a q h.2 (Nat.le_of_lt hqa)]
          · simp [cellSet, hv, cellGet, hqa, hq]
        · simp [cellSet, hv, cellGet, hq]
      · simp [cellSet, c1, c2, cellGet, ih (some x) h.2]

/-! ### Writes at the home -/

@[simp] theorem setKeyOf_cells (m : Mem) (g : Nat) (k : KeyTag) : (setKeyOf m g k).cells = m.cells := rfl

@[simp] theorem markPois_cells (m : Mem) (loc n : Nat) (p : Bool) : (markPois m loc n p).cells = m.cells := by
  simp only [markPois]
  by_cases h : n = 0
  · simp [h]
  · cases p <;> simp [h]

theorem logBytes_cells (m : Mem) (k : KeyTag) (loc : Nat) (bs : List Byte) (p st : Bool) (pubs : List Pub)
    (q : Bool) : (logBytes m k loc bs p st pubs q).cells = m.cells := by
  unfold logBytes
  exact foldl_keeps (fun x : Mem => x.cells = m.cells) _ _ _ rfl (fun _ _ _ h => h)

theorem wf_cellSet {l : List Host.Cell} (h : cellsAbove none l = true) (a : Nat) (v : Byte) :
    cellsAbove none (cellSet l a v) = true :=
  cellsAbove_cellSet l none a v h (by simp)

theorem wf_cellDrop {l : List Host.Cell} (h : cellsAbove none l = true) (p : Nat → Bool) :
    cellsAbove none (cellDrop p l) = true :=
  cellsAbove_cellDrop p l none h

/-- A byte written at its home keeps the canonical form. -/
theorem putHomeByte_wf (s : State) (k : KeyTag) (loc : Nat) (b : Byte) (h : s.mem.wf = true) :
    (putHomeByte s k loc b).mem.wf = true := by
  unfold putHomeByte Mem.wf at *
  split
  · exact wf_cellSet h _ _
  · dsimp only
    apply wf_cellSet
    split
    · simpa using h
    · split
      · exact h
      · simp only [setKeyOf_cells]
        exact forN_keeps (fun c => cellsAbove none c = true) _ _ _ h (fun i x _ hx => wf_cellSet hx _ _)

/-- Bytes written at their home keep the canonical form. -/
theorem putHome_wf (s : State) (k : KeyTag) (loc : Nat) (bs : List Byte) (p : Bool) (h : s.mem.wf = true) :
    (putHome s k loc bs p).mem.wf = true := by
  have h1 : ((bs.zipIdx).foldl (fun st p => putHomeByte st k (loc + p.2) p.1) s).mem.wf = true :=
    foldl_keeps (fun x : State => x.mem.wf = true) _ _ _ h (fun _ _ _ hx => putHomeByte_wf _ _ _ _ hx)
  unfold putHome
  simpa [Mem.wf] using h1

/-- A strong write of no hart keeps the canonical form. -/
theorem strongPut_wf (s : State) (k : KeyTag) (loc : Nat) (bs : List Byte) (pubs : List Pub) (h : s.mem.wf = true) :
    (strongPut s k loc bs pubs).mem.wf = true := by
  have h1 := putHome_wf s k loc bs false h
  unfold strongPut
  simpa [Mem.wf, logBytes_cells] using h1

/-- Writes of device physical memory keep the canonical form. -/
theorem devWrite_wf (s : State) (dev pa : Nat) (bs : List Byte) (h : s.mem.wf = true) :
    (devWrite s dev pa bs).mem.wf = true := by
  unfold devWrite
  refine foldl_keeps (fun x : State => x.mem.wf = true) _ _ _ h (fun x b _ hx => ?_)
  split
  · exact strongPut_wf _ _ _ _ _ hx
  · exact hx

/-- A hart's stores change no cell. -/
theorem ownStore_cells (s : State) (k : KeyTag) (loc va : Nat) (bs : List Byte) (p : Bool) :
    (ownStore s k loc va bs p).mem.cells = s.mem.cells := rfl

/-- Performing a hart's writes keeps the canonical form. -/
theorem performOwn_wf (s : State) (h : Hart) (set : List Nat) (strong : Bool) (hw : s.mem.wf = true) :
    (performOwn s h set strong).1.mem.wf = true := by
  unfold performOwn
  dsimp only
  show Mem.wf (clearPois _ _) = true
  unfold clearPois Mem.wf
  refine foldl_keeps (fun x : State => cellsAbove none x.mem.cells = true) _ _ _ hw (fun x o _ hx => ?_)
  exact putHome_wf _ _ _ _ _ hx

/-- Publishing changes no cell. -/
@[simp] theorem publish_cells (m : Mem) (set : List Nat) (p : Pub) : (publish m set p).cells = m.cells := rfl

end Sys2Proof.Machine
end

