-- ==== Sys2Proof/Laws/State.lean ====
section
/-! SUPPORT. The fields of the state after each named update: one lemma per field per update. -/

namespace Sys2Proof.Machine

/-! ### `onHart` -/

@[simp] theorem State.onHart_hart (s : State) (f : Hart → Hart) : (s.onHart f).hart = f s.hart := rfl
@[simp] theorem State.onHart_others (s : State) (f : Hart → Hart) : (s.onHart f).others = s.others := rfl
@[simp] theorem State.onHart_agenda (s : State) (f : Hart → Hart) : (s.onHart f).agenda = s.agenda := rfl
@[simp] theorem State.onHart_cycle (s : State) (f : Hart → Hart) : (s.onHart f).cycle = s.cycle := rfl
@[simp] theorem State.onHart_free (s : State) (f : Hart → Hart) : (s.onHart f).free = s.free := rfl
@[simp] theorem State.onHart_fresh (s : State) (f : Hart → Hart) : (s.onHart f).fresh = s.fresh := rfl
@[simp] theorem State.onHart_pkg (s : State) (f : Hart → Hart) : (s.onHart f).pkg = s.pkg := rfl
@[simp] theorem State.onHart_mem (s : State) (f : Hart → Hart) : (s.onHart f).mem = s.mem := rfl
@[simp] theorem State.onHart_ctxs (s : State) (f : Hart → Hart) : (s.onHart f).ctxs = s.ctxs := rfl
@[simp] theorem State.onHart_launches (s : State) (f : Hart → Hart) : (s.onHart f).launches = s.launches := rfl
@[simp] theorem State.onHart_devices (s : State) (f : Hart → Hart) : (s.onHart f).devices = s.devices := rfl
@[simp] theorem State.onHart_mills (s : State) (f : Hart → Hart) : (s.onHart f).mills = s.mills := rfl
@[simp] theorem State.onHart_ports (s : State) (f : Hart → Hart) : (s.onHart f).ports = s.ports := rfl
@[simp] theorem State.onHart_copies (s : State) (f : Hart → Hart) : (s.onHart f).copies = s.copies := rfl
@[simp] theorem State.onHart_cores (s : State) (f : Hart → Hart) : (s.onHart f).cores = s.cores := rfl
@[simp] theorem State.onHart_weirs (s : State) (f : Hart → Hart) : (s.onHart f).weirs = s.weirs := rfl
@[simp] theorem State.onHart_sources (s : State) (f : Hart → Hart) : (s.onHart f).sources = s.sources := rfl
@[simp] theorem State.onHart_hops (s : State) (f : Hart → Hart) : (s.onHart f).hops = s.hops := rfl
@[simp] theorem State.onHart_clocks (s : State) (f : Hart → Hart) : (s.onHart f).clocks = s.clocks := rfl
@[simp] theorem State.onHart_eth (s : State) (f : Hart → Hart) : (s.onHart f).eth = s.eth := rfl
@[simp] theorem State.onHart_paths (s : State) (f : Hart → Hart) : (s.onHart f).paths = s.paths := rfl
@[simp] theorem State.onHart_sent (s : State) (f : Hart → Hart) : (s.onHart f).sent = s.sent := rfl
@[simp] theorem State.onHart_answers (s : State) (f : Hart → Hart) : (s.onHart f).answers = s.answers := rfl
@[simp] theorem State.onHart_pairs (s : State) (f : Hart → Hart) : (s.onHart f).pairs = s.pairs := rfl

/-! ### `setX` -/

@[simp] theorem State.setX_hart (s : State) (r : XReg) (v : Word) (p : Bool) : (s.setX r v p).hart = setXH s.hart r v p := rfl
@[simp] theorem State.setX_others (s : State) (r : XReg) (v : Word) (p : Bool) : (s.setX r v p).others = s.others := rfl
@[simp] theorem State.setX_agenda (s : State) (r : XReg) (v : Word) (p : Bool) : (s.setX r v p).agenda = s.agenda := rfl
@[simp] theorem State.setX_cycle (s : State) (r : XReg) (v : Word) (p : Bool) : (s.setX r v p).cycle = s.cycle := rfl
@[simp] theorem State.setX_free (s : State) (r : XReg) (v : Word) (p : Bool) : (s.setX r v p).free = s.free := rfl
@[simp] theorem State.setX_fresh (s : State) (r : XReg) (v : Word) (p : Bool) : (s.setX r v p).fresh = s.fresh := rfl
@[simp] theorem State.setX_pkg (s : State) (r : XReg) (v : Word) (p : Bool) : (s.setX r v p).pkg = s.pkg := rfl
@[simp] theorem State.setX_mem (s : State) (r : XReg) (v : Word) (p : Bool) : (s.setX r v p).mem = s.mem := rfl
@[simp] theorem State.setX_ctxs (s : State) (r : XReg) (v : Word) (p : Bool) : (s.setX r v p).ctxs = s.ctxs := rfl
@[simp] theorem State.setX_launches (s : State) (r : XReg) (v : Word) (p : Bool) : (s.setX r v p).launches = s.launches := rfl
@[simp] theorem State.setX_devices (s : State) (r : XReg) (v : Word) (p : Bool) : (s.setX r v p).devices = s.devices := rfl
@[simp] theorem State.setX_mills (s : State) (r : XReg) (v : Word) (p : Bool) : (s.setX r v p).mills = s.mills := rfl
@[simp] theorem State.setX_ports (s : State) (r : XReg) (v : Word) (p : Bool) : (s.setX r v p).ports = s.ports := rfl
@[simp] theorem State.setX_copies (s : State) (r : XReg) (v : Word) (p : Bool) : (s.setX r v p).copies = s.copies := rfl
@[simp] theorem State.setX_cores (s : State) (r : XReg) (v : Word) (p : Bool) : (s.setX r v p).cores = s.cores := rfl
@[simp] theorem State.setX_weirs (s : State) (r : XReg) (v : Word) (p : Bool) : (s.setX r v p).weirs = s.weirs := rfl
@[simp] theorem State.setX_sources (s : State) (r : XReg) (v : Word) (p : Bool) : (s.setX r v p).sources = s.sources := rfl
@[simp] theorem State.setX_hops (s : State) (r : XReg) (v : Word) (p : Bool) : (s.setX r v p).hops = s.hops := rfl
@[simp] theorem State.setX_clocks (s : State) (r : XReg) (v : Word) (p : Bool) : (s.setX r v p).clocks = s.clocks := rfl
@[simp] theorem State.setX_eth (s : State) (r : XReg) (v : Word) (p : Bool) : (s.setX r v p).eth = s.eth := rfl
@[simp] theorem State.setX_paths (s : State) (r : XReg) (v : Word) (p : Bool) : (s.setX r v p).paths = s.paths := rfl
@[simp] theorem State.setX_sent (s : State) (r : XReg) (v : Word) (p : Bool) : (s.setX r v p).sent = s.sent := rfl
@[simp] theorem State.setX_answers (s : State) (r : XReg) (v : Word) (p : Bool) : (s.setX r v p).answers = s.answers := rfl
@[simp] theorem State.setX_pairs (s : State) (r : XReg) (v : Word) (p : Bool) : (s.setX r v p).pairs = s.pairs := rfl

/-! ### `mapHarts` -/

@[simp] theorem mapHarts_hart (s : State) (f : Hart → Hart) : (mapHarts s f).hart = f s.hart := rfl
@[simp] theorem mapHarts_others (s : State) (f : Hart → Hart) : (mapHarts s f).others = s.others.map f := rfl
@[simp] theorem mapHarts_agenda (s : State) (f : Hart → Hart) : (mapHarts s f).agenda = s.agenda := rfl
@[simp] theorem mapHarts_cycle (s : State) (f : Hart → Hart) : (mapHarts s f).cycle = s.cycle := rfl
@[simp] theorem mapHarts_free (s : State) (f : Hart → Hart) : (mapHarts s f).free = s.free := rfl
@[simp] theorem mapHarts_fresh (s : State) (f : Hart → Hart) : (mapHarts s f).fresh = s.fresh := rfl
@[simp] theorem mapHarts_pkg (s : State) (f : Hart → Hart) : (mapHarts s f).pkg = s.pkg := rfl
@[simp] theorem mapHarts_mem (s : State) (f : Hart → Hart) : (mapHarts s f).mem = s.mem := rfl
@[simp] theorem mapHarts_ctxs (s : State) (f : Hart → Hart) : (mapHarts s f).ctxs = s.ctxs := rfl
@[simp] theorem mapHarts_launches (s : State) (f : Hart → Hart) : (mapHarts s f).launches = s.launches := rfl
@[simp] theorem mapHarts_devices (s : State) (f : Hart → Hart) : (mapHarts s f).devices = s.devices := rfl
@[simp] theorem mapHarts_mills (s : State) (f : Hart → Hart) : (mapHarts s f).mills = s.mills := rfl
@[simp] theorem mapHarts_ports (s : State) (f : Hart → Hart) : (mapHarts s f).ports = s.ports := rfl
@[simp] theorem mapHarts_copies (s : State) (f : Hart → Hart) : (mapHarts s f).copies = s.copies := rfl
@[simp] theorem mapHarts_cores (s : State) (f : Hart → Hart) : (mapHarts s f).cores = s.cores := rfl
@[simp] theorem mapHarts_weirs (s : State) (f : Hart → Hart) : (mapHarts s f).weirs = s.weirs := rfl
@[simp] theorem mapHarts_sources (s : State) (f : Hart → Hart) : (mapHarts s f).sources = s.sources := rfl
@[simp] theorem mapHarts_hops (s : State) (f : Hart → Hart) : (mapHarts s f).hops = s.hops := rfl
@[simp] theorem mapHarts_clocks (s : State) (f : Hart → Hart) : (mapHarts s f).clocks = s.clocks := rfl
@[simp] theorem mapHarts_eth (s : State) (f : Hart → Hart) : (mapHarts s f).eth = s.eth := rfl
@[simp] theorem mapHarts_paths (s : State) (f : Hart → Hart) : (mapHarts s f).paths = s.paths := rfl
@[simp] theorem mapHarts_sent (s : State) (f : Hart → Hart) : (mapHarts s f).sent = s.sent := rfl
@[simp] theorem mapHarts_answers (s : State) (f : Hart → Hart) : (mapHarts s f).answers = s.answers := rfl
@[simp] theorem mapHarts_pairs (s : State) (f : Hart → Hart) : (mapHarts s f).pairs = s.pairs := rfl

/-! ### `modHart` -/

@[simp] theorem modHart_hart (s : State) (u : Nat) (f : Hart → Hart) : (modHart s u f).hart = if s.hart.id.uid = u then f s.hart else s.hart := rfl
@[simp] theorem modHart_others (s : State) (u : Nat) (f : Hart → Hart) : (modHart s u f).others = s.others.map (fun h => if h.id.uid = u then f h else h) := rfl
@[simp] theorem modHart_agenda (s : State) (u : Nat) (f : Hart → Hart) : (modHart s u f).agenda = s.agenda := rfl
@[simp] theorem modHart_cycle (s : State) (u : Nat) (f : Hart → Hart) : (modHart s u f).cycle = s.cycle := rfl
@[simp] theorem modHart_free (s : State) (u : Nat) (f : Hart → Hart) : (modHart s u f).free = s.free := rfl
@[simp] theorem modHart_fresh (s : State) (u : Nat) (f : Hart → Hart) : (modHart s u f).fresh = s.fresh := rfl
@[simp] theorem modHart_pkg (s : State) (u : Nat) (f : Hart → Hart) : (modHart s u f).pkg = s.pkg := rfl
@[simp] theorem modHart_mem (s : State) (u : Nat) (f : Hart → Hart) : (modHart s u f).mem = s.mem := rfl
@[simp] theorem modHart_ctxs (s : State) (u : Nat) (f : Hart → Hart) : (modHart s u f).ctxs = s.ctxs := rfl
@[simp] theorem modHart_launches (s : State) (u : Nat) (f : Hart → Hart) : (modHart s u f).launches = s.launches := rfl
@[simp] theorem modHart_devices (s : State) (u : Nat) (f : Hart → Hart) : (modHart s u f).devices = s.devices := rfl
@[simp] theorem modHart_mills (s : State) (u : Nat) (f : Hart → Hart) : (modHart s u f).mills = s.mills := rfl
@[simp] theorem modHart_ports (s : State) (u : Nat) (f : Hart → Hart) : (modHart s u f).ports = s.ports := rfl
@[simp] theorem modHart_copies (s : State) (u : Nat) (f : Hart → Hart) : (modHart s u f).copies = s.copies := rfl
@[simp] theorem modHart_cores (s : State) (u : Nat) (f : Hart → Hart) : (modHart s u f).cores = s.cores := rfl
@[simp] theorem modHart_weirs (s : State) (u : Nat) (f : Hart → Hart) : (modHart s u f).weirs = s.weirs := rfl
@[simp] theorem modHart_sources (s : State) (u : Nat) (f : Hart → Hart) : (modHart s u f).sources = s.sources := rfl
@[simp] theorem modHart_hops (s : State) (u : Nat) (f : Hart → Hart) : (modHart s u f).hops = s.hops := rfl
@[simp] theorem modHart_clocks (s : State) (u : Nat) (f : Hart → Hart) : (modHart s u f).clocks = s.clocks := rfl
@[simp] theorem modHart_eth (s : State) (u : Nat) (f : Hart → Hart) : (modHart s u f).eth = s.eth := rfl
@[simp] theorem modHart_paths (s : State) (u : Nat) (f : Hart → Hart) : (modHart s u f).paths = s.paths := rfl
@[simp] theorem modHart_sent (s : State) (u : Nat) (f : Hart → Hart) : (modHart s u f).sent = s.sent := rfl
@[simp] theorem modHart_answers (s : State) (u : Nat) (f : Hart → Hart) : (modHart s u f).answers = s.answers := rfl
@[simp] theorem modHart_pairs (s : State) (u : Nat) (f : Hart → Hart) : (modHart s u f).pairs = s.pairs := rfl

/-! ### `modCtx` -/

@[simp] theorem modCtx_hart (s : State) (c : Nat) (f : Ctx → Ctx) : (modCtx s c f).hart = s.hart := rfl
@[simp] theorem modCtx_others (s : State) (c : Nat) (f : Ctx → Ctx) : (modCtx s c f).others = s.others := rfl
@[simp] theorem modCtx_agenda (s : State) (c : Nat) (f : Ctx → Ctx) : (modCtx s c f).agenda = s.agenda := rfl
@[simp] theorem modCtx_cycle (s : State) (c : Nat) (f : Ctx → Ctx) : (modCtx s c f).cycle = s.cycle := rfl
@[simp] theorem modCtx_free (s : State) (c : Nat) (f : Ctx → Ctx) : (modCtx s c f).free = s.free := rfl
@[simp] theorem modCtx_fresh (s : State) (c : Nat) (f : Ctx → Ctx) : (modCtx s c f).fresh = s.fresh := rfl
@[simp] theorem modCtx_pkg (s : State) (c : Nat) (f : Ctx → Ctx) : (modCtx s c f).pkg = s.pkg := rfl
@[simp] theorem modCtx_mem (s : State) (c : Nat) (f : Ctx → Ctx) : (modCtx s c f).mem = s.mem := rfl
@[simp] theorem modCtx_ctxs (s : State) (c : Nat) (f : Ctx → Ctx) : (modCtx s c f).ctxs = updWhere (fun x => x.num == c) f s.ctxs := rfl
@[simp] theorem modCtx_launches (s : State) (c : Nat) (f : Ctx → Ctx) : (modCtx s c f).launches = s.launches := rfl
@[simp] theorem modCtx_devices (s : State) (c : Nat) (f : Ctx → Ctx) : (modCtx s c f).devices = s.devices := rfl
@[simp] theorem modCtx_mills (s : State) (c : Nat) (f : Ctx → Ctx) : (modCtx s c f).mills = s.mills := rfl
@[simp] theorem modCtx_ports (s : State) (c : Nat) (f : Ctx → Ctx) : (modCtx s c f).ports = s.ports := rfl
@[simp] theorem modCtx_copies (s : State) (c : Nat) (f : Ctx → Ctx) : (modCtx s c f).copies = s.copies := rfl
@[simp] theorem modCtx_cores (s : State) (c : Nat) (f : Ctx → Ctx) : (modCtx s c f).cores = s.cores := rfl
@[simp] theorem modCtx_weirs (s : State) (c : Nat) (f : Ctx → Ctx) : (modCtx s c f).weirs = s.weirs := rfl
@[simp] theorem modCtx_sources (s : State) (c : Nat) (f : Ctx → Ctx) : (modCtx s c f).sources = s.sources := rfl
@[simp] theorem modCtx_hops (s : State) (c : Nat) (f : Ctx → Ctx) : (modCtx s c f).hops = s.hops := rfl
@[simp] theorem modCtx_clocks (s : State) (c : Nat) (f : Ctx → Ctx) : (modCtx s c f).clocks = s.clocks := rfl
@[simp] theorem modCtx_eth (s : State) (c : Nat) (f : Ctx → Ctx) : (modCtx s c f).eth = s.eth := rfl
@[simp] theorem modCtx_paths (s : State) (c : Nat) (f : Ctx → Ctx) : (modCtx s c f).paths = s.paths := rfl
@[simp] theorem modCtx_sent (s : State) (c : Nat) (f : Ctx → Ctx) : (modCtx s c f).sent = s.sent := rfl
@[simp] theorem modCtx_answers (s : State) (c : Nat) (f : Ctx → Ctx) : (modCtx s c f).answers = s.answers := rfl
@[simp] theorem modCtx_pairs (s : State) (c : Nat) (f : Ctx → Ctx) : (modCtx s c f).pairs = s.pairs := rfl

/-! ### `modLaunch` -/

@[simp] theorem modLaunch_hart (s : State) (l : Nat) (f : Launch → Launch) : (modLaunch s l f).hart = s.hart := rfl
@[simp] theorem modLaunch_others (s : State) (l : Nat) (f : Launch → Launch) : (modLaunch s l f).others = s.others := rfl
@[simp] theorem modLaunch_agenda (s : State) (l : Nat) (f : Launch → Launch) : (modLaunch s l f).agenda = s.agenda := rfl
@[simp] theorem modLaunch_cycle (s : State) (l : Nat) (f : Launch → Launch) : (modLaunch s l f).cycle = s.cycle := rfl
@[simp] theorem modLaunch_free (s : State) (l : Nat) (f : Launch → Launch) : (modLaunch s l f).free = s.free := rfl
@[simp] theorem modLaunch_fresh (s : State) (l : Nat) (f : Launch → Launch) : (modLaunch s l f).fresh = s.fresh := rfl
@[simp] theorem modLaunch_pkg (s : State) (l : Nat) (f : Launch → Launch) : (modLaunch s l f).pkg = s.pkg := rfl
@[simp] theorem modLaunch_mem (s : State) (l : Nat) (f : Launch → Launch) : (modLaunch s l f).mem = s.mem := rfl
@[simp] theorem modLaunch_ctxs (s : State) (l : Nat) (f : Launch → Launch) : (modLaunch s l f).ctxs = s.ctxs := rfl
@[simp] theorem modLaunch_launches (s : State) (l : Nat) (f : Launch → Launch) : (modLaunch s l f).launches = updWhere (fun x => x.lid == l) f s.launches := rfl
@[simp] theorem modLaunch_devices (s : State) (l : Nat) (f : Launch → Launch) : (modLaunch s l f).devices = s.devices := rfl
@[simp] theorem modLaunch_mills (s : State) (l : Nat) (f : Launch → Launch) : (modLaunch s l f).mills = s.mills := rfl
@[simp] theorem modLaunch_ports (s : State) (l : Nat) (f : Launch → Launch) : (modLaunch s l f).ports = s.ports := rfl
@[simp] theorem modLaunch_copies (s : State) (l : Nat) (f : Launch → Launch) : (modLaunch s l f).copies = s.copies := rfl
@[simp] theorem modLaunch_cores (s : State) (l : Nat) (f : Launch → Launch) : (modLaunch s l f).cores = s.cores := rfl
@[simp] theorem modLaunch_weirs (s : State) (l : Nat) (f : Launch → Launch) : (modLaunch s l f).weirs = s.weirs := rfl
@[simp] theorem modLaunch_sources (s : State) (l : Nat) (f : Launch → Launch) : (modLaunch s l f).sources = s.sources := rfl
@[simp] theorem modLaunch_hops (s : State) (l : Nat) (f : Launch → Launch) : (modLaunch s l f).hops = s.hops := rfl
@[simp] theorem modLaunch_clocks (s : State) (l : Nat) (f : Launch → Launch) : (modLaunch s l f).clocks = s.clocks := rfl
@[simp] theorem modLaunch_eth (s : State) (l : Nat) (f : Launch → Launch) : (modLaunch s l f).eth = s.eth := rfl
@[simp] theorem modLaunch_paths (s : State) (l : Nat) (f : Launch → Launch) : (modLaunch s l f).paths = s.paths := rfl
@[simp] theorem modLaunch_sent (s : State) (l : Nat) (f : Launch → Launch) : (modLaunch s l f).sent = s.sent := rfl
@[simp] theorem modLaunch_answers (s : State) (l : Nat) (f : Launch → Launch) : (modLaunch s l f).answers = s.answers := rfl
@[simp] theorem modLaunch_pairs (s : State) (l : Nat) (f : Launch → Launch) : (modLaunch s l f).pairs = s.pairs := rfl

/-! ### `modDev` -/

@[simp] theorem modDev_hart (s : State) (i : Nat) (f : Device → Device) : (modDev s i f).hart = s.hart := rfl
@[simp] theorem modDev_others (s : State) (i : Nat) (f : Device → Device) : (modDev s i f).others = s.others := rfl
@[simp] theorem modDev_agenda (s : State) (i : Nat) (f : Device → Device) : (modDev s i f).agenda = s.agenda := rfl
@[simp] theorem modDev_cycle (s : State) (i : Nat) (f : Device → Device) : (modDev s i f).cycle = s.cycle := rfl
@[simp] theorem modDev_free (s : State) (i : Nat) (f : Device → Device) : (modDev s i f).free = s.free := rfl
@[simp] theorem modDev_fresh (s : State) (i : Nat) (f : Device → Device) : (modDev s i f).fresh = s.fresh := rfl
@[simp] theorem modDev_pkg (s : State) (i : Nat) (f : Device → Device) : (modDev s i f).pkg = s.pkg := rfl
@[simp] theorem modDev_mem (s : State) (i : Nat) (f : Device → Device) : (modDev s i f).mem = s.mem := rfl
@[simp] theorem modDev_ctxs (s : State) (i : Nat) (f : Device → Device) : (modDev s i f).ctxs = s.ctxs := rfl
@[simp] theorem modDev_launches (s : State) (i : Nat) (f : Device → Device) : (modDev s i f).launches = s.launches := rfl
@[simp] theorem modDev_devices (s : State) (i : Nat) (f : Device → Device) : (modDev s i f).devices = upsert (fun d => d.idx == i) (devDflt i) f s.devices := rfl
@[simp] theorem modDev_mills (s : State) (i : Nat) (f : Device → Device) : (modDev s i f).mills = s.mills := rfl
@[simp] theorem modDev_ports (s : State) (i : Nat) (f : Device → Device) : (modDev s i f).ports = s.ports := rfl
@[simp] theorem modDev_copies (s : State) (i : Nat) (f : Device → Device) : (modDev s i f).copies = s.copies := rfl
@[simp] theorem modDev_cores (s : State) (i : Nat) (f : Device → Device) : (modDev s i f).cores = s.cores := rfl
@[simp] theorem modDev_weirs (s : State) (i : Nat) (f : Device → Device) : (modDev s i f).weirs = s.weirs := rfl
@[simp] theorem modDev_sources (s : State) (i : Nat) (f : Device → Device) : (modDev s i f).sources = s.sources := rfl
@[simp] theorem modDev_hops (s : State) (i : Nat) (f : Device → Device) : (modDev s i f).hops = s.hops := rfl
@[simp] theorem modDev_clocks (s : State) (i : Nat) (f : Device → Device) : (modDev s i f).clocks = s.clocks := rfl
@[simp] theorem modDev_eth (s : State) (i : Nat) (f : Device → Device) : (modDev s i f).eth = s.eth := rfl
@[simp] theorem modDev_paths (s : State) (i : Nat) (f : Device → Device) : (modDev s i f).paths = s.paths := rfl
@[simp] theorem modDev_sent (s : State) (i : Nat) (f : Device → Device) : (modDev s i f).sent = s.sent := rfl
@[simp] theorem modDev_answers (s : State) (i : Nat) (f : Device → Device) : (modDev s i f).answers = s.answers := rfl
@[simp] theorem modDev_pairs (s : State) (i : Nat) (f : Device → Device) : (modDev s i f).pairs = s.pairs := rfl

/-! ### `modCore` -/

@[simp] theorem modCore_hart (s : State) (d c : Nat) (f : Core → Core) : (modCore s d c f).hart = s.hart := rfl
@[simp] theorem modCore_others (s : State) (d c : Nat) (f : Core → Core) : (modCore s d c f).others = s.others := rfl
@[simp] theorem modCore_agenda (s : State) (d c : Nat) (f : Core → Core) : (modCore s d c f).agenda = s.agenda := rfl
@[simp] theorem modCore_cycle (s : State) (d c : Nat) (f : Core → Core) : (modCore s d c f).cycle = s.cycle := rfl
@[simp] theorem modCore_free (s : State) (d c : Nat) (f : Core → Core) : (modCore s d c f).free = s.free := rfl
@[simp] theorem modCore_fresh (s : State) (d c : Nat) (f : Core → Core) : (modCore s d c f).fresh = s.fresh := rfl
@[simp] theorem modCore_pkg (s : State) (d c : Nat) (f : Core → Core) : (modCore s d c f).pkg = s.pkg := rfl
@[simp] theorem modCore_mem (s : State) (d c : Nat) (f : Core → Core) : (modCore s d c f).mem = s.mem := rfl
@[simp] theorem modCore_ctxs (s : State) (d c : Nat) (f : Core → Core) : (modCore s d c f).ctxs = s.ctxs := rfl
@[simp] theorem modCore_launches (s : State) (d c : Nat) (f : Core → Core) : (modCore s d c f).launches = s.launches := rfl
@[simp] theorem modCore_devices (s : State) (d c : Nat) (f : Core → Core) : (modCore s d c f).devices = s.devices := rfl
@[simp] theorem modCore_mills (s : State) (d c : Nat) (f : Core → Core) : (modCore s d c f).mills = s.mills := rfl
@[simp] theorem modCore_ports (s : State) (d c : Nat) (f : Core → Core) : (modCore s d c f).ports = s.ports := rfl
@[simp] theorem modCore_copies (s : State) (d c : Nat) (f : Core → Core) : (modCore s d c f).copies = s.copies := rfl
@[simp] theorem modCore_cores (s : State) (d c : Nat) (f : Core → Core) : (modCore s d c f).cores = upsert (fun x => x.die == d && x.core == c) (coreDflt d c) f s.cores := rfl
@[simp] theorem modCore_weirs (s : State) (d c : Nat) (f : Core → Core) : (modCore s d c f).weirs = s.weirs := rfl
@[simp] theorem modCore_sources (s : State) (d c : Nat) (f : Core → Core) : (modCore s d c f).sources = s.sources := rfl
@[simp] theorem modCore_hops (s : State) (d c : Nat) (f : Core → Core) : (modCore s d c f).hops = s.hops := rfl
@[simp] theorem modCore_clocks (s : State) (d c : Nat) (f : Core → Core) : (modCore s d c f).clocks = s.clocks := rfl
@[simp] theorem modCore_eth (s : State) (d c : Nat) (f : Core → Core) : (modCore s d c f).eth = s.eth := rfl
@[simp] theorem modCore_paths (s : State) (d c : Nat) (f : Core → Core) : (modCore s d c f).paths = s.paths := rfl
@[simp] theorem modCore_sent (s : State) (d c : Nat) (f : Core → Core) : (modCore s d c f).sent = s.sent := rfl
@[simp] theorem modCore_answers (s : State) (d c : Nat) (f : Core → Core) : (modCore s d c f).answers = s.answers := rfl
@[simp] theorem modCore_pairs (s : State) (d c : Nat) (f : Core → Core) : (modCore s d c f).pairs = s.pairs := rfl

/-! ### `modWeir` -/

@[simp] theorem modWeir_hart (s : State) (d c : Nat) (f : Weir → Weir) : (modWeir s d c f).hart = s.hart := rfl
@[simp] theorem modWeir_others (s : State) (d c : Nat) (f : Weir → Weir) : (modWeir s d c f).others = s.others := rfl
@[simp] theorem modWeir_agenda (s : State) (d c : Nat) (f : Weir → Weir) : (modWeir s d c f).agenda = s.agenda := rfl
@[simp] theorem modWeir_cycle (s : State) (d c : Nat) (f : Weir → Weir) : (modWeir s d c f).cycle = s.cycle := rfl
@[simp] theorem modWeir_free (s : State) (d c : Nat) (f : Weir → Weir) : (modWeir s d c f).free = s.free := rfl
@[simp] theorem modWeir_fresh (s : State) (d c : Nat) (f : Weir → Weir) : (modWeir s d c f).fresh = s.fresh := rfl
@[simp] theorem modWeir_pkg (s : State) (d c : Nat) (f : Weir → Weir) : (modWeir s d c f).pkg = s.pkg := rfl
@[simp] theorem modWeir_mem (s : State) (d c : Nat) (f : Weir → Weir) : (modWeir s d c f).mem = s.mem := rfl
@[simp] theorem modWeir_ctxs (s : State) (d c : Nat) (f : Weir → Weir) : (modWeir s d c f).ctxs = s.ctxs := rfl
@[simp] theorem modWeir_launches (s : State) (d c : Nat) (f : Weir → Weir) : (modWeir s d c f).launches = s.launches := rfl
@[simp] theorem modWeir_devices (s : State) (d c : Nat) (f : Weir → Weir) : (modWeir s d c f).devices = s.devices := rfl
@[simp] theorem modWeir_mills (s : State) (d c : Nat) (f : Weir → Weir) : (modWeir s d c f).mills = s.mills := rfl
@[simp] theorem modWeir_ports (s : State) (d c : Nat) (f : Weir → Weir) : (modWeir s d c f).ports = s.ports := rfl
@[simp] theorem modWeir_copies (s : State) (d c : Nat) (f : Weir → Weir) : (modWeir s d c f).copies = s.copies := rfl
@[simp] theorem modWeir_cores (s : State) (d c : Nat) (f : Weir → Weir) : (modWeir s d c f).cores = s.cores := rfl
@[simp] theorem modWeir_weirs (s : State) (d c : Nat) (f : Weir → Weir) : (modWeir s d c f).weirs = upsert (fun x => x.die == d && x.clus == c) (weirDflt d c) f s.weirs := rfl
@[simp] theorem modWeir_sources (s : State) (d c : Nat) (f : Weir → Weir) : (modWeir s d c f).sources = s.sources := rfl
@[simp] theorem modWeir_hops (s : State) (d c : Nat) (f : Weir → Weir) : (modWeir s d c f).hops = s.hops := rfl
@[simp] theorem modWeir_clocks (s : State) (d c : Nat) (f : Weir → Weir) : (modWeir s d c f).clocks = s.clocks := rfl
@[simp] theorem modWeir_eth (s : State) (d c : Nat) (f : Weir → Weir) : (modWeir s d c f).eth = s.eth := rfl
@[simp] theorem modWeir_paths (s : State) (d c : Nat) (f : Weir → Weir) : (modWeir s d c f).paths = s.paths := rfl
@[simp] theorem modWeir_sent (s : State) (d c : Nat) (f : Weir → Weir) : (modWeir s d c f).sent = s.sent := rfl
@[simp] theorem modWeir_answers (s : State) (d c : Nat) (f : Weir → Weir) : (modWeir s d c f).answers = s.answers := rfl
@[simp] theorem modWeir_pairs (s : State) (d c : Nat) (f : Weir → Weir) : (modWeir s d c f).pairs = s.pairs := rfl

/-! ### `setSrc` -/

@[simp] theorem setSrc_hart (s : State) (x : Source) : (setSrc s x).hart = s.hart := rfl
@[simp] theorem setSrc_others (s : State) (x : Source) : (setSrc s x).others = s.others := rfl
@[simp] theorem setSrc_agenda (s : State) (x : Source) : (setSrc s x).agenda = s.agenda := rfl
@[simp] theorem setSrc_cycle (s : State) (x : Source) : (setSrc s x).cycle = s.cycle := rfl
@[simp] theorem setSrc_free (s : State) (x : Source) : (setSrc s x).free = s.free := rfl
@[simp] theorem setSrc_fresh (s : State) (x : Source) : (setSrc s x).fresh = s.fresh := rfl
@[simp] theorem setSrc_pkg (s : State) (x : Source) : (setSrc s x).pkg = s.pkg := rfl
@[simp] theorem setSrc_mem (s : State) (x : Source) : (setSrc s x).mem = s.mem := rfl
@[simp] theorem setSrc_ctxs (s : State) (x : Source) : (setSrc s x).ctxs = s.ctxs := rfl
@[simp] theorem setSrc_launches (s : State) (x : Source) : (setSrc s x).launches = s.launches := rfl
@[simp] theorem setSrc_devices (s : State) (x : Source) : (setSrc s x).devices = s.devices := rfl
@[simp] theorem setSrc_mills (s : State) (x : Source) : (setSrc s x).mills = s.mills := rfl
@[simp] theorem setSrc_ports (s : State) (x : Source) : (setSrc s x).ports = s.ports := rfl
@[simp] theorem setSrc_copies (s : State) (x : Source) : (setSrc s x).copies = s.copies := rfl
@[simp] theorem setSrc_cores (s : State) (x : Source) : (setSrc s x).cores = s.cores := rfl
@[simp] theorem setSrc_weirs (s : State) (x : Source) : (setSrc s x).weirs = s.weirs := rfl
@[simp] theorem setSrc_sources (s : State) (x : Source) : (setSrc s x).sources = upsert (fun y => y.src == x.src) x (fun _ => x) s.sources := rfl
@[simp] theorem setSrc_hops (s : State) (x : Source) : (setSrc s x).hops = s.hops := rfl
@[simp] theorem setSrc_clocks (s : State) (x : Source) : (setSrc s x).clocks = s.clocks := rfl
@[simp] theorem setSrc_eth (s : State) (x : Source) : (setSrc s x).eth = s.eth := rfl
@[simp] theorem setSrc_paths (s : State) (x : Source) : (setSrc s x).paths = s.paths := rfl
@[simp] theorem setSrc_sent (s : State) (x : Source) : (setSrc s x).sent = s.sent := rfl
@[simp] theorem setSrc_answers (s : State) (x : Source) : (setSrc s x).answers = s.answers := rfl
@[simp] theorem setSrc_pairs (s : State) (x : Source) : (setSrc s x).pairs = s.pairs := rfl

end Sys2Proof.Machine
end

