-- ==== Sys2Proof/Laws/Ops.lean ====
section
/-! SUPPORT. The shared operations of a hart: registers, retirement, and what the operations over memory keep. -/

namespace Sys2Proof.Machine

/-! ### Scalar registers -/

@[simp] theorem getX_zero (h : Hart) : getX h 0 = 0 := rfl

@[simp] theorem setXH_zero (h : Hart) (v : Word) (p : Bool) : setXH h 0 v p = h := rfl

/-- The register just written. -/
theorem getX_setXH_same (h : Hart) (r : XReg) (v : Word) (p : Bool) (hr : r ≠ 0) : getX (setXH h r v p) r = v := by
  have h0 : r.val ≠ 0 := fun e => hr (Fin.ext e)
  by_cases hb : (h.ui.act && decide (56 ≤ r.val)) = true
  · have h56 : 56 ≤ r.val := by simp only [Bool.and_eq_true, decide_eq_true_eq] at hb; exact hb.2
    have hl : r.val - 56 < 8 := by omega
    simp [getX, setXH, h0, hb, Vector.toList_setIfInBounds, hl]
  · simp [getX, setXH, h0, hb]

/-- Two names of one register. -/
theorem getX_setXH_other (h : Hart) (r q : XReg) (v : Word) (p : Bool) (hq : q ≠ r) : getX (setXH h r v p) q = getX h q := by
  have hne : r.val ≠ q.val := fun e => hq (Fin.ext e.symm)
  by_cases r0 : r.val = 0
  · simp [setXH, r0]
  · by_cases hb : (h.ui.act && decide (56 ≤ r.val)) = true
    · by_cases q0 : q.val = 0
      · simp [getX, q0]
      · by_cases hc : (h.ui.act && decide (56 ≤ q.val)) = true
        · have hd : r.val - 56 ≠ q.val - 56 := by
            simp only [Bool.and_eq_true, decide_eq_true_eq] at hb hc; omega
          simp [getX, setXH, r0, q0, hb, hc, Vector.toList_setIfInBounds, hd]
        · simp [getX, setXH, r0, q0, hb, hc]
    · by_cases q0 : q.val = 0
      · simp [getX, q0]
      · by_cases hc : (h.ui.act && decide (56 ≤ q.val)) = true
        · simp [getX, setXH, r0, q0, hb, hc]
        · simp only [getX, setXH, r0, q0, hb, hc, if_false, Bool.false_eq_true]
          exact Vector.getElem_set_ne (i := r.val) (j := q.val) _ _ hne

/-- What a register write leaves. -/
theorem setXH_keeps (h : Hart) (r : XReg) (v : Word) (p : Bool) : setXH h r v p = { h with sc := (setXH h r v p).sc } := by
  unfold setXH
  by_cases r0 : r.val = 0
  · simp [r0]
  · by_cases hb : (h.ui.act && decide (56 ≤ r.val)) = true <;> simp [r0, hb]

@[simp] theorem setXH_pc (h : Hart) (r : XReg) (v : Word) (p : Bool) : (setXH h r v p).pc = h.pc := by
  rw [setXH_keeps]

@[simp] theorem setXH_st (h : Hart) (r : XReg) (v : Word) (p : Bool) : (setXH h r v p).st = h.st := by
  rw [setXH_keeps]

@[simp] theorem setXH_own (h : Hart) (r : XReg) (v : Word) (p : Bool) : (setXH h r v p).own = h.own := by
  rw [setXH_keeps]

@[simp] theorem setXH_snap (h : Hart) (r : XReg) (v : Word) (p : Bool) : (setXH h r v p).snap = h.snap := by
  rw [setXH_keeps]

@[simp] theorem setXH_loop0 (h : Hart) (r : XReg) (v : Word) (p : Bool) : (setXH h r v p).loop0 = h.loop0 := by
  rw [setXH_keeps]

@[simp] theorem setXH_loop1 (h : Hart) (r : XReg) (v : Word) (p : Bool) : (setXH h r v p).loop1 = h.loop1 := by
  rw [setXH_keeps]

/-! ### Retirement -/

/-- No end check is made where neither loop is active with this end slot. -/
theorem endCheck_none (h : Hart) (pc : Word) (h1 : h.loop1.lc = 0 ∨ pc ≠ h.loop1.le) (h0 : h.loop0.lc = 0 ∨ pc ≠ h.loop0.le) :
    endCheck h pc = .falls h := by
  simp only [endCheck, loopEnd, if_pos h1, if_pos h0]

/-- The retirement in sequence. -/
theorem retire_seq (s0 s : State) (h1 : s.hart.loop1.lc = 0 ∨ s.hart.pc ≠ s.hart.loop1.le)
    (h0 : s.hart.loop0.lc = 0 ∨ s.hart.pc ≠ s.hart.loop0.le) :
    retire s0 s = { s with hart := retireMarks (nsNow s) { s.hart with pc := nextSlot s.hart.pc, st := { s.hart.st with entry := none } } } := by
  simp only [retire, retireAt, endCheck_none _ _ h1 h0]

/-- A transfer changes the hart alone. -/
@[simp] theorem transfer_mem (s : State) (t : Word) : (transfer s t).mem = s.mem := rfl

/-! ### The canonical form of memory -/

theorem setSrc_wf (s : State) (x : Source) (h : s.mem.wf = true) : (setSrc s x).mem.wf = true := h

theorem areaPut_wf (s : State) (dev off n v : Nat) (h : s.mem.wf = true) : (areaPut s dev off n v).mem.wf = true :=
  devWrite_wf _ _ _ _ h

theorem notify_wf (s : State) (dev head sev : Nat) (h : s.mem.wf = true) : (notify s dev head sev).mem.wf = true := by
  unfold notify
  extract_lets
  repeat' split
  all_goals exact h

theorem appendRec_wf (s : State) (e : EvRec) (seq : Nat) (h : s.mem.wf = true) : (appendRec s e seq).mem.wf = true := by
  unfold appendRec
  dsimp only
  repeat' split
  · exact h
  · exact areaPut_wf _ _ _ _ _ h
  · exact notify_wf _ _ _ _ (areaPut_wf _ _ _ _ _ (areaPut_wf _ _ _ _ _ (devWrite_wf _ _ _ _ h)))

theorem closeOpen_wf (s : State) (src : BitVec 16) (h : s.mem.wf = true) : (closeOpen s src).mem.wf = true := by
  unfold closeOpen
  dsimp only
  split
  · exact h
  · exact appendRec_wf _ _ _ (setSrc_wf _ _ h)

theorem countEv_wf (s : State) (e : EvRec) (h : s.mem.wf = true) : (countEv s e).mem.wf = true := by
  unfold countEv
  extract_lets
  split
  · exact h
  · exact areaPut_wf _ _ _ _ _ h

/-- The canonical form as a property of the whole state. -/
def CellsOk (s : State) : Prop := s.mem.wf = true

theorem ite_ok {c : Prop} [Decidable c] {a b : State} (ha : CellsOk a) (hb : CellsOk b) : CellsOk (if c then a else b) := by
  split <;> assumption

theorem pkg_ok {s : State} (p : Pkg) (h : CellsOk s) : CellsOk { s with pkg := p } := h

theorem recordEv_ok (s : State) (e : EvRec) (h : CellsOk s) : CellsOk (recordEv s e) := by
  have h1 : CellsOk (countEv s e) := countEv_wf s e h
  have h2 : CellsOk (closeOpen (countEv s e) e.src) := closeOpen_wf _ e.src h1
  have h3 : ∀ x n, CellsOk (appendRec (setSrc (closeOpen (countEv s e) e.src) x) e n) :=
    fun x n => appendRec_wf _ e n (setSrc_wf _ x h2)
  unfold recordEv
  refine ite_ok h (ite_ok ?_ (ite_ok (pkg_ok _ (h3 _ _)) (h3 _ _)))
  cases (findSrc (countEv s e) e.src).open_ with
  | none => exact setSrc_wf _ _ h1
  | some p =>
    obtain ⟨o, q⟩ := p
    refine ite_ok (ite_ok ?_ ?_) ?_
    · exact closeOpen_wf _ _ (setSrc_wf _ _ h1)
    · exact setSrc_wf _ _ h1
    · exact setSrc_wf _ _ h2

theorem recordEv_wf (s : State) (e : EvRec) (h : s.mem.wf = true) : (recordEv s e).mem.wf = true := recordEv_ok s e h

/-- Recording an event keeps the canonical form. -/
theorem event_wf (s : State) (src : BitVec 16) (cause sev : Nat) (ctx hart : Option Nat) (addr : Option (Nat × Nat))
    (data : List Byte) (d : Bool) (h : s.mem.wf = true) : (event s src cause sev ctx hart addr data d).mem.wf = true :=
  recordEv_wf _ _ h

@[simp] theorem signalToken_mem (s : State) (c : Nat) (t : BitVec 32) (ok : Bool) : (signalToken s c t ok).mem = s.mem := by
  unfold signalToken; split <;> rfl

theorem scrambleImage_wf (s : State) (h : Hart) (hw : s.mem.wf = true) : (scrambleImage s h).mem.wf = true := by
  unfold scrambleImage
  split
  · exact devWrite_wf _ _ _ _ hw
  · exact devWrite_wf _ _ _ _ hw
  · exact hw

/-- The start of a kill keeps the canonical form. -/
theorem killStart_wf (s : State) (c : Nat) (h : s.mem.wf = true) : (killStart s c).mem.wf = true := by
  unfold killStart
  split
  · exact h
  · split
    · exact h
    · dsimp only
      rw [mapHarts_mem]
      refine foldl_keeps (fun x : State => x.mem.wf = true) _ _ _ ?_ (fun x b _ hx => ?_)
      · show Mem.wf (State.mem _) = true
        exact foldl_keeps (fun x : State => x.mem.wf = true) _ _ _ h (fun x b _ hx => by simpa using hx)
      · split
        · rw [modCore_mem]; exact scrambleImage_wf _ _ hx
        · exact scrambleImage_wf _ _ hx

theorem containedKill_wf (s : State) (src : BitVec 16) (cause ctx : Nat) (hart : Option Nat) (addr : Option (Nat × Nat))
    (data : List Byte) (h : s.mem.wf = true) : (containedKill s src cause ctx hart addr data).mem.wf = true :=
  killStart_wf _ _ (event_wf _ _ _ _ _ _ _ _ _ h)

/-- Consumption of poison keeps the canonical form. -/
theorem poisonKill_wf (s : State) (h : s.mem.wf = true) : (poisonKill s).mem.wf = true := by
  unfold poisonKill
  dsimp only
  split
  · exact event_wf _ _ _ _ _ _ _ _ _ h
  · exact containedKill_wf _ _ _ _ _ _ _ h

theorem doubleTrap_wf (s : State) (h : s.mem.wf = true) : (doubleTrap s).mem.wf = true := by
  unfold doubleTrap
  dsimp only
  split
  · exact event_wf _ _ _ _ _ _ _ _ _ h
  · exact containedKill_wf _ _ _ _ _ _ _ h

/-- Taking a trap keeps the canonical form. -/
theorem takeTrapAt_wf (s : State) (code : Nat) (val pc : Word) (h : s.mem.wf = true) : (takeTrapAt s code val pc).mem.wf = true := by
  unfold takeTrapAt
  split
  · exact doubleTrap_wf _ h
  · exact h

theorem takeTrap_wf (s : State) (code : Nat) (val : Word) (h : s.mem.wf = true) : (takeTrap s code val).mem.wf = true :=
  takeTrapAt_wf _ _ _ _ h

theorem retireAt_wf (s0 s : State) (last : Word) (h0 : s0.mem.wf = true) (h : s.mem.wf = true) :
    (retireAt s0 s last).mem.wf = true := by
  unfold retireAt
  split
  · exact h
  · split
    · exact takeTrap_wf _ _ _ h0
    · exact h

/-- Retiring keeps the canonical form. -/
theorem retire_wf (s0 s : State) (h0 : s0.mem.wf = true) (h : s.mem.wf = true) : (retire s0 s).mem.wf = true :=
  retireAt_wf _ _ _ h0 h

theorem retireSolo_wf (s0 s : State) (h0 : s0.mem.wf = true) (h : s.mem.wf = true) : (retireSolo s0 s).mem.wf = true :=
  retire_wf _ _ h0 h

theorem consume_wf (s : State) (rs : List XReg) (k : State → State) (h : s.mem.wf = true)
    (hk : s.mem.wf = true → (k s).mem.wf = true) : (consume s rs k).mem.wf = true := by
  unfold consume
  split
  · exact poisonKill_wf _ h
  · exact hk h

theorem noKeyEvent_wf (s : State) (ctx va : Nat) (h : s.mem.wf = true) : (noKeyEvent s ctx va).mem.wf = true := by
  unfold noKeyEvent
  repeat' split
  all_goals first | exact h | exact event_wf _ _ _ _ _ _ _ _ _ h

theorem memTrap_wf (s : State) (code : Nat) (ea : Word) (h : s.mem.wf = true) : (memTrap s code ea).mem.wf = true := by
  unfold memTrap
  apply takeTrap_wf
  split
  · exact noKeyEvent_wf _ _ _ h
  · exact h

/-- Undefined bytes keep the canonical form. -/
theorem breakBytes_wf (s : State) (wids locs : List Nat) (h : s.mem.wf = true) : (breakBytes s wids locs).mem.wf = true := by
  unfold breakBytes Mem.wf
  dsimp only
  refine foldl_keeps (fun x => cellsAbove none x = true) _ _ _ h (fun x l _ hx => ?_)
  split
  · exact wf_cellSet hx _ _
  · exact hx

theorem breakCopies_wf (s : State) (loc : Nat) (h : s.mem.wf = true) : (breakCopies s loc).mem.wf = true := by
  unfold breakCopies
  exact foldl_keeps (fun x : State => x.mem.wf = true) _ _ _ h (fun _ _ _ hx => breakBytes_wf _ _ _ hx)

theorem ownStore_wf (s : State) (k : KeyTag) (loc va : Nat) (bs : List Byte) (p : Bool) (h : s.mem.wf = true) :
    (ownStore s k loc va bs p).mem.wf = true := h

/-- A plain read keeps the canonical form. -/
theorem plainRead_wf (s : State) (k : KeyTag) (loc n : Nat) (h : s.mem.wf = true) : (plainRead s k loc n).1.mem.wf = true := by
  unfold plainRead
  dsimp only
  split
  · exact h
  · exact foldl_keeps (fun x : State => x.mem.wf = true) _ _ _ h
      (fun _ _ _ hx => ownStore_wf _ _ _ _ _ _ (breakCopies_wf _ _ hx))

/-- A plain write keeps the canonical form. -/
theorem plainWrite_wf (s : State) (k : KeyTag) (loc va : Nat) (bs : List Byte) (p : Bool) (h : s.mem.wf = true) :
    (plainWrite s k loc va bs p).mem.wf = true := by
  unfold plainWrite
  dsimp only
  split
  · exact ownStore_wf _ _ _ _ _ _ h
  · exact ownStore_wf _ _ _ _ _ _ (foldl_keeps (fun x : State => x.mem.wf = true) _ _ _ h (fun _ _ _ hx => breakCopies_wf _ _ hx))

theorem strongLay_wf (s : State) (k : KeyTag) (loc : Nat) (bs : List Byte) (p q : Bool) (h : s.mem.wf = true) :
    (strongLay s k loc bs p q).mem.wf = true := by
  have h1 := putHome_wf s k loc bs p h
  unfold strongLay
  simpa [Mem.wf, logBytes_cells] using h1

theorem strongWrite_wf (s : State) (k : KeyTag) (loc : Nat) (bs : List Byte) (p q : Bool) (h : s.mem.wf = true) :
    (strongWrite s k loc bs p q).mem.wf = true := strongLay_wf _ _ _ _ _ _ h

theorem scramble_wf (s : State) (k : KeyTag) (loc : Nat) (is : List Nat) (h : s.mem.wf = true) : (scramble s k loc is).mem.wf = true :=
  foldl_keeps (fun x : State => x.mem.wf = true) _ _ _ h (fun x i _ hx => by
    show (putHome x k (loc + i) [_] false).mem.wf = true
    exact putHome_wf _ _ _ _ _ hx)

theorem breakRange_wf (s : State) (loc : Nat) (c : List Nat) (old : List Byte) (h : s.mem.wf = true) :
    (breakRange s loc c old).1.mem.wf = true :=
  foldl_keeps (fun x : State => x.mem.wf = true) _ _ _ h (fun _ _ _ hx => breakCopies_wf _ _ hx)

/-- A strong access keeps the canonical form. -/
theorem strongAccess_wf (s : State) (a : Acc) (n : Nat) (f : Nat → Option (List Byte)) (p : Bool) (h : s.mem.wf = true) :
    (strongAccess s a n f p).1.mem.wf = true := by
  unfold strongAccess
  dsimp only
  have h1 := performOwn_wf s s.hart (earlierStores s.hart.own a.loc n) true h
  have h2 : ∀ (c : Bool) (x : State) (l : List Nat) (o : List Byte), x.mem.wf = true →
      (if c = true then (x, o) else breakRange x a.loc l o).1.mem.wf = true := by
    intro c x l o hx
    cases c
    · exact breakRange_wf _ _ _ _ hx
    · exact hx
  split
  · exact h2 _ _ _ _ (scramble_wf _ _ _ _ h1)
  · exact scramble_wf _ _ _ _ (strongWrite_wf _ _ _ _ _ _ (h2 _ _ _ _ (scramble_wf _ _ _ _ h1)))

theorem ovlTrap_wf (s : State) (ea : Word) (r : OvlRec) (h : s.mem.wf = true) : (ovlTrap s ea r).mem.wf = true :=
  takeTrap_wf _ _ _ (event_wf _ _ _ _ _ _ _ _ _ h)

theorem pinEvent_wf (s : State) (desc link code kind : Nat) (h : s.mem.wf = true) : (pinEvent s desc link code kind).mem.wf = true :=
  event_wf _ _ _ _ _ _ _ _ _ h

theorem pushFree_wf (s : State) (desc : Nat) (d head : Acc) (h : s.mem.wf = true) : (pushFree s desc d head).mem.wf = true :=
  strongAccess_wf _ _ _ _ _ (strongWrite_wf _ _ _ _ _ _ (strongAccess_wf _ _ _ _ _ h))

/-- The release of a pin keeps the canonical form. -/
theorem unpin_wf (s : State) (desc : Nat) (h : s.mem.wf = true) : (unpin s desc).mem.wf = true := by
  unfold unpin
  split
  · exact pinEvent_wf _ _ _ _ _ h
  · split
    · exact pinEvent_wf _ _ _ _ _ h
    · split
      · exact pinEvent_wf _ _ _ _ _ h
      · dsimp only
        split
        · split
          · exact pinEvent_wf _ _ _ _ _ (strongAccess_wf _ _ _ _ _ h)
          · exact pushFree_wf _ _ _ _ (strongAccess_wf _ _ _ _ _ h)
        · exact strongAccess_wf _ _ _ _ _ h

theorem dropPins_wf (s : State) (d : Nat × Bool → Bool) (h : s.mem.wf = true) : (dropPins s d).mem.wf = true := by
  unfold dropPins
  dsimp only
  rw [State.onHart_mem]
  split
  · exact h
  · exact foldl_keeps (fun x : State => x.mem.wf = true) _ _ _ h (fun _ _ _ hx => unpin_wf _ _ hx)

theorem barrierEnd_mem (s : State) (lid level inst : Nat) : (barrierEnd s lid level inst).mem = s.mem := by
  unfold barrierEnd
  repeat' split
  all_goals dsimp only
  all_goals repeat' split
  all_goals rfl

theorem releaseThen_mem (s : State) (a : RelThen) : (releaseThen s a).mem = s.mem := by
  unfold releaseThen
  split
  · rfl
  · split
    · rfl
    · exact barrierEnd_mem _ _ _ _
  · dsimp only; split <;> rfl

/-- Performing a release keeps the canonical form. -/
theorem performOldest_wf (s : State) (h : s.mem.wf = true) : (performOldest s).mem.wf = true := by
  unfold performOldest
  split
  · exact h
  · split
    · exact h
    · dsimp only
      rw [releaseThen_mem, State.onHart_mem]
      split
      · exact dropPins_wf _ _ h
      · show Mem.wf { publish _ _ _ with phase := _ } = true
        exact performOwn_wf _ _ _ false (dropPins_wf s _ h)

theorem flushPend_wf (s : State) (h : s.mem.wf = true) : (flushPend s).mem.wf = true :=
  forN_keeps (fun x : State => x.mem.wf = true) _ _ _ h (fun _ _ _ hx => performOldest_wf _ hx)

theorem afterReleases_wf (s : State) (k : State → State) (h : s.mem.wf = true)
    (hk : ∀ t : State, t.mem.wf = true → (k t).mem.wf = true) : (afterReleases s k).mem.wf = true := by
  unfold afterReleases
  dsimp only
  split
  · exact hk _ (flushPend_wf _ h)
  · exact flushPend_wf _ h

theorem releaseStart_mem (s : State) (sc : Scope) (a : RelThen) (c : Bool) : (releaseStart s sc a c).mem = s.mem := rfl

theorem acquireRetire_wf (s0 s : State) (kind : Nat) (h0 : s0.mem.wf = true) (h : s.mem.wf = true) :
    (acquireRetire s0 s kind).mem.wf = true := by
  unfold acquireRetire
  refine retire_wf _ _ h0 ?_
  rw [State.onHart_mem]
  apply dropPins_wf
  split
  · exact h
  · exact h

/-- An acquire keeps the canonical form. -/
theorem acquireOp_wf (s0 s : State) (sc : Scope) (kind : Nat) (h0 : s0.mem.wf = true) (h : s.mem.wf = true) :
    (acquireOp s0 s sc kind).mem.wf = true := by
  unfold acquireOp
  dsimp only
  split
  · exact h
  · exact acquireRetire_wf _ _ _ h0 h

/-- A scalar load keeps the canonical form. -/
theorem scalarLoad_wf (s : State) (rs : List XReg) (ea : Word) (w : Nat) (put : Nat → Bool → Hart → Hart) (h : s.mem.wf = true) :
    (scalarLoad s rs ea w put).mem.wf = true := by
  unfold scalarLoad
  refine consume_wf _ _ _ h (fun h => ?_)
  dsimp only
  split
  · exact memTrap_wf _ _ _ h
  · split
    · refine afterReleases_wf _ _ h (fun t ht => ?_)
      split
      · exact ovlTrap_wf _ _ _ ht
      · exact retire_wf _ _ ht (strongAccess_wf _ _ _ _ _ ht)
    · exact retire_wf _ _ h (plainRead_wf _ _ _ _ h)

/-- A scalar store keeps the canonical form. -/
theorem scalarStore_wf (s : State) (rs : List XReg) (ea : Word) (bs : List Byte) (p : Bool) (h : s.mem.wf = true) :
    (scalarStore s rs ea bs p).mem.wf = true := by
  unfold scalarStore
  refine consume_wf _ _ _ h (fun h => ?_)
  split
  · exact memTrap_wf _ _ _ h
  · split
    · refine afterReleases_wf _ _ h (fun t ht => ?_)
      split
      · exact ovlTrap_wf _ _ _ ht
      · exact retire_wf _ _ ht (strongAccess_wf _ _ _ _ _ ht)
    · exact retire_wf _ _ h (plainWrite_wf _ _ _ _ _ _ h)

/-- A scalar atomic keeps the canonical form. -/
theorem scalarAtomic_wf (s : State) (rs : List XReg) (ea : Word) (w : Nat) (f : Nat → Option Nat) (p : Bool)
    (put : Nat → Bool → Hart → Hart) (h : s.mem.wf = true) : (scalarAtomic s rs ea w f p put).mem.wf = true := by
  unfold scalarAtomic
  refine consume_wf _ _ _ h (fun h => ?_)
  dsimp only
  split
  · exact memTrap_wf _ _ _ h
  · refine afterReleases_wf _ _ h (fun t ht => ?_)
    split
    · exact ovlTrap_wf _ _ _ ht
    · exact retire_wf _ _ ht (strongAccess_wf _ _ _ _ _ ht)

end Sys2Proof.Machine
end

