-- ==== Sys2Proof/Laws/PerInstr.lean ====
section
/-! SUPPORT. One lemma per instruction: the instructions of the opcode table have a word, and the acts of other agents have none. -/

namespace Sys2Proof.Laws.Encodes

/-- The encoder gives a word exactly to the instructions that a program holds. -/
def Statement (i : Instr) : Prop := (encode i).isSome = !Machine.isEvent i

theorem add : ∀ a0 a1 a2, Statement (.add a0 a1 a2) := fun _ _ _ => rfl
theorem sub : ∀ a0 a1 a2, Statement (.sub a0 a1 a2) := fun _ _ _ => rfl
theorem and_ : ∀ a0 a1 a2, Statement (.and_ a0 a1 a2) := fun _ _ _ => rfl
theorem or_ : ∀ a0 a1 a2, Statement (.or_ a0 a1 a2) := fun _ _ _ => rfl
theorem xor_ : ∀ a0 a1 a2, Statement (.xor_ a0 a1 a2) := fun _ _ _ => rfl
theorem andn : ∀ a0 a1 a2, Statement (.andn a0 a1 a2) := fun _ _ _ => rfl
theorem addw : ∀ a0 a1 a2, Statement (.addw a0 a1 a2) := fun _ _ _ => rfl
theorem subw : ∀ a0 a1 a2, Statement (.subw a0 a1 a2) := fun _ _ _ => rfl
theorem min_ : ∀ a0 a1 a2, Statement (.min_ a0 a1 a2) := fun _ _ _ => rfl
theorem max_ : ∀ a0 a1 a2, Statement (.max_ a0 a1 a2) := fun _ _ _ => rfl
theorem minu : ∀ a0 a1 a2, Statement (.minu a0 a1 a2) := fun _ _ _ => rfl
theorem maxu : ∀ a0 a1 a2, Statement (.maxu a0 a1 a2) := fun _ _ _ => rfl
theorem sll : ∀ a0 a1 a2, Statement (.sll a0 a1 a2) := fun _ _ _ => rfl
theorem srl : ∀ a0 a1 a2, Statement (.srl a0 a1 a2) := fun _ _ _ => rfl
theorem sra : ∀ a0 a1 a2, Statement (.sra a0 a1 a2) := fun _ _ _ => rfl
theorem rol : ∀ a0 a1 a2, Statement (.rol a0 a1 a2) := fun _ _ _ => rfl
theorem ror : ∀ a0 a1 a2, Statement (.ror a0 a1 a2) := fun _ _ _ => rfl
theorem sllw : ∀ a0 a1 a2, Statement (.sllw a0 a1 a2) := fun _ _ _ => rfl
theorem srlw : ∀ a0 a1 a2, Statement (.srlw a0 a1 a2) := fun _ _ _ => rfl
theorem sraw : ∀ a0 a1 a2, Statement (.sraw a0 a1 a2) := fun _ _ _ => rfl
theorem seq : ∀ a0 a1 a2, Statement (.seq a0 a1 a2) := fun _ _ _ => rfl
theorem sne : ∀ a0 a1 a2, Statement (.sne a0 a1 a2) := fun _ _ _ => rfl
theorem slt : ∀ a0 a1 a2, Statement (.slt a0 a1 a2) := fun _ _ _ => rfl
theorem sltu : ∀ a0 a1 a2, Statement (.sltu a0 a1 a2) := fun _ _ _ => rfl
theorem sge : ∀ a0 a1 a2, Statement (.sge a0 a1 a2) := fun _ _ _ => rfl
theorem sgeu : ∀ a0 a1 a2, Statement (.sgeu a0 a1 a2) := fun _ _ _ => rfl
theorem sel : ∀ a0 a1 a2 a3, Statement (.sel a0 a1 a2 a3) := fun _ _ _ _ => rfl
theorem mul : ∀ a0 a1 a2, Statement (.mul a0 a1 a2) := fun _ _ _ => rfl
theorem mulh : ∀ a0 a1 a2, Statement (.mulh a0 a1 a2) := fun _ _ _ => rfl
theorem mulhu : ∀ a0 a1 a2, Statement (.mulhu a0 a1 a2) := fun _ _ _ => rfl
theorem mulhsu : ∀ a0 a1 a2, Statement (.mulhsu a0 a1 a2) := fun _ _ _ => rfl
theorem mulw : ∀ a0 a1 a2, Statement (.mulw a0 a1 a2) := fun _ _ _ => rfl
theorem madd : ∀ a0 a1 a2 a3, Statement (.madd a0 a1 a2 a3) := fun _ _ _ _ => rfl
theorem div : ∀ a0 a1 a2, Statement (.div a0 a1 a2) := fun _ _ _ => rfl
theorem divu : ∀ a0 a1 a2, Statement (.divu a0 a1 a2) := fun _ _ _ => rfl
theorem rem : ∀ a0 a1 a2, Statement (.rem a0 a1 a2) := fun _ _ _ => rfl
theorem remu : ∀ a0 a1 a2, Statement (.remu a0 a1 a2) := fun _ _ _ => rfl
theorem clz : ∀ a0 a1, Statement (.clz a0 a1) := fun _ _ => rfl
theorem ctz : ∀ a0 a1, Statement (.ctz a0 a1) := fun _ _ => rfl
theorem cpop : ∀ a0 a1, Statement (.cpop a0 a1) := fun _ _ => rfl
theorem rev8 : ∀ a0 a1, Statement (.rev8 a0 a1) := fun _ _ => rfl
theorem bext : ∀ a0 a1 a2 a3, Statement (.bext a0 a1 a2 a3) := fun _ _ _ _ => rfl
theorem bexts : ∀ a0 a1 a2 a3, Statement (.bexts a0 a1 a2 a3) := fun _ _ _ _ => rfl
theorem bins : ∀ a0 a1 a2 a3, Statement (.bins a0 a1 a2 a3) := fun _ _ _ _ => rfl
theorem li : ∀ a0 a1, Statement (.li a0 a1) := fun _ _ => rfl
theorem lih : ∀ a0 a1 a2, Statement (.lih a0 a1 a2) := fun _ _ _ => rfl
theorem lea : ∀ a0 a1 a2 a3, Statement (.lea a0 a1 a2 a3) := fun _ _ _ _ => rfl
theorem lca : ∀ a0 a1 a2, Statement (.lca a0 a1 a2) := fun _ _ _ => rfl
theorem fset : ∀ a0 a1, Statement (.fset a0 a1) := fun _ _ => rfl
theorem talloc : ∀ a0 a1, Statement (.talloc a0 a1) := fun _ _ => rfl
theorem tfree : ∀ a0 a1, Statement (.tfree a0 a1) := fun _ _ => rfl
theorem ldb : ∀ a0 a1 a2 a3, Statement (.ldb a0 a1 a2 a3) := fun _ _ _ _ => rfl
theorem ldbu : ∀ a0 a1 a2 a3, Statement (.ldbu a0 a1 a2 a3) := fun _ _ _ _ => rfl
theorem ldh : ∀ a0 a1 a2 a3, Statement (.ldh a0 a1 a2 a3) := fun _ _ _ _ => rfl
theorem ldhu : ∀ a0 a1 a2 a3, Statement (.ldhu a0 a1 a2 a3) := fun _ _ _ _ => rfl
theorem ldw : ∀ a0 a1 a2 a3, Statement (.ldw a0 a1 a2 a3) := fun _ _ _ _ => rfl
theorem ldwu : ∀ a0 a1 a2 a3, Statement (.ldwu a0 a1 a2 a3) := fun _ _ _ _ => rfl
theorem ldd : ∀ a0 a1 a2 a3, Statement (.ldd a0 a1 a2 a3) := fun _ _ _ _ => rfl
theorem ldp : ∀ a0 a1 a2 a3, Statement (.ldp a0 a1 a2 a3) := fun _ _ _ _ => rfl
theorem stb : ∀ a0 a1 a2 a3, Statement (.stb a0 a1 a2 a3) := fun _ _ _ _ => rfl
theorem sth : ∀ a0 a1 a2 a3, Statement (.sth a0 a1 a2 a3) := fun _ _ _ _ => rfl
theorem stw : ∀ a0 a1 a2 a3, Statement (.stw a0 a1 a2 a3) := fun _ _ _ _ => rfl
theorem std : ∀ a0 a1 a2 a3, Statement (.std a0 a1 a2 a3) := fun _ _ _ _ => rfl
theorem stp : ∀ a0 a1 a2 a3, Statement (.stp a0 a1 a2 a3) := fun _ _ _ _ => rfl
theorem amoswap : ∀ a0 a1 a2 a3 a4, Statement (.amoswap a0 a1 a2 a3 a4) := fun _ _ _ _ _ => rfl
theorem amoadd : ∀ a0 a1 a2 a3 a4, Statement (.amoadd a0 a1 a2 a3 a4) := fun _ _ _ _ _ => rfl
theorem amoand : ∀ a0 a1 a2 a3 a4, Statement (.amoand a0 a1 a2 a3 a4) := fun _ _ _ _ _ => rfl
theorem amoor : ∀ a0 a1 a2 a3 a4, Statement (.amoor a0 a1 a2 a3 a4) := fun _ _ _ _ _ => rfl
theorem amoxor : ∀ a0 a1 a2 a3 a4, Statement (.amoxor a0 a1 a2 a3 a4) := fun _ _ _ _ _ => rfl
theorem amomin : ∀ a0 a1 a2 a3 a4, Statement (.amomin a0 a1 a2 a3 a4) := fun _ _ _ _ _ => rfl
theorem amomax : ∀ a0 a1 a2 a3 a4, Statement (.amomax a0 a1 a2 a3 a4) := fun _ _ _ _ _ => rfl
theorem amominu : ∀ a0 a1 a2 a3 a4, Statement (.amominu a0 a1 a2 a3 a4) := fun _ _ _ _ _ => rfl
theorem amomaxu : ∀ a0 a1 a2 a3 a4, Statement (.amomaxu a0 a1 a2 a3 a4) := fun _ _ _ _ _ => rfl
theorem casW : ∀ a0 a1 a2 a3 a4, Statement (.casW a0 a1 a2 a3 a4) := fun _ _ _ _ _ => rfl
theorem casD : ∀ a0 a1 a2 a3 a4, Statement (.casD a0 a1 a2 a3 a4) := fun _ _ _ _ _ => rfl
theorem casQ : ∀ a0 a1 a2 a3 a4, Statement (.casQ a0 a1 a2 a3 a4) := fun _ _ _ _ _ => rfl
theorem j : ∀ a0 a1, Statement (.j a0 a1) := fun _ _ => rfl
theorem call : ∀ a0 a1 a2, Statement (.call a0 a1 a2) := fun _ _ _ => rfl
theorem jr : ∀ a0, Statement (.jr a0) := fun _ => rfl
theorem callr : ∀ a0 a1, Statement (.callr a0 a1) := fun _ _ => rfl
theorem ret : ∀ a0, Statement (.ret a0) := fun _ => rfl
theorem beq : ∀ a0 a1 a2 a3, Statement (.beq a0 a1 a2 a3) := fun _ _ _ _ => rfl
theorem bne : ∀ a0 a1 a2 a3, Statement (.bne a0 a1 a2 a3) := fun _ _ _ _ => rfl
theorem blt : ∀ a0 a1 a2 a3, Statement (.blt a0 a1 a2 a3) := fun _ _ _ _ => rfl
theorem bge : ∀ a0 a1 a2 a3, Statement (.bge a0 a1 a2 a3) := fun _ _ _ _ => rfl
theorem bltu : ∀ a0 a1 a2 a3, Statement (.bltu a0 a1 a2 a3) := fun _ _ _ _ => rfl
theorem bgeu : ∀ a0 a1 a2 a3, Statement (.bgeu a0 a1 a2 a3) := fun _ _ _ _ => rfl
theorem loop0 : ∀ a0 a1 a2, Statement (.loop0 a0 a1 a2) := fun _ _ _ => rfl
theorem loop1 : ∀ a0 a1 a2, Statement (.loop1 a0 a1 a2) := fun _ _ _ => rfl
theorem lpexit0 : Statement .lpexit0 := rfl
theorem lpexit1 : Statement .lpexit1 := rfl
theorem sget : ∀ a0 a1, Statement (.sget a0 a1) := fun _ _ => rfl
theorem sset : ∀ a0 a1, Statement (.sset a0 a1) := fun _ _ => rfl
theorem vlcapWrite : ∀ a0, Statement (.vlcapWrite a0) := fun _ => rfl
theorem rseedWrite : ∀ a0, Statement (.rseedWrite a0) := fun _ => rfl
theorem dmodeWrite : ∀ a0, Statement (.dmodeWrite a0) := fun _ => rfl
theorem loopRegWrite : ∀ a0 a1, Statement (.loopRegWrite a0 a1) := fun _ _ => rfl
theorem sys : ∀ a0, Statement (.sys a0) := fun _ => rfl
theorem brk : ∀ a0, Statement (.brk a0) := fun _ => rfl
theorem tret : Statement .tret := rfl
theorem uiret : Statement .uiret := rfl
theorem tlbinv : ∀ a0, Statement (.tlbinv a0) := fun _ => rfl
theorem tlbinvVa : ∀ a0 a1, Statement (.tlbinvVa a0 a1) := fun _ _ => rfl
theorem fsync : ∀ a0, Statement (.fsync a0) := fun _ => rfl
theorem keyset : ∀ a0 a1 a2, Statement (.keyset a0 a1 a2) := fun _ _ _ => rfl
theorem keydel : ∀ a0 a1, Statement (.keydel a0 a1) := fun _ _ => rfl
theorem ctxnew : ∀ a0 a1, Statement (.ctxnew a0 a1) := fun _ _ => rfl
theorem ctxkill : ∀ a0 a1, Statement (.ctxkill a0 a1) := fun _ _ => rfl
theorem qbind : ∀ a0 a1 a2, Statement (.qbind a0 a1 a2) := fun _ _ _ => rfl
theorem qunbind : ∀ a0 a1 a2, Statement (.qunbind a0 a1 a2) := fun _ _ _ => rfl
theorem qpause : ∀ a0 a1 a2, Statement (.qpause a0 a1 a2) := fun _ _ _ => rfl
theorem qresume : ∀ a0 a1 a2, Statement (.qresume a0 a1 a2) := fun _ _ _ => rfl
theorem qappend : ∀ a0 a1 a2, Statement (.qappend a0 a1 a2) := fun _ _ _ => rfl
theorem scrub : ∀ a0 a1 a2, Statement (.scrub a0 a1 a2) := fun _ _ _ => rfl
theorem vcfg : ∀ a0 a1 a2, Statement (.vcfg a0 a1 a2) := fun _ _ _ => rfl
theorem vcfgi : ∀ a0 a1 a2, Statement (.vcfgi a0 a1 a2) := fun _ _ _ => rfl
theorem vcfgn : ∀ a0 a1 a2, Statement (.vcfgn a0 a1 a2) := fun _ _ _ => rfl
theorem vcfgmax : ∀ a0 a1, Statement (.vcfgmax a0 a1) := fun _ _ => rfl
theorem vspace : ∀ a0, Statement (.vspace a0) := fun _ => rfl
theorem vspacex : ∀ a0, Statement (.vspacex a0) := fun _ => rfl
theorem vsetre : ∀ a0 a1 a2 a3, Statement (.vsetre a0 a1 a2 a3) := fun _ _ _ _ => rfl
theorem vld : ∀ a0 a1 a2 a3 a4 a5, Statement (.vld a0 a1 a2 a3 a4 a5) := fun _ _ _ _ _ _ => rfl
theorem vlds : ∀ a0 a1 a2 a3 a4 a5 a6, Statement (.vlds a0 a1 a2 a3 a4 a5 a6) := fun _ _ _ _ _ _ _ => rfl
theorem vldx : ∀ a0 a1 a2 a3 a4 a5 a6 a7, Statement (.vldx a0 a1 a2 a3 a4 a5 a6 a7) := fun _ _ _ _ _ _ _ _ => rfl
theorem vldux : ∀ a0 a1 a2 a3 a4 a5 a6 a7, Statement (.vldux a0 a1 a2 a3 a4 a5 a6 a7) := fun _ _ _ _ _ _ _ _ => rfl
theorem vldff : ∀ a0 a1 a2 a3 a4 a5, Statement (.vldff a0 a1 a2 a3 a4 a5) := fun _ _ _ _ _ _ => rfl
theorem vlm : ∀ a0 a1 a2, Statement (.vlm a0 a1 a2) := fun _ _ _ => rfl
theorem vst : ∀ a0 a1 a2 a3 a4 a5, Statement (.vst a0 a1 a2 a3 a4 a5) := fun _ _ _ _ _ _ => rfl
theorem vsts : ∀ a0 a1 a2 a3 a4 a5 a6, Statement (.vsts a0 a1 a2 a3 a4 a5 a6) := fun _ _ _ _ _ _ _ => rfl
theorem vstx : ∀ a0 a1 a2 a3 a4 a5 a6 a7, Statement (.vstx a0 a1 a2 a3 a4 a5 a6 a7) := fun _ _ _ _ _ _ _ _ => rfl
theorem vstux : ∀ a0 a1 a2 a3 a4 a5 a6 a7, Statement (.vstux a0 a1 a2 a3 a4 a5 a6 a7) := fun _ _ _ _ _ _ _ _ => rfl
theorem vsm : ∀ a0 a1 a2, Statement (.vsm a0 a1 a2) := fun _ _ _ => rfl
theorem vamoswap : ∀ a0 a1 a2 a3 a4 a5 a6 a7, Statement (.vamoswap a0 a1 a2 a3 a4 a5 a6 a7) := fun _ _ _ _ _ _ _ _ => rfl
theorem vamoadd : ∀ a0 a1 a2 a3 a4 a5 a6 a7, Statement (.vamoadd a0 a1 a2 a3 a4 a5 a6 a7) := fun _ _ _ _ _ _ _ _ => rfl
theorem vamoand : ∀ a0 a1 a2 a3 a4 a5 a6 a7, Statement (.vamoand a0 a1 a2 a3 a4 a5 a6 a7) := fun _ _ _ _ _ _ _ _ => rfl
theorem vamoor : ∀ a0 a1 a2 a3 a4 a5 a6 a7, Statement (.vamoor a0 a1 a2 a3 a4 a5 a6 a7) := fun _ _ _ _ _ _ _ _ => rfl
theorem vamoxor : ∀ a0 a1 a2 a3 a4 a5 a6 a7, Statement (.vamoxor a0 a1 a2 a3 a4 a5 a6 a7) := fun _ _ _ _ _ _ _ _ => rfl
theorem vamomin : ∀ a0 a1 a2 a3 a4 a5 a6 a7, Statement (.vamomin a0 a1 a2 a3 a4 a5 a6 a7) := fun _ _ _ _ _ _ _ _ => rfl
theorem vamomax : ∀ a0 a1 a2 a3 a4 a5 a6 a7, Statement (.vamomax a0 a1 a2 a3 a4 a5 a6 a7) := fun _ _ _ _ _ _ _ _ => rfl
theorem vamominu : ∀ a0 a1 a2 a3 a4 a5 a6 a7, Statement (.vamominu a0 a1 a2 a3 a4 a5 a6 a7) := fun _ _ _ _ _ _ _ _ => rfl
theorem vamomaxu : ∀ a0 a1 a2 a3 a4 a5 a6 a7, Statement (.vamomaxu a0 a1 a2 a3 a4 a5 a6 a7) := fun _ _ _ _ _ _ _ _ => rfl
theorem vamofadd : ∀ a0 a1 a2 a3 a4 a5 a6 a7, Statement (.vamofadd a0 a1 a2 a3 a4 a5 a6 a7) := fun _ _ _ _ _ _ _ _ => rfl
theorem vcas : ∀ a0 a1 a2 a3 a4 a5 a6 a7, Statement (.vcas a0 a1 a2 a3 a4 a5 a6 a7) := fun _ _ _ _ _ _ _ _ => rfl
theorem mand : ∀ a0 a1 a2, Statement (.mand a0 a1 a2) := fun _ _ _ => rfl
theorem mnand : ∀ a0 a1 a2, Statement (.mnand a0 a1 a2) := fun _ _ _ => rfl
theorem mandn : ∀ a0 a1 a2, Statement (.mandn a0 a1 a2) := fun _ _ _ => rfl
theorem mor : ∀ a0 a1 a2, Statement (.mor a0 a1 a2) := fun _ _ _ => rfl
theorem mnor : ∀ a0 a1 a2, Statement (.mnor a0 a1 a2) := fun _ _ _ => rfl
theorem morn : ∀ a0 a1 a2, Statement (.morn a0 a1 a2) := fun _ _ _ => rfl
theorem mxor : ∀ a0 a1 a2, Statement (.mxor a0 a1 a2) := fun _ _ _ => rfl
theorem mxnor : ∀ a0 a1 a2, Statement (.mxnor a0 a1 a2) := fun _ _ _ => rfl
theorem mcount : ∀ a0 a1 a2, Statement (.mcount a0 a1 a2) := fun _ _ _ => rfl
theorem mfind : ∀ a0 a1 a2, Statement (.mfind a0 a1 a2) := fun _ _ _ => rfl
theorem mcutLt : ∀ a0 a1 a2, Statement (.mcutLt a0 a1 a2) := fun _ _ _ => rfl
theorem mcutLe : ∀ a0 a1 a2, Statement (.mcutLe a0 a1 a2) := fun _ _ _ => rfl
theorem mcutEq : ∀ a0 a1 a2, Statement (.mcutEq a0 a1 a2) := fun _ _ _ => rfl
theorem vrank : ∀ a0 a1 a2, Statement (.vrank a0 a1 a2) := fun _ _ _ => rfl
theorem vindex : ∀ a0 a1, Statement (.vindex a0 a1) := fun _ _ => rfl
theorem vadd : ∀ a0 a1 a2 a3 a4 a5 a6, Statement (.vadd a0 a1 a2 a3 a4 a5 a6) := fun _ _ _ _ _ _ _ => rfl
theorem vsub : ∀ a0 a1 a2 a3 a4 a5 a6, Statement (.vsub a0 a1 a2 a3 a4 a5 a6) := fun _ _ _ _ _ _ _ => rfl
theorem vrsub : ∀ a0 a1 a2 a3 a4 a5 a6, Statement (.vrsub a0 a1 a2 a3 a4 a5 a6) := fun _ _ _ _ _ _ _ => rfl
theorem vmul : ∀ a0 a1 a2 a3 a4 a5 a6, Statement (.vmul a0 a1 a2 a3 a4 a5 a6) := fun _ _ _ _ _ _ _ => rfl
theorem vmulh : ∀ a0 a1 a2 a3 a4 a5 a6, Statement (.vmulh a0 a1 a2 a3 a4 a5 a6) := fun _ _ _ _ _ _ _ => rfl
theorem vdiv : ∀ a0 a1 a2 a3 a4 a5 a6, Statement (.vdiv a0 a1 a2 a3 a4 a5 a6) := fun _ _ _ _ _ _ _ => rfl
theorem vrem : ∀ a0 a1 a2 a3 a4 a5 a6, Statement (.vrem a0 a1 a2 a3 a4 a5 a6) := fun _ _ _ _ _ _ _ => rfl
theorem vmacc : ∀ a0 a1 a2 a3 a4 a5 a6, Statement (.vmacc a0 a1 a2 a3 a4 a5 a6) := fun _ _ _ _ _ _ _ => rfl
theorem vabsd : ∀ a0 a1 a2 a3 a4 a5 a6, Statement (.vabsd a0 a1 a2 a3 a4 a5 a6) := fun _ _ _ _ _ _ _ => rfl
theorem vavg : ∀ a0 a1 a2 a3 a4 a5 a6 a7, Statement (.vavg a0 a1 a2 a3 a4 a5 a6 a7) := fun _ _ _ _ _ _ _ _ => rfl
theorem vand : ∀ a0 a1 a2 a3 a4 a5 a6, Statement (.vand a0 a1 a2 a3 a4 a5 a6) := fun _ _ _ _ _ _ _ => rfl
theorem vor : ∀ a0 a1 a2 a3 a4 a5 a6, Statement (.vor a0 a1 a2 a3 a4 a5 a6) := fun _ _ _ _ _ _ _ => rfl
theorem vxor : ∀ a0 a1 a2 a3 a4 a5 a6, Statement (.vxor a0 a1 a2 a3 a4 a5 a6) := fun _ _ _ _ _ _ _ => rfl
theorem vsll : ∀ a0 a1 a2 a3 a4 a5 a6, Statement (.vsll a0 a1 a2 a3 a4 a5 a6) := fun _ _ _ _ _ _ _ => rfl
theorem vsrl : ∀ a0 a1 a2 a3 a4 a5 a6, Statement (.vsrl a0 a1 a2 a3 a4 a5 a6) := fun _ _ _ _ _ _ _ => rfl
theorem vsra : ∀ a0 a1 a2 a3 a4 a5 a6, Statement (.vsra a0 a1 a2 a3 a4 a5 a6) := fun _ _ _ _ _ _ _ => rfl
theorem vfadd : ∀ a0 a1 a2 a3 a4 a5 a6 a7, Statement (.vfadd a0 a1 a2 a3 a4 a5 a6 a7) := fun _ _ _ _ _ _ _ _ => rfl
theorem vfsub : ∀ a0 a1 a2 a3 a4 a5 a6 a7, Statement (.vfsub a0 a1 a2 a3 a4 a5 a6 a7) := fun _ _ _ _ _ _ _ _ => rfl
theorem vfrsub : ∀ a0 a1 a2 a3 a4 a5 a6 a7, Statement (.vfrsub a0 a1 a2 a3 a4 a5 a6 a7) := fun _ _ _ _ _ _ _ _ => rfl
theorem vfmul : ∀ a0 a1 a2 a3 a4 a5 a6 a7, Statement (.vfmul a0 a1 a2 a3 a4 a5 a6 a7) := fun _ _ _ _ _ _ _ _ => rfl
theorem vfdiv : ∀ a0 a1 a2 a3 a4 a5 a6 a7, Statement (.vfdiv a0 a1 a2 a3 a4 a5 a6 a7) := fun _ _ _ _ _ _ _ _ => rfl
theorem vfrdiv : ∀ a0 a1 a2 a3 a4 a5 a6 a7, Statement (.vfrdiv a0 a1 a2 a3 a4 a5 a6 a7) := fun _ _ _ _ _ _ _ _ => rfl
theorem vfmacc : ∀ a0 a1 a2 a3 a4 a5 a6 a7, Statement (.vfmacc a0 a1 a2 a3 a4 a5 a6 a7) := fun _ _ _ _ _ _ _ _ => rfl
theorem vfnmacc : ∀ a0 a1 a2 a3 a4 a5 a6 a7, Statement (.vfnmacc a0 a1 a2 a3 a4 a5 a6 a7) := fun _ _ _ _ _ _ _ _ => rfl
theorem vfmsac : ∀ a0 a1 a2 a3 a4 a5 a6 a7, Statement (.vfmsac a0 a1 a2 a3 a4 a5 a6 a7) := fun _ _ _ _ _ _ _ _ => rfl
theorem vfnmsac : ∀ a0 a1 a2 a3 a4 a5 a6 a7, Statement (.vfnmsac a0 a1 a2 a3 a4 a5 a6 a7) := fun _ _ _ _ _ _ _ _ => rfl
theorem vfma : ∀ a0 a1 a2 a3 a4 a5 a6 a7 a8, Statement (.vfma a0 a1 a2 a3 a4 a5 a6 a7 a8) := fun _ _ _ _ _ _ _ _ _ => rfl
theorem vfsgnj : ∀ a0 a1 a2 a3 a4 a5 a6 a7, Statement (.vfsgnj a0 a1 a2 a3 a4 a5 a6 a7) := fun _ _ _ _ _ _ _ _ => rfl
theorem vfsgnjn : ∀ a0 a1 a2 a3 a4 a5 a6 a7, Statement (.vfsgnjn a0 a1 a2 a3 a4 a5 a6 a7) := fun _ _ _ _ _ _ _ _ => rfl
theorem vfsgnjx : ∀ a0 a1 a2 a3 a4 a5 a6 a7, Statement (.vfsgnjx a0 a1 a2 a3 a4 a5 a6 a7) := fun _ _ _ _ _ _ _ _ => rfl
theorem vfclass : ∀ a0 a1 a2 a3 a4, Statement (.vfclass a0 a1 a2 a3 a4) := fun _ _ _ _ _ => rfl
theorem vmin : ∀ a0 a1 a2 a3 a4 a5 a6 a7, Statement (.vmin a0 a1 a2 a3 a4 a5 a6 a7) := fun _ _ _ _ _ _ _ _ => rfl
theorem vmax : ∀ a0 a1 a2 a3 a4 a5 a6 a7, Statement (.vmax a0 a1 a2 a3 a4 a5 a6 a7) := fun _ _ _ _ _ _ _ _ => rfl
theorem vmeq : ∀ a0 a1 a2 a3 a4 a5, Statement (.vmeq a0 a1 a2 a3 a4 a5) := fun _ _ _ _ _ _ => rfl
theorem vmne : ∀ a0 a1 a2 a3 a4 a5, Statement (.vmne a0 a1 a2 a3 a4 a5) := fun _ _ _ _ _ _ => rfl
theorem vmlt : ∀ a0 a1 a2 a3 a4 a5, Statement (.vmlt a0 a1 a2 a3 a4 a5) := fun _ _ _ _ _ _ => rfl
theorem vmle : ∀ a0 a1 a2 a3 a4 a5, Statement (.vmle a0 a1 a2 a3 a4 a5) := fun _ _ _ _ _ _ => rfl
theorem vmgt : ∀ a0 a1 a2 a3 a4 a5, Statement (.vmgt a0 a1 a2 a3 a4 a5) := fun _ _ _ _ _ _ => rfl
theorem vmge : ∀ a0 a1 a2 a3 a4 a5, Statement (.vmge a0 a1 a2 a3 a4 a5) := fun _ _ _ _ _ _ => rfl
theorem vmerge : ∀ a0 a1 a2 a3 a4 a5 a6 a7, Statement (.vmerge a0 a1 a2 a3 a4 a5 a6 a7) := fun _ _ _ _ _ _ _ _ => rfl
theorem vsplat : ∀ a0 a1 a2 a3 a4 a5, Statement (.vsplat a0 a1 a2 a3 a4 a5) := fun _ _ _ _ _ _ => rfl
theorem vbfly : ∀ a0 a1 a2 a3 a4 a5 a6 a7 a8, Statement (.vbfly a0 a1 a2 a3 a4 a5 a6 a7 a8) := fun _ _ _ _ _ _ _ _ _ => rfl
theorem vcvt : ∀ a0 a1 a2 a3 a4 a5, Statement (.vcvt a0 a1 a2 a3 a4 a5) := fun _ _ _ _ _ _ => rfl
theorem vcvtbs : ∀ a0 a1 a2 a3 a4 a5 a6 a7, Statement (.vcvtbs a0 a1 a2 a3 a4 a5 a6 a7) := fun _ _ _ _ _ _ _ _ => rfl
theorem vcvtbd : ∀ a0 a1 a2 a3 a4 a5 a6, Statement (.vcvtbd a0 a1 a2 a3 a4 a5 a6) := fun _ _ _ _ _ _ _ => rfl
theorem vexp : ∀ a0 a1 a2 a3 a4 a5, Statement (.vexp a0 a1 a2 a3 a4 a5) := fun _ _ _ _ _ _ => rfl
theorem vexp2 : ∀ a0 a1 a2 a3 a4 a5, Statement (.vexp2 a0 a1 a2 a3 a4 a5) := fun _ _ _ _ _ _ => rfl
theorem vlog2 : ∀ a0 a1 a2 a3 a4 a5, Statement (.vlog2 a0 a1 a2 a3 a4 a5) := fun _ _ _ _ _ _ => rfl
theorem vrcp : ∀ a0 a1 a2 a3 a4 a5, Statement (.vrcp a0 a1 a2 a3 a4 a5) := fun _ _ _ _ _ _ => rfl
theorem vrsqrt : ∀ a0 a1 a2 a3 a4 a5, Statement (.vrsqrt a0 a1 a2 a3 a4 a5) := fun _ _ _ _ _ _ => rfl
theorem vsqrt : ∀ a0 a1 a2 a3 a4 a5, Statement (.vsqrt a0 a1 a2 a3 a4 a5) := fun _ _ _ _ _ _ => rfl
theorem vsin : ∀ a0 a1 a2 a3 a4 a5, Statement (.vsin a0 a1 a2 a3 a4 a5) := fun _ _ _ _ _ _ => rfl
theorem vcos : ∀ a0 a1 a2 a3 a4 a5, Statement (.vcos a0 a1 a2 a3 a4 a5) := fun _ _ _ _ _ _ => rfl
theorem vtanh : ∀ a0 a1 a2 a3 a4 a5, Statement (.vtanh a0 a1 a2 a3 a4 a5) := fun _ _ _ _ _ _ => rfl
theorem vsigmoid : ∀ a0 a1 a2 a3 a4 a5, Statement (.vsigmoid a0 a1 a2 a3 a4 a5) := fun _ _ _ _ _ _ => rfl
theorem verf : ∀ a0 a1 a2 a3 a4 a5, Statement (.verf a0 a1 a2 a3 a4 a5) := fun _ _ _ _ _ _ => rfl
theorem vlift : ∀ a0 a1 a2 a3 a4, Statement (.vlift a0 a1 a2 a3 a4) := fun _ _ _ _ _ => rfl
theorem vdrop : ∀ a0 a1 a2 a3 a4, Statement (.vdrop a0 a1 a2 a3 a4) := fun _ _ _ _ _ => rfl
theorem vliftx : ∀ a0 a1 a2 a3 a4, Statement (.vliftx a0 a1 a2 a3 a4) := fun _ _ _ _ _ => rfl
theorem vdropx : ∀ a0 a1 a2 a3 a4, Statement (.vdropx a0 a1 a2 a3 a4) := fun _ _ _ _ _ => rfl
theorem vpick : ∀ a0 a1 a2 a3 a4 a5, Statement (.vpick a0 a1 a2 a3 a4 a5) := fun _ _ _ _ _ _ => rfl
theorem vpack : ∀ a0 a1 a2 a3, Statement (.vpack a0 a1 a2 a3) := fun _ _ _ _ => rfl
theorem vget : ∀ a0 a1 a2, Statement (.vget a0 a1 a2) := fun _ _ _ => rfl
theorem vplace : ∀ a0 a1 a2, Statement (.vplace a0 a1 a2) := fun _ _ _ => rfl
theorem vfredosum : ∀ a0 a1 a2 a3 a4 a5 a6, Statement (.vfredosum a0 a1 a2 a3 a4 a5 a6) := fun _ _ _ _ _ _ _ => rfl
theorem vfredusum : ∀ a0 a1 a2 a3 a4 a5 a6, Statement (.vfredusum a0 a1 a2 a3 a4 a5 a6) := fun _ _ _ _ _ _ _ => rfl
theorem vfredmax : ∀ a0 a1 a2 a3 a4 a5 a6, Statement (.vfredmax a0 a1 a2 a3 a4 a5 a6) := fun _ _ _ _ _ _ _ => rfl
theorem vfredmin : ∀ a0 a1 a2 a3 a4 a5 a6, Statement (.vfredmin a0 a1 a2 a3 a4 a5 a6) := fun _ _ _ _ _ _ _ => rfl
theorem vredsum : ∀ a0 a1 a2 a3 a4 a5 a6, Statement (.vredsum a0 a1 a2 a3 a4 a5 a6) := fun _ _ _ _ _ _ _ => rfl
theorem vappend : ∀ a0 a1 a2 a3 a4, Statement (.vappend a0 a1 a2 a3 a4) := fun _ _ _ _ _ => rfl
theorem amodeWs : ∀ a0, Statement (.amodeWs a0) := fun _ => rfl
theorem amodeRs : ∀ a0, Statement (.amodeRs a0) := fun _ => rfl
theorem vmode : Statement .vmode := rfl
theorem wld : ∀ a0 a1 a2, Statement (.wld a0 a1 a2) := fun _ _ _ => rfl
theorem wst : ∀ a0 a1, Statement (.wst a0 a1) := fun _ _ => rfl
theorem mrow : ∀ a0 a1 a2 a3 a4 a5 a6, Statement (.mrow a0 a1 a2 a3 a4 a5 a6) := fun _ _ _ _ _ _ _ => rfl
theorem mrowAcc : ∀ a0 a1 a2 a3 a4 a5 a6, Statement (.mrowAcc a0 a1 a2 a3 a4 a5 a6) := fun _ _ _ _ _ _ _ => rfl
theorem mslide : ∀ a0 a1 a2 a3 a4 a5, Statement (.mslide a0 a1 a2 a3 a4 a5) := fun _ _ _ _ _ _ => rfl
theorem mslideAcc : ∀ a0 a1 a2 a3 a4 a5, Statement (.mslideAcc a0 a1 a2 a3 a4 a5) := fun _ _ _ _ _ _ => rfl
theorem macc : ∀ a0 a1 a2 a3 a4 a5, Statement (.macc a0 a1 a2 a3 a4 a5) := fun _ _ _ _ _ _ => rfl
theorem maccz : ∀ a0 a1 a2 a3 a4 a5, Statement (.maccz a0 a1 a2 a3 a4 a5) := fun _ _ _ _ _ _ => rfl
theorem mdrain : ∀ a0 a1 a2, Statement (.mdrain a0 a1 a2) := fun _ _ _ => rfl
theorem achain : ∀ a0 a1, Statement (.achain a0 a1) := fun _ _ => rfl
theorem aunchain : Statement .aunchain := rfl
theorem phase : ∀ a0, Statement (.phase a0) := fun _ => rfl
theorem phaseRel : ∀ a0, Statement (.phaseRel a0) := fun _ => rfl
theorem phaseAcq : ∀ a0, Statement (.phaseAcq a0) := fun _ => rfl
theorem phaseL : ∀ a0, Statement (.phaseL a0) := fun _ => rfl
theorem phaseRelL : ∀ a0, Statement (.phaseRelL a0) := fun _ => rfl
theorem phaseAcqL : ∀ a0, Statement (.phaseAcqL a0) := fun _ => rfl
theorem hpload : ∀ a0, Statement (.hpload a0) := fun _ => rfl
theorem hsig : ∀ a0 a1 a2, Statement (.hsig a0 a1 a2) := fun _ _ _ => rfl
theorem kst : ∀ a0 a1 a2 a3, Statement (.kst a0 a1 a2 a3) := fun _ _ _ _ => rfl
theorem bgath : ∀ a0 a1 a2 a3, Statement (.bgath a0 a1 a2 a3) := fun _ _ _ _ => rfl
theorem bgathDft : ∀ a0 a1 a2 a3, Statement (.bgathDft a0 a1 a2 a3) := fun _ _ _ _ => rfl
theorem bxlatK : ∀ a0 a1, Statement (.bxlatK a0 a1) := fun _ _ => rfl
theorem bxlatV : ∀ a0 a1, Statement (.bxlatV a0 a1) := fun _ _ => rfl
theorem respin : ∀ a0 a1 a2, Statement (.respin a0 a1 a2) := fun _ _ _ => rfl
theorem resrel : ∀ a0 a1, Statement (.resrel a0 a1) := fun _ _ => rfl
theorem pgref : ∀ a0 a1, Statement (.pgref a0 a1) := fun _ _ => rfl
theorem pgunref : ∀ a0 a1 a2, Statement (.pgunref a0 a1 a2) := fun _ _ _ => rfl
theorem strm : ∀ a0 a1, Statement (.strm a0 a1) := fun _ _ => rfl
theorem strmV : ∀ a0 a1 a2, Statement (.strmV a0 a1 a2) := fun _ _ _ => rfl
theorem strmw : ∀ a0, Statement (.strmw a0) := fun _ => rfl
theorem crwait : ∀ a0 a1 a2, Statement (.crwait a0 a1 a2) := fun _ _ _ => rfl
theorem crpop : ∀ a0 a1, Statement (.crpop a0 a1) := fun _ _ => rfl
theorem tmark : ∀ a0, Statement (.tmark a0) := fun _ => rfl
theorem tmarkNc : ∀ a0, Statement (.tmarkNc a0) := fun _ => rfl
theorem tmwait : ∀ a0 a1, Statement (.tmwait a0 a1) := fun _ _ => rfl
theorem tmwaive : ∀ a0, Statement (.tmwaive a0) := fun _ => rfl
theorem tmcnt : ∀ a0 a1, Statement (.tmcnt a0 a1) := fun _ _ => rfl
theorem barArrive : ∀ a0 a1, Statement (.barArrive a0 a1) := fun _ _ => rfl
theorem barWait : ∀ a0 a1, Statement (.barWait a0 a1) := fun _ _ => rfl
theorem barSync : ∀ a0, Statement (.barSync a0) := fun _ => rfl
theorem mcast : ∀ a0 a1, Statement (.mcast a0 a1) := fun _ _ => rfl
theorem mrecv : ∀ a0, Statement (.mrecv a0) := fun _ => rfl
theorem yield_ : Statement .yield_ := rfl
theorem sleep : ∀ a0 a1, Statement (.sleep a0 a1) := fun _ _ => rfl
theorem modeChangeDone : Statement .modeChangeDone := rfl
theorem modeEnterDone : ∀ a0, Statement (.modeEnterDone a0) := fun _ => rfl
theorem arrayDrainDone : ∀ a0, Statement (.arrayDrainDone a0) := fun _ => rfl
theorem chainComplete : ∀ a0, Statement (.chainComplete a0) := fun _ => rfl
theorem releasePerform : ∀ a0, Statement (.releasePerform a0) := fun _ => rfl
theorem acquireHoldEnd : ∀ a0, Statement (.acquireHoldEnd a0) := fun _ => rfl
theorem respinFill : ∀ a0 a1 a2, Statement (.respinFill a0 a1 a2) := fun _ _ _ => rfl
theorem streamStart : ∀ a0 a1 a2 a3, Statement (.streamStart a0 a1 a2 a3) := fun _ _ _ _ => rfl
theorem recordAppend : ∀ a0 a1 a2, Statement (.recordAppend a0 a1 a2) := fun _ _ _ => rfl
theorem uiDelivery : ∀ a0, Statement (.uiDelivery a0) := fun _ => rfl
theorem waitWake : ∀ a0, Statement (.waitWake a0) := fun _ => rfl
theorem timetableRead : ∀ a0 a1, Statement (.timetableRead a0 a1) := fun _ _ => rfl
theorem millraceActionStart : ∀ a0 a1, Statement (.millraceActionStart a0 a1) := fun _ _ => rfl
theorem actionSettle : ∀ a0 a1 a2, Statement (.actionSettle a0 a1 a2) := fun _ _ _ => rfl
theorem barrierGenEnd : ∀ a0 a1 a2, Statement (.barrierGenEnd a0 a1 a2) := fun _ _ _ => rfl
theorem mcastAppend : ∀ a0, Statement (.mcastAppend a0) := fun _ => rfl
theorem packageReset : Statement .packageReset := rfl
theorem launchTake : ∀ a0 a1, Statement (.launchTake a0 a1) := fun _ _ => rfl
theorem dependenceFail : ∀ a0, Statement (.dependenceFail a0) := fun _ => rfl
theorem placementRound : ∀ a0, Statement (.placementRound a0) := fun _ => rfl
theorem yieldDeadline : ∀ a0 a1, Statement (.yieldDeadline a0 a1) := fun _ _ => rfl
theorem shadowSwitch : ∀ a0, Statement (.shadowSwitch a0) := fun _ => rfl
theorem spillRegDone : ∀ a0 a1, Statement (.spillRegDone a0 a1) := fun _ _ => rfl
theorem imageWriteback : ∀ a0, Statement (.imageWriteback a0) := fun _ => rfl
theorem restore : ∀ a0 a1 a2 a3, Statement (.restore a0 a1 a2 a3) := fun _ _ _ _ => rfl
theorem hartEnd : ∀ a0, Statement (.hartEnd a0) := fun _ => rfl
theorem launchComplete : ∀ a0, Statement (.launchComplete a0) := fun _ => rfl
theorem lineRefetch : ∀ a0, Statement (.lineRefetch a0) := fun _ => rfl
theorem fetchPathRefetch : ∀ a0 a1 a2, Statement (.fetchPathRefetch a0 a1 a2) := fun _ _ _ => rfl
theorem convoyStart : ∀ a0, Statement (.convoyStart a0) := fun _ => rfl
theorem pageWalk : ∀ a0 a1 a2 a3, Statement (.pageWalk a0 a1 a2 a3) := fun _ _ _ _ => rfl
theorem tileRelease : ∀ a0 a1, Statement (.tileRelease a0 a1) := fun _ _ => rfl
theorem eventRecordClose : ∀ a0, Statement (.eventRecordClose a0) := fun _ => rfl
theorem fatalReset : Statement .fatalReset := rfl
theorem quiesceDone : ∀ a0, Statement (.quiesceDone a0) := fun _ => rfl
theorem quiesceOverrun : ∀ a0, Statement (.quiesceOverrun a0) := fun _ => rfl
theorem signatureCompare : ∀ a0, Statement (.signatureCompare a0) := fun _ => rfl
theorem divergenceTimeout : ∀ a0, Statement (.divergenceTimeout a0) := fun _ => rfl
theorem structTestStart : ∀ a0 a1 a2 a3, Statement (.structTestStart a0 a1 a2 a3) := fun _ _ _ _ => rfl
theorem structTestDone : ∀ a0 a1 a2, Statement (.structTestDone a0 a1 a2) := fun _ _ _ => rfl
theorem structTestOverdue : ∀ a0 a1 a2, Statement (.structTestOverdue a0 a1 a2) := fun _ _ _ => rfl
theorem weirStep : ∀ a0 a1, Statement (.weirStep a0 a1) := fun _ _ => rfl
theorem coreArrayIdle : ∀ a0 a1, Statement (.coreArrayIdle a0 a1) := fun _ _ => rfl
theorem budgetRecompute : Statement .budgetRecompute := rfl
theorem drawOverBudget : Statement .drawOverBudget := rfl
theorem budgetHalvingEnd : Statement .budgetHalvingEnd := rfl
theorem slewViolation : ∀ a0 a1, Statement (.slewViolation a0 a1) := fun _ _ => rfl
theorem slewLimitEnd : ∀ a0 a1, Statement (.slewLimitEnd a0 a1) := fun _ _ => rfl
theorem undervoltage : Statement .undervoltage := rfl
theorem watchdogStage1 : ∀ a0, Statement (.watchdogStage1 a0) := fun _ => rfl
theorem watchdogStage2 : ∀ a0, Statement (.watchdogStage2 a0) := fun _ => rfl
theorem saveTimeout : ∀ a0, Statement (.saveTimeout a0) := fun _ => rfl
theorem hbmPerBankRefresh : ∀ a0 a1 a2 a3, Statement (.hbmPerBankRefresh a0 a1 a2 a3) := fun _ _ _ _ => rfl
theorem hbmAllBankRefresh : ∀ a0 a1, Statement (.hbmAllBankRefresh a0 a1) := fun _ _ => rfl
theorem activationAlert : ∀ a0 a1 a2, Statement (.activationAlert a0 a1 a2) := fun _ _ _ => rfl
theorem patrolRead : ∀ a0 a1 a2, Statement (.patrolRead a0 a1 a2) := fun _ _ _ => rfl
theorem hbmChannelLost : ∀ a0 a1, Statement (.hbmChannelLost a0 a1) := fun _ _ => rfl
theorem linkCrcFail : ∀ a0 a1, Statement (.linkCrcFail a0 a1) := fun _ _ => rfl
theorem laneBad : ∀ a0 a1 a2, Statement (.laneBad a0 a1 a2) := fun _ _ _ => rfl
theorem laneRepair : ∀ a0 a1, Statement (.laneRepair a0 a1) := fun _ _ => rfl
theorem clockLower : ∀ a0, Statement (.clockLower a0) := fun _ => rfl
theorem clockRaise : ∀ a0, Statement (.clockRaise a0) := fun _ => rfl
theorem clockPauseStart : ∀ a0, Statement (.clockPauseStart a0) := fun _ => rfl
theorem clockPauseEnd : ∀ a0, Statement (.clockPauseEnd a0) := fun _ => rfl
theorem portLinkDown : ∀ a0, Statement (.portLinkDown a0) := fun _ => rfl
theorem portLinkUp : ∀ a0, Statement (.portLinkUp a0) := fun _ => rfl
theorem pktRead : ∀ a0, Statement (.pktRead a0) := fun _ => rfl
theorem pktReadRsp : ∀ a0, Statement (.pktReadRsp a0) := fun _ => rfl
theorem pktWrite : ∀ a0, Statement (.pktWrite a0) := fun _ => rfl
theorem pktQappend : ∀ a0, Statement (.pktQappend a0) := fun _ => rfl
theorem pktAtomic : ∀ a0, Statement (.pktAtomic a0) := fun _ => rfl
theorem pktAck : ∀ a0, Statement (.pktAck a0) := fun _ => rfl
theorem pktCnp : ∀ a0, Statement (.pktCnp a0) := fun _ => rfl
theorem pktCmd : ∀ a0, Statement (.pktCmd a0) := fun _ => rfl
theorem pktNak : ∀ a0, Statement (.pktNak a0) := fun _ => rfl
theorem packetDiscard : ∀ a0, Statement (.packetDiscard a0) := fun _ => rfl
theorem ackTimer : ∀ a0 a1, Statement (.ackTimer a0 a1) := fun _ _ => rfl
theorem retxTimeout : ∀ a0 a1, Statement (.retxTimeout a0 a1) := fun _ _ => rfl
theorem pathFail : ∀ a0 a1, Statement (.pathFail a0 a1) := fun _ _ => rfl
theorem cnpRateRecover : ∀ a0 a1, Statement (.cnpRateRecover a0 a1) := fun _ _ => rfl
theorem convoyComplete : ∀ a0, Statement (.convoyComplete a0) := fun _ => rfl

end Sys2Proof.Laws.Encodes
end

