-- ==== Sys2Proof/Machine/Assembler.lean ====
section
/-! DEFINITION. What the assembler makes of a source whose text has been read: operand expressions, code lines, data
and launch records (R161 to R165). The device takes no part in it; it gives the lines and records that the device reads. -/

namespace Sys2Proof.Machine

/-! ### Operand expressions (R162) -/

/-- The binary operators. -/
inductive ExprOp where
  | mul | div | mod | add | sub | shl | shr | and_ | xor_ | or_
  deriving DecidableEq, Repr

/-- An expression, its precedence resolved. -/
inductive Expr where
  | lit (v : Word)
  | sym (name : String)
  | neg (a : Expr)
  | inv (a : Expr)
  | line (a : Expr)
  | bin (op : ExprOp) (a b : Expr)
  deriving DecidableEq, Repr

/-- A binary operator in 64-bit two's complement; none for a division by zero, and for a shift count outside 0 to 63,
which the spec does not state. DESIGN CHOICE (log 76). -/
def evalOp (op : ExprOp) (a b : Word) : Option Word :=
  match op with
  | .mul => some (a * b)
  | .div => if b = 0 then none else some (BitVec.ofInt 64 (Int.tdiv a.toInt b.toInt))
  | .mod => if b = 0 then none else some (BitVec.ofInt 64 (Int.tmod a.toInt b.toInt))
  | .add => some (a + b)
  | .sub => some (a - b)
  | .shl => if b.toNat < 64 then some (a <<< b.toNat) else none
  | .shr => if b.toNat < 64 then some (a.sshiftRight b.toNat) else none
  | .and_ => some (a &&& b)
  | .xor_ => some (a ^^^ b)
  | .or_ => some (a ||| b)

/-- The value of an expression; none where it is an assembly error. -/
def evalExpr (syms : List (String × Word)) : Expr → Option Word
  | .lit v => some v
  | .sym n => (syms.find? (fun p => p.1 == n)).map (·.2)
  | .neg a => (evalExpr syms a).map (fun v => -v)
  | .inv a => (evalExpr syms a).map (fun v => ~~~v)
  | .line a => (evalExpr syms a).map (fun v => v &&& ~~~(63 : Word))
  | .bin op a b => (evalExpr syms a).bind (fun x => (evalExpr syms b).bind (evalOp op x))

/-! ### Code (R163, R164) -/

/-- An item of the code section. -/
inductive TextItem where
  | instr (i : Instr)
  | label (name : String)
  | target
  | cend
  | line
  | tmpl (t : BitVec 4)
  | align (n : Nat)
  deriving DecidableEq, Repr

/-- The code section as it grows: slot k is slot k mod 5 of line k div 5. -/
structure Text where
  /-- The words of the slots filled so far. -/
  words : List (BitVec 96)
  /-- The slots that hold instructions of the source, the latest first, with those instructions. -/
  insts : List (Nat × Instr)
  /-- Slots whose TGT bit is set, and those whose CEND bit is set. -/
  tgt : List Nat
  cend : List Nat
  /-- TMPL by line, the latest first. -/
  tmpl : List (Nat × BitVec 4)
  /-- The next instruction is a target. -/
  mark : Bool
  labels : List (String × Word)
  deriving DecidableEq, Repr

/-- The canonical no-operation (R155). -/
def nopWord : BitVec 96 := 1

/-- The code address of a slot, relative to the section. -/
def slotAddr (k : Nat) : Word := BitVec.ofNat 64 (64 * (k / 5) + k % 5)

/-- Fills the present line with no-operations. -/
def Text.endLine (t : Text) : Text :=
  { t with words := t.words ++ List.replicate ((5 - t.words.length % 5) % 5) nopWord }

/-- A call: the slot after it is a target. -/
def isCall : Instr → Bool
  | .call _ _ _ => true
  | .callr _ _ => true
  | _ => false

/-- Takes one item; none where the source is in error. -/
def Text.put (t : Text) (x : TextItem) : Option Text :=
  let k := t.words.length
  match x with
  | .instr i => (encode i).map (fun w =>
      { t with words := t.words ++ [w], insts := (k, i) :: t.insts, mark := false,
               tgt := (if t.mark then [k] else []) ++ (if isCall i then [k + 1] else []) ++ t.tgt })
  | .label n =>
    if t.labels.any (fun p => p.1 == n) then none
    else some { t with labels := t.labels ++ [(n, slotAddr k)], tgt := k :: t.tgt }
  | .target => some { t with mark := true }
  | .cend => match t.insts with
    | (j, _) :: _ => if (wordClass (t.words.getD j 0)).isSome then some { t with cend := j :: t.cend } else none
    | [] => none
  | .line => some t.endLine
  | .tmpl v => if (v &&& (v >>> 1)) = 0 then some { t with tmpl := (k / 5, v) :: t.tmpl } else none
  | .align n =>
    if n = 0 ∨ n % 64 ≠ 0 then none
    else
      let t1 := t.endLine; let l := t1.words.length / 5
      some { t1 with words := t1.words ++ List.replicate (5 * (roundUp l (n / 64) - l)) nopWord }

/-- The end slots that the loops of the source name (R163). -/
def Text.loopEnds (t : Text) : List Int :=
  t.insts.filterMap (fun p => match p.2 with
    | .loop0 _ s o | .loop1 _ s o => some (5 * ((p.1 / 5 : Nat) + o.toInt) + s.val)
    | _ => none)

/-- The convoys along sequential flow (R156): the unit classes of each, with the loops of the source taken as active. -/
def convoysOf (ends : List Int) (cend : List Nat) : List (BitVec 96) → Nat → List UnitClass → List (List UnitClass)
  | [], _, acc => [acc.reverse]
  | w :: r, k, acc =>
    match wordClass w with
    | none => acc.reverse :: convoysOf ends cend r (k + 1) []
    | some .solo => acc.reverse :: [.solo] :: convoysOf ends cend r (k + 1) []
    | some c =>
      if cend.contains k || ends.contains (k : Int) then (c :: acc).reverse :: convoysOf ends cend r (k + 1) []
      else convoysOf ends cend r (k + 1) (c :: acc)

/-- Bits of a line word, one per slot of line l, for a list of slots. -/
def slotBits (l : Nat) (ks : List Nat) : BitVec 5 :=
  (List.range 5).foldl (fun (a : BitVec 5) j => if ks.contains (5 * l + j) then a ||| BitVec.twoPow 5 j else a) 0

/-- A code line from its words and its line-word fields, with its parities (R144, R145). -/
def codeLine (ws : List (BitVec 96)) (tgt cend : BitVec 5) (tmpl : BitVec 4) : BitVec 512 :=
  let code : BitVec 512 := ws.zipIdx.foldl (fun (a : BitVec 512) (p : BitVec 96 × Nat) =>
    let w : BitVec 512 := p.1.setWidth 512; a ||| (w <<< (96 * p.2))) 0
  let word : BitVec 32 := 0#18 ++ tmpl ++ cend ++ tgt
  let low : BitVec 512 := word.setWidth 512
  code ||| (low <<< 480) ||| lineParity code

/-- The code section of a source: its lines and its labels; none where the source is in error. -/
def assembleText (src : List TextItem) : Option (List (BitVec 512) × List (String × Word)) :=
  let start : Text := { words := [], insts := [], tgt := [], cend := [], tmpl := [], mark := false, labels := [] }
  match src.foldl (fun (t : Option Text) x => t.bind (fun t => t.put x)) (some start) with
  | none => none
  | some t =>
    if (convoysOf t.loopEnds t.cend t.words 0 []).any (fun c => (overLimit c).isSome) then none
    else
      let t1 := t.endLine
      some ((List.range (t1.words.length / 5)).map (fun l =>
        codeLine ((t1.words.drop (5 * l)).take 5) (slotBits l t1.tgt) (slotBits l t1.cend)
          (((t1.tmpl.find? (fun p => p.1 == l)).map (·.2)).getD 0)), t1.labels)

/-! ### Data (R164) -/

/-- An item of the data section; a timetable is an `align 32`, a label and its entries field by field. -/
inductive DataItem where
  | label (name : String)
  | align (n : Nat)
  /-- `.byte`, `.half`, `.word` or `.dword`: values of this many bytes. -/
  | values (bytes : Nat) (vs : List Int)
  /-- `.float`: sign, digits and the power of ten. -/
  | float (neg : Bool) (digits : Nat) (exp10 : Int)
  | tile (cols rows fmt lvl : Nat)
  deriving DecidableEq, Repr

/-- The FP32 code of a decimal number, rounded by RNE. -/
def decimalCode (neg : Bool) (digits : Nat) (exp10 : Int) : Nat :=
  let v := if digits = 0 then WVal.zero neg
    else if 0 ≤ exp10 then mkFin neg (digits * 10 ^ exp10.toNat) 0 else ratio neg digits 0 (10 ^ (-exp10).toNat) 0
  (fencode fp32 v 0 0).1

/-- The bytes of an item at an offset of the section; none where the source is in error. -/
def DataItem.bytes (off : Nat) : DataItem → Option (List Byte)
  | .label _ => some []
  | .align n => if n ≠ 0 ∧ n = 2 ^ Nat.log2 n then some (List.replicate (roundUp off n - off) 0) else none
  | .values n vs =>
    if vs.all (fun v => decide (-(2 : Int) ^ (8 * n - 1) ≤ v) && decide (v < (2 : Int) ^ (8 * n))) then
      some (vs.flatMap (fun v => natLe n (v % (2 : Int) ^ (8 * n)).toNat))
    else none
  | .float s d e => some (natLe 4 (decimalCode s d e))
  | .tile c r f l =>
    if c < 65536 ∧ r < 65536 ∧ f < 16 ∧ l < 3 then some (natLe 8 (c + r * 2 ^ 16 + f * 2 ^ 32 + l * 2 ^ 36)) else none

/-- The data section of a source: its bytes and its labels, relative to the section. -/
def assembleData (src : List DataItem) : Option (List Byte × List (String × Word)) :=
  src.foldl (fun (a : Option (List Byte × List (String × Word))) x => a.bind (fun p =>
    match x with
    | .label n => if p.2.any (fun q => q.1 == n) then none else some (p.1, p.2 ++ [(n, BitVec.ofNat 64 p.1.length)])
    | _ => (x.bytes p.1.length).map (fun b => (p.1 ++ b, p.2)))) (some ([], []))

/-! ### Launch records (R165) -/

/-- The keys, levels and formats of a `.launch`. -/
structure LaunchSrc where
  entry : Word
  prio : BitVec 3
  red : Bool
  ydl : BitVec 16
  arg : Word
  stkbase : Word
  stksz : BitVec 32
  vlreq : BitVec 32
  tt : Word
  deps : List (BitVec 32)
  done : BitVec 32
  levels : List Level
  fmts : List (Fin 16 × BitVec 32)
  deriving DecidableEq, Repr

/-- A level entry of R42. -/
def levelWord (l : Level) : Nat := l.dom % 8 + l.scope % 8 * 8 + b2n l.gang * 64 + l.count % 65536 * 256

/-- The format table of a launch that has any `.fmt`: the reset descriptors, and those that it names. -/
def formatTable (fs : List (Fin 16 × BitVec 32)) : Option (List Byte) :=
  if fs.isEmpty then none
  else some ((fs.foldl (fun (v : Vector (BitVec 32) 16) f => v.set f.1.val f.2) resetFt).toList.flatMap (fun d => natLe 4 d.toNat))

/-- The 128-byte record (R39 to R42), given where its format table lies (0 for none); none where the level table breaks R36
or there are more than four dependences. -/
def launchRecord (l : LaunchSrc) (ftptr : Word) : Option (List Byte) :=
  let n := l.levels.length
  if n = 0 ∨ 8 < n ∨ 4 < l.deps.length ∨ levelsOk l.levels = false then none
  else
    let ctl := l.prio.toNat + b2n l.red * 8 + n * 16 + l.ydl.toNat * 256
    let four := fun (vs : List (BitVec 32)) (k : Nat) => (List.range k).flatMap (fun i => natLe 4 (vs.getD i 0).toNat)
    some (natLe 8 l.entry.toNat ++ natLe 8 ctl ++ natLe 8 l.arg.toNat ++ natLe 8 l.stkbase.toNat ++ natLe 4 l.stksz.toNat
      ++ natLe 4 l.vlreq.toNat ++ natLe 8 ftptr.toNat ++ natLe 8 l.tt.toNat ++ four l.deps 4 ++ natLe 4 l.done.toNat
      ++ List.replicate 20 0 ++ four (l.levels.map (fun v => BitVec.ofNat 32 (levelWord v))) 8)

end Sys2Proof.Machine
end

