-- ==== Sys2Proof/Machine/Loader.lean ====
section
/-! DEFINITION. The object file and what a loader makes of it: the bytes that it writes to device memory and the launch
records that it appends (R166 to R168). -/

namespace Sys2Proof.Machine

/-- A section header (R167). -/
structure ObjSection where
  type : Nat
  align : Nat
  target : Nat
  zero : Nat
  off : Nat
  size : Nat
  addr : Nat
  deriving DecidableEq, Repr

/-- The section headers of a file. -/
def objSections (b : List Byte) : List ObjSection :=
  (List.range (fld b 6 2)).map (fun i =>
    let h := fld b 8 8 + 32 * i
    { type := fld b h 2, align := fld b (h + 2) 1, target := fld b (h + 3) 1, zero := fld b (h + 4) 4, off := fld b (h + 8) 8,
      size := fld b (h + 16) 8, addr := fld b (h + 24) 8 })

/-- The least alignment of a type: 6 for code and format tables, 7 for launch records. -/
def leastAlign (type : Nat) : Nat :=
  match type with
  | 1 => 6
  | 3 => 7
  | 4 => 6
  | _ => 0

/-- A relocation: offset, type, zero bytes, symbol index. -/
structure ObjReloc where
  off : Nat
  type : Nat
  zero : Nat
  sym : Nat
  deriving DecidableEq, Repr

/-- The relocations of a section. -/
def relocsOf (b : List Byte) (s : ObjSection) : List ObjReloc :=
  (List.range (s.size / 16)).map (fun i =>
    let r := s.off + 16 * i
    { off := fld b r 8, type := fld b (r + 8) 2, zero := fld b (r + 10) 2, sym := fld b (r + 12) 4 })

/-- A section lies in the file; zero-filled data has no contents there. DEDUCED (log 77). -/
def inFile (b : List Byte) (s : ObjSection) : Bool := s.type == 7 || decide (s.off + s.size ≤ b.length)

/-- The header, section headers and relocations that a loader accepts (R168). -/
def objOk (b : List Byte) : Bool :=
  let ss := objSections b
  decide (64 ≤ b.length) && fld b 0 4 == 0x48544B49 && fld b 4 2 == 1 && zeroAt b 0x18 40
  && decide (fld b 8 8 + 32 * fld b 6 2 ≤ b.length)
  && ss.all (fun s => decide (1 ≤ s.type) && decide (s.type ≤ 7) && decide (leastAlign s.type ≤ s.align) && decide (s.align < 64)
      && s.zero == 0 && (s.type == 6 || s.target == 0) && inFile b s)
  && ss.all (fun s => s.type != 6 || (match ss[s.target]? with
      | none => false
      | some t => (relocsOf b s).all (fun r => decide (1 ≤ r.type) && decide (r.type ≤ 2) && r.zero == 0 && decide (r.off + 8 ≤ t.size))))

/-- The image base: the first multiple of the largest alignment from an address on. -/
def imageBase (ss : List ObjSection) (from_ : Nat) : Nat := roundUp from_ (2 ^ (ss.map (·.align)).foldl max 0)

/-- The loaded address of a symbol: its section's place and its value, and the value itself for a marker. DEDUCED (log 77). -/
def symbolAddr (b : List Byte) (ss : List ObjSection) (base k : Nat) : Nat :=
  match ss.find? (fun s => s.type == 5) with
  | none => 0
  | some t =>
    let e := t.off + 24 * k; let v := fld b e 8
    if fld b (e + 10) 2 = 3 then v
    else match ss[fld b (e + 8) 2]? with
      | none => v
      | some s => base + s.addr + v

/-- Applies a relocation to the contents of its section: type 2 leaves bits [5:0]. -/
def applyReloc (b : List Byte) (ss : List ObjSection) (base : Nat) (c : List Byte) (r : ObjReloc) : List Byte :=
  let a := symbolAddr b ss base r.sym
  let v := fld c r.off 8 + (if r.type = 2 then a / 64 * 64 else a)
  c.take r.off ++ natLe 8 v ++ c.drop (r.off + 8)

/-- The contents of a section after its relocations. -/
def loadedBytes (b : List Byte) (ss : List ObjSection) (base i : Nat) (s : ObjSection) : List Byte :=
  let raw := if s.type = 7 then List.replicate s.size 0 else slice b s.off s.size
  ((ss.filter (fun r => r.type == 6 && r.target == i)).flatMap (relocsOf b)).foldl (applyReloc b ss base) raw

/-- What a loader writes and appends. -/
structure LoadedFile where
  base : Nat
  /-- Address and bytes of each section of the image. -/
  chunks : List (Nat × List Byte)
  /-- The launch records, in order. -/
  records : List (List Byte)
  deriving DecidableEq, Repr

/-- Loads a file from an address on; none for a malformed file, of which nothing is written (R168). -/
def loadFile (b : List Byte) (from_ : Nat) : Option LoadedFile :=
  if objOk b = false then none
  else
    let ss := objSections b; let base := imageBase ss from_
    let put := ss.zipIdx.filter (fun p => p.1.type != 5 && p.1.type != 6)
    let cs := put.map (fun p => (p.1.type, base + p.1.addr, loadedBytes b ss base p.2 p.1))
    some { base := base, chunks := cs.map (fun c => (c.2.1, c.2.2)),
           records := (cs.filter (fun c => c.1 == 3)).flatMap (fun c =>
             (List.range (c.2.2.length / 128)).map (fun i => slice c.2.2 (128 * i) 128)) }

end Sys2Proof.Machine
end

