-- ==== Sys2Proof/Tests/Slice0.lean ====
section
/-! SUPPORT. The model's own tests: ill-formed terms that are refused, words of the specification's encodings for every
instruction, and for every obligation states that meet its hypotheses (the theorems `wit_…`). -/

open Sys2Proof Sys2Proof.Machine

set_option Elab.async false

/-! ### Well-formedness: one ill-formed term for each check -/

theorem test_wf_shift : (Instr.sll 1 2 (.imm 64)).wf = false ∧ (Instr.sllw 1 2 (.imm 32)).wf = false
    ∧ (Instr.sll 1 2 (.imm 63)).wf = true ∧ (Instr.sraw 1 2 (.imm 31)).wf = true := by decide

theorem test_wf_pairs : (Instr.ldp 3 1 2 0).wf = false ∧ (Instr.stp 5 1 2 0).wf = false ∧ (Instr.casQ 2 4 7 1 0).wf = false
    ∧ (Instr.casQ 2 5 6 1 0).wf = false ∧ (Instr.casQ 3 4 6 1 0).wf = false ∧ (Instr.ldp 4 1 2 0).wf = true := by decide

theorem test_wf_sset : (Instr.sset 0x100 1).wf = false ∧ (Instr.sset 0x012 1).wf = false
    ∧ (Instr.sset 0x003 1).wf = true := by decide

theorem test_wf_group : (Instr.vcfgi 1 2 0x40).wf = false ∧ (Instr.vcfgn 1 2 0x40).wf = false ∧ (Instr.vcfgmax 1 0x40).wf = false
    ∧ (Instr.vcfgi 1 2 0x30).wf = true := by decide

theorem test_wf_crpop : (Instr.crpop 6 1).wf = false ∧ (Instr.crpop 8 1).wf = true := by decide

/-! ### Decoding: for every instruction a word written from the encodings of R151 to R154 and the tables of the chapters -/

/-- The word decodes to the instruction, and is its encoding. -/
abbrev reads (w : BitVec 96) (i : Instr) : Prop := decode w = .ok i ∧ encode i = some w

theorem test_decode_01 :
  reads 0xec99108e00000100000e1d01#96 (.add 29 56 (.imm 3969454222))
  ∧ reads 0x00000000000000010377b201#96 (.sub 50 30 (.reg 55))
  ∧ reads 0x000000000000000202136601#96 (.and_ 38 13 (.reg 33))
  ∧ reads 0x2fa9142600000103000a5f01#96 (.or_ 31 41 (.imm 799609894))
  ∧ reads 0x000000000000000400674701#96 (.xor_ 7 29 (.reg 6))
  ∧ reads 0xa26b7f6300000105000d2301#96 (.andn 35 52 (.imm 2724953955))
  ∧ reads 0xf6fa5db9000001060009c301#96 (.addw 3 39 (.imm 4143603129))
  ∧ reads 0xa66b0d3900000107000a9d01#96 (.subw 29 42 (.imm 2792033593))
  ∧ reads 0x0000000000000008022a0b01#96 (.min_ 11 40 (.reg 34))
  ∧ reads 0x000000000000000903910501#96 (.max_ 5 4 (.reg 57))
  ∧ reads 0x000000000000000a01e9d001#96 (.minu 16 39 (.reg 30))
  ∧ reads 0x320094eb0000010b00075501#96 (.maxu 21 29 (.imm 838898923)) := by decide +kernel

theorem test_decode_02 :
  reads 0x00000020000001000003e202#96 (.sll 34 15 (.imm 32))
  ∧ reads 0x000000000000000102aac102#96 (.srl 1 43 (.reg 42))
  ∧ reads 0x0000003c000001020006d202#96 (.sra 18 27 (.imm 60))
  ∧ reads 0x00000015000001030001b602#96 (.rol 54 6 (.imm 21))
  ∧ reads 0x00000002000001040003f102#96 (.ror 49 15 (.imm 2))
  ∧ reads 0x0000000d0000010500094502#96 (.sllw 5 37 (.imm 13))
  ∧ reads 0x0000000000000006005dc702#96 (.srlw 7 55 (.reg 5))
  ∧ reads 0x00000001000001070000be02#96 (.sraw 62 2 (.imm 1)) := by decide +kernel

theorem test_decode_03 :
  reads 0x0d6503730000010000038e03#96 (.seq 14 14 (.imm 224723827))
  ∧ reads 0x65bd9acc0000010100065f03#96 (.sne 31 25 (.imm 1706924748))
  ∧ reads 0x32d03fde0000010200015b03#96 (.slt 27 5 (.imm 852508638))
  ∧ reads 0x0000000000000003006b3203#96 (.sltu 50 44 (.reg 6))
  ∧ reads 0x000000000000000401b59403#96 (.sge 20 22 (.reg 27))
  ∧ reads 0x0000000000000005010f3103#96 (.sgeu 49 60 (.reg 16))
  ∧ reads 0x00000000000000081f406e03#96 (.sel 46 7 1 (.reg 52)) := by decide +kernel

theorem test_decode_04 :
  reads 0x303a07b30000010000032004#96 (.mul 32 12 (.imm 809109427))
  ∧ reads 0x000000000000000102f85d04#96 (.mulh 29 33 (.reg 47))
  ∧ reads 0x000000000000000201927204#96 (.mulhu 50 9 (.reg 25))
  ∧ reads 0x000000000000000300e68804#96 (.mulhsu 8 26 (.reg 14))
  ∧ reads 0xf9903b730000010400048104#96 (.mulw 1 18 (.imm 4186979187))
  ∧ reads 0x00000000000000050b99b404#96 (.madd 52 38 (.reg 57) 2)
  ∧ reads 0x000000000000000803730e04#96 (.div 14 12 (.reg 55))
  ∧ reads 0x0ac793f600000109000aa704#96 (.divu 39 42 (.imm 180851702))
  ∧ reads 0x000000000000000a00138a04#96 (.rem 10 14 (.reg 1))
  ∧ reads 0x000000000000000b013a3204#96 (.remu 50 40 (.reg 19)) := by decide +kernel

theorem test_decode_05 :
  reads 0x000000000000000000015905#96 (.clz 25 5)
  ∧ reads 0x000000000000000100018505#96 (.ctz 5 6)
  ∧ reads 0x000000000000000200098e05#96 (.cpop 14 38)
  ∧ reads 0x000000000000000300042905#96 (.rev8 41 16)
  ∧ reads 0x00000618000000040009c105#96 (.bext 1 39 24 24)
  ∧ reads 0x00000f89000000050007a805#96 (.bexts 40 30 9 62)
  ∧ reads 0x00000976000000060007e605#96 (.bins 38 31 54 37) := by decide +kernel

theorem test_decode_06 :
  reads 0xddd4a0550000000000000906#96 (.li 9 3721699413)
  ∧ reads 0xa0931ed50000000100031906#96 (.lih 25 12 2693996245)
  ∧ reads 0x000000020000000203b50a06#96 (.lea 10 20 59 2)
  ∧ reads 0xb9b338ec0000000300203506#96 (.lca 53 2 3115530476) := by decide +kernel

theorem test_decode_07 :
  reads 0x00000000000008000002c007#96 (.fset 4 11)
  ∧ reads 0x0000000000000001000a7007#96 (.talloc 48 41)
  ∧ reads 0x000000000000000200093d07#96 (.tfree 61 36) := by decide +kernel

theorem test_decode_20 :
  reads 0x6361b9f90000000003db0d20#96 (.ldb 13 44 61 1667348985)
  ∧ reads 0x14186ec0000000010277f920#96 (.ldbu 57 31 39 337145536)
  ∧ reads 0x1bea85940000000200711b20#96 (.ldh 27 4 7 468354452)
  ∧ reads 0x415363640000000303e84320#96 (.ldhu 3 33 62 1095983972)
  ∧ reads 0x64409ddc0000000402ec1020#96 (.ldw 16 48 46 1681956316)
  ∧ reads 0xe7a28cbe000000050356d120#96 (.ldwu 17 27 53 3886189758)
  ∧ reads 0x852395750000000601382720#96 (.ldd 39 32 19 2233701749)
  ∧ reads 0xfa285a0e0000000702ff1620#96 (.ldp 22 60 47 4196948494) := by decide +kernel

theorem test_decode_21 :
  reads 0x7ab366030000000014f24021#96 (.stb 5 9 15 2058577411)
  ∧ reads 0x9da9b14e00000001937a8021#96 (.sth 36 42 55 2645143886)
  ∧ reads 0x365fdcd700000002a1214021#96 (.stw 40 5 18 912252119)
  ∧ reads 0xbfbd7d1500000003eceec021#96 (.std 59 59 14 3216866581)
  ∧ reads 0x695340490000000409214021#96 (.stp 2 5 18 1767063625) := by decide +kernel

theorem test_decode_22_0 :
  reads 0x2d1ef7c0000000100040d022#96 (.amoswap .d 16 4 3 757004224)
  ∧ reads 0xf91acb8e0000001002295822#96 (.amoswap .d 24 34 37 4179282830)
  ∧ reads 0xe414a8ab0000000101824622#96 (.amoadd .w 6 24 9 3826559147)
  ∧ reads 0xbb9fab2c00000011016aff22#96 (.amoadd .d 63 22 43 3147803436)
  ∧ reads 0x0494b6d300000002003f2622#96 (.amoand .w 38 3 60 76854995)
  ∧ reads 0x4fd26ec500000012017b7b22#96 (.amoand .d 59 23 45 1339190981)
  ∧ reads 0x13284c7a00000003027a4222#96 (.amoor .w 2 39 41 321408122)
  ∧ reads 0x51a3b9910000001302f50522#96 (.amoor .d 5 47 20 1369684369)
  ∧ reads 0x8bcce7ce0000000400574522#96 (.amoxor .w 5 5 29 2345461710)
  ∧ reads 0xefae0b4700000014003eb022#96 (.amoxor .d 48 3 58 4021160775)
  ∧ reads 0x577405120000000503eef322#96 (.amomin .w 51 62 59 1467221266)
  ∧ reads 0xe69d2f3c0000001502c7c622#96 (.amomin .d 6 44 31 3869060924) := by decide +kernel

theorem test_decode_22_1 :
  reads 0xf1b9ab7d000000060376f822#96 (.amomax .w 56 55 27 4055477117)
  ∧ reads 0x03b867670000000602097822#96 (.amomax .w 56 32 37 62416743)
  ∧ reads 0x9bdeb3990000001702605922#96 (.amominu .d 25 38 1 2615063449)
  ∧ reads 0x1d96ac5700000007006a4622#96 (.amominu .w 6 6 41 496413783)
  ∧ reads 0x5484b3dc0000001801bbf922#96 (.amomaxu .d 57 27 47 1417982940)
  ∧ reads 0x94b953ee00000018030b7c22#96 (.amomaxu .d 60 48 45 2495173614) := by decide +kernel

theorem test_decode_23 :
  reads 0x8a8f7af00000000079dd9e23#96 (.casW 30 29 30 54 2324658928)
  ∧ reads 0x07a04e6500000001c6284623#96 (.casD 6 34 49 33 127946341)
  ∧ reads 0x3aefce2f00000002f0a0a623#96 (.casQ 38 10 60 2 988794415) := by decide +kernel

theorem test_decode_30 :
  reads 0x7f4bd0530000000004000030#96 (.j 1 2135674963)
  ∧ reads 0x417e16ca0000000210003230#96 (.call 50 4 1098782410) := by decide +kernel

theorem test_decode_31 :
  reads 0x0000000000000000000e8031#96 (.jr 58)
  ∧ reads 0x000000000000000200060131#96 (.callr 1 24)
  ∧ reads 0x000000000000000400050031#96 (.ret 20) := by decide +kernel

theorem test_decode_32 :
  reads 0x84b58298000000000ac28032#96 (.beq 10 44 2 2226487960)
  ∧ reads 0xa8f51ac6000000002f12c032#96 (.bne 11 49 3 2834635462)
  ∧ reads 0xe448373d0000000051df0032#96 (.blt 60 29 4 3829937981)
  ∧ reads 0xaa785c620000000071540032#96 (.bge 16 21 4 2860014690)
  ∧ reads 0xcdc02ece0000000090d44032#96 (.bltu 17 13 4 3451924174)
  ∧ reads 0xe1594dc500000000ab1d0032#96 (.bgeu 52 49 2 3780726213) := by decide +kernel

theorem test_decode_33 :
  reads 0x38363a3d0000000010038033#96 (.loop0 14 4 943077949)
  ∧ reads 0x35bb8499000000020c098033#96 (.loop1 38 3 901481625)
  ∧ reads 0x000000000000000400000033#96 (.lpexit0)
  ∧ reads 0x000000000000000600000033#96 (.lpexit1) := by decide +kernel

theorem test_decode_40 :
  reads 0x000000000000000002eb0340#96 (.vcfg 3 44 46)
  ∧ reads 0x0000012a0040000000095240#96 (.vcfgi 18 37 298)
  ∧ reads 0x00274c700080000000001440#96 (.vcfgn 20 85104 19)
  ∧ reads 0x0000008b00c0000000002a40#96 (.vcfgmax 42 139)
  ∧ reads 0x000000020100000000000040#96 (.vspace .peer)
  ∧ reads 0x000000000140000000078040#96 (.vspacex 30) := by decide +kernel

theorem test_decode_41 :
  reads 0x24105a4a0000010d180c9041#96 (.vld 16 50 605051466 13 1 6)
  ∧ reads 0x1be8bf7d00000e091a974841#96 (.vlds 8 29 468238205 41 9 6 6)
  ∧ reads 0xf55dad770000124b1c563441#96 (.vldx 52 24 4116557175 5 11 4 2 7)
  ∧ reads 0x2dbe5f3e00001cd116e45f41#96 (.vldux 31 17 767450942 46 1 13 4 5)
  ∧ reads 0x2dd96b63000023041c00ee41#96 (.vldff 46 3 769223523 4 3 7)
  ∧ reads 0xb28302c2000040000008c341#96 (.vlm 3 35 2994930370) := by decide +kernel

theorem test_decode_42 :
  reads 0x801b43c00000070a0808bd42#96 (.vst 61 34 2149270464 10 7 2)
  ∧ reads 0xcabc122300000a0f06ddda42#96 (.vsts 26 55 3401323043 45 15 2 1)
  ∧ reads 0xe484a5510000143712ff1b42#96 (.vstx 27 60 3833898321 47 7 3 4 4)
  ∧ reads 0xe327c96800001d7117ba4d42#96 (.vstux 13 41 3811035496 59 1 7 5 5)
  ∧ reads 0x80adb24b00004000000e4642#96 (.vsm 6 57 2158867019) := by decide +kernel

theorem test_decode_43 :
  reads 0x76b58cc20000184b0555bd43#96 (.vamoswap false 61 22 1991609538 21 11 4 1)
  ∧ reads 0xa440f7460000582c0bcd3543#96 (.vamoadd false 53 52 2755721030 60 12 2 2)
  ∧ reads 0x167cd62f000090951fffd943#96 (.vamoand true 25 63 377280047 63 5 9 7)
  ∧ reads 0xb7e06d040000d861177ed143#96 (.vamoor false 17 59 3084938500 55 1 6 5)
  ∧ reads 0x8ce096590001105d11b59d43#96 (.vamoxor true 29 22 2363528793 27 13 5 4)
  ∧ reads 0xde17b00a000158d7045d0e43#96 (.vamomin false 14 52 3726094346 5 7 13 1)
  ∧ reads 0xc9b433b6000190830bbb1643#96 (.vamomax true 22 44 3384030134 59 3 8 2)
  ∧ reads 0x84a991f40001d8cb136bfa43#96 (.vamominu false 58 47 2225705460 54 11 12 4)
  ∧ reads 0xf2fbc7fa000218d20ad9a043#96 (.vamomaxu false 32 38 4076587002 45 2 13 2)
  ∧ reads 0xd4c6e1b9000250b90af4e443#96 (.vamofadd true 36 19 3569803705 47 9 11 2)
  ∧ reads 0x8f5a43e5000298b5111ef643#96 (.vcas false 54 59 2405057509 17 5 11 4) := by decide +kernel

theorem test_decode_44 :
  reads 0x00000000000000000051c744#96 (.mand 7 7 5)
  ∧ reads 0x00000000004000000070c244#96 (.mnand 2 3 7)
  ∧ reads 0x000000000080000000514244#96 (.mandn 2 5 5)
  ∧ reads 0x0000000000c0000000414344#96 (.mor 3 5 4)
  ∧ reads 0x000000000100000000510244#96 (.mnor 2 4 5)
  ∧ reads 0x000000000140000000114144#96 (.morn 1 5 1)
  ∧ reads 0x000000000180000000110544#96 (.mxor 5 4 1)
  ∧ reads 0x0000000001c0000000504544#96 (.mxnor 5 1 5) := by decide +kernel

theorem test_decode_45 :
  reads 0x000000000000000500403b45#96 (.mcount 59 4 5)
  ∧ reads 0x000000000040000100503445#96 (.mfind 52 5 1)
  ∧ reads 0x000000000080000600100445#96 (.mcutLt 4 1 6)
  ∧ reads 0x0000000000c0000500100245#96 (.mcutLe 2 1 5)
  ∧ reads 0x000000000100000700400445#96 (.mcutEq 4 4 7)
  ∧ reads 0x000000000140000300403c45#96 (.vrank 60 4 3)
  ∧ reads 0x000000000180000400001045#96 (.vindex 16 4) := by decide +kernel

theorem test_decode_48_0 :
  reads 0x000000000003ff8401626048#96 (.vadd 32 9 (.vec 22) 14 15 15 4)
  ∧ reads 0x000000000043c68300756248#96 (.vsub 34 21 (.vec 7) 10 1 15 3)
  ∧ reads 0x0000000000a0d042032b4948#96 (.vrsub 9 45 (.scal 50) 1 4 3 2)
  ∧ reads 0x0000000000c29184013b0148#96 (.vmul 1 44 (.vec 19) 6 4 10 4)
  ∧ reads 0x000000000122a78302f80748#96 (.vmulh 7 32 (.scal 47) 14 9 10 3)
  ∧ reads 0x000000000161c5c602d36e48#96 (.vdiv 46 13 (.scal 45) 7 1 7 6)
  ∧ reads 0x0000000001a39246022d5b48#96 (.vrem 27 53 (.scal 34) 9 4 14 6)
  ∧ reads 0x0000000001e2a78500ea6348#96 (.vmacc 35 41 (.scal 14) 14 9 10 5)
  ∧ reads 0x000000000221b6c200f27748#96 (.vabsd 55 9 (.scal 15) 11 13 6 2)
  ∧ reads 0x00000000026751020159d548#96 (.vavg 21 39 (.scal 21) 4 4 13 2 .rtz)
  ∧ reads 0x000000000281d481010e4948#96 (.vand 9 57 (.vec 16) 2 5 7 1)
  ∧ reads 0x0000000002c0f34203dd9c48#96 (.vor 28 54 (.vec 61) 13 12 3 2) := by decide +kernel

theorem test_decode_48_1 :
  reads 0x000000000322908602ca5a48#96 (.vxor 26 41 (.scal 44) 2 4 10 6)
  ∧ reads 0x0000000003627086035ed748#96 (.vsll 23 59 (.scal 53) 2 12 9 6)
  ∧ reads 0x0000000003a353810215b148#96 (.vsrl 49 22 (.scal 33) 14 4 13 1)
  ∧ reads 0x0000000003c26a450021df48#96 (.vsra 31 7 (.vec 2) 9 10 9 5) := by decide +kernel

theorem test_decode_49_0 :
  reads 0x00000000000f8d0200d29f49#96 (.vfadd 31 10 (.vec 13) 4 3 14 2 .rup)
  ∧ reads 0x0000000000662cc1007b3c49#96 (.vfsub 60 44 (.scal 7) 3 11 8 1 .rtz)
  ∧ reads 0x00000000008d1d8501e69549#96 (.vfrsub 21 26 (.vec 30) 6 7 4 5 .rup)
  ∧ reads 0x0000000000cdcd0402da4149#96 (.vfmul 1 41 (.vec 45) 4 3 7 4 .rup)
  ∧ reads 0x0000000001248e8501a63049#96 (.vfdiv 48 24 (.scal 26) 10 3 2 5 .rtz)
  ∧ reads 0x000000000173bf06006e9549#96 (.vfrdiv 21 58 (.scal 6) 12 15 14 6 .rmm)
  ∧ reads 0x00000000022f758300d9e549#96 (.vfmacc 37 39 (.scal 13) 6 13 13 3 .rup)
  ∧ reads 0x00000000026bf8c403023b49#96 (.vfnmacc 59 8 (.scal 48) 3 14 15 4 .rdn)
  ∧ reads 0x0000000002a9f5870395ba49#96 (.vfmsac 58 22 (.scal 57) 6 13 7 7 .rdn)
  ∧ reads 0x0000000002c55b4402f39a49#96 (.vfnmsac 26 14 (.vec 47) 13 6 5 4 .rtz)
  ∧ reads 0x00000000033d0683e97e4149#96 (.vfma 1 57 (.scal 23) 58 10 1 4 3 .dyn)
  ∧ reads 0x0000000004324e8100e59449#96 (.vfsgnj 20 22 (.scal 14) 10 3 9 1 .rmm) := by decide +kernel

theorem test_decode_49_1 :
  reads 0x000000000445f48502a82149#96 (.vfsgnjn 33 32 (.vec 42) 2 13 7 5 .rtz)
  ∧ reads 0x0000000004a5e145007a0849#96 (.vfsgnjx 8 40 (.scal 7) 5 8 7 5 .rtz)
  ∧ reads 0x0000000005001ec100037149#96 (.vfclass 49 13 11 7 1) := by decide +kernel

theorem test_decode_4a :
  reads 0x00000000001265850114474a#96 (.vmin 7 17 (.vec 17) 6 9 9 5 .rmm)
  ∧ reads 0x00000000007e2c870258be4a#96 (.vmax 62 34 (.scal 37) 2 11 8 7 .dyn)
  ∧ reads 0x000000000221c4020279014a#96 (.vmeq 1 36 (.scal 39) 1 7 2)
  ∧ reads 0x000000000242600503f7c44a#96 (.vmne 4 31 (.vec 63) 8 9 5)
  ∧ reads 0x0000000002a15c0501c1054a#96 (.vmlt 5 4 (.scal 28) 7 5 5)
  ∧ reads 0x0000000002c214060149c44a#96 (.vmle 4 39 (.vec 20) 5 8 6)
  ∧ reads 0x000000000303300303c9034a#96 (.vmgt 3 36 (.vec 60) 12 12 3)
  ∧ reads 0x000000000342c4020320414a#96 (.vmge 1 1 (.vec 50) 1 11 2)
  ∧ reads 0x0000000003871bc402cc5b4a#96 (.vmerge 27 49 (.vec 44) 15 6 12 4 .rtz)
  ∧ reads 0x0000000003e8818702f0264a#96 (.vsplat 38 47 6 2 7 .rdn) := by decide +kernel

theorem test_decode_4b :
  reads 0x00000000002003810368164b#96 (.vlift 22 32 (.reg 54) 14 1)
  ∧ reads 0xd27158ef004002870002344b#96 (.vdrop 52 8 (.imm 3530643695) 10 7)
  ∧ reads 0x0000000000a0020400ecb24b#96 (.vliftx 50 50 14 8 4)
  ∧ reads 0x0000000000e003420194704b#96 (.vdropx 48 17 25 13 2)
  ∧ reads 0x000000000102838302a2984b#96 (.vpick 24 10 42 14 10 3)
  ∧ reads 0x00000000014003460009134b#96 (.vpack 19 36 13 6)
  ∧ reads 0x00000000018000c0000ef54b#96 (.vget 53 59 3)
  ∧ reads 0x0000000001e0018002a01c4b#96 (.vplace 28 42 6) := by decide +kernel

theorem test_decode_4c :
  reads 0x0000000000141bc101e1e64c#96 (.vfredosum 38 7 30 15 6 1 .sr)
  ∧ reads 0x00000000005c22870257064c#96 (.vfredusum 6 28 37 10 8 7 .dyn)
  ∧ reads 0x00000000008c074103551e4c#96 (.vfredmax 30 20 53 13 1 1 .rup)
  ∧ reads 0x0000000000cc0a8602bece4c#96 (.vfredmin 14 59 43 10 2 6 .rup)
  ∧ reads 0x0000000001081b03031be04c#96 (.vredsum 32 47 49 12 6 3 .rdn) := by decide +kernel

theorem test_decode_4d :
  reads 0x000000000000030302b5cf4d#96 (.vappend 15 23 43 12 3) := by decide +kernel

theorem test_decode_4e :
  reads 0x000000020015354101fbdc4e#96 (.vbfly 28 47 31 5 13 4 1 .sr 2) := by decide +kernel

theorem test_decode_4f :
  reads 0x0000000000083f04000d3c4f#96 (.vcvt 60 52 12 15 4 .rdn)
  ∧ reads 0x0000000100442906d40fbf4f#96 (.vcvtbs 63 62 53 4 10 6 .rtz 1)
  ∧ reads 0x00000000008410877806e84f#96 (.vcvtbd 40 27 30 2 4 7 .rtz) := by decide +kernel

theorem test_decode_50 :
  reads 0x000000000000218200089750#96 (.vexp 23 34 none 6 8 2)
  ∧ reads 0x000000000062ee840116eb50#96 (.vexp2 43 27 (some ⟨17, 11⟩) 10 11 4)
  ∧ reads 0x0000000000a0f142035c9850#96 (.vlog2 24 50 (some ⟨53, 3⟩) 5 12 2)
  ∧ reads 0x0000000000c017c70007d050#96 (.vrcp 16 31 none 15 5 7)
  ∧ reads 0x0000000001216e86012a2150#96 (.vrsqrt 33 40 (some ⟨18, 5⟩) 10 11 6)
  ∧ reads 0x0000000001615342029b6550#96 (.vsqrt 37 45 (some ⟨41, 5⟩) 13 4 2)
  ∧ reads 0x0000000001a3fd0602a43d50#96 (.vsin 61 16 (some ⟨42, 15⟩) 4 15 6)
  ∧ reads 0x0000000001c01544000a4350#96 (.vcos 3 41 none 5 5 4)
  ∧ reads 0x0000000002002503000a0250#96 (.vtanh 2 40 none 4 9 3)
  ∧ reads 0x0000000002400ec5000c4550#96 (.vsigmoid 5 49 none 11 3 5)
  ∧ reads 0x0000000002a2118301fa5050#96 (.verf 16 41 (some ⟨31, 8⟩) 6 4 3) := by decide +kernel

theorem test_decode_80 :
  reads 0x000000000000018000000080#96 (.amodeWs 6)
  ∧ reads 0x00000000000403c000000080#96 (.amodeRs 15)
  ∧ reads 0x000000000008000000000080#96 (.vmode) := by decide +kernel

theorem test_decode_81 :
  reads 0x000000000000030004054081#96 (.wld 1 21 12)
  ∧ reads 0x00000000000400000c001d81#96 (.wst 29 3) := by decide +kernel

theorem test_decode_82 :
  reads 0x00000062000143440ddee782#96 (.mrow 39 59 3 (some ⟨29, 34⟩) 13 5 4)
  ∧ reads 0x0000007a000502410af3d582#96 (.mrowAcc 21 15 2 (some ⟨47, 58⟩) 9 4 1)
  ∧ reads 0x0000000000098046080d9882#96 (.mslide 24 54 2 1 6 6)
  ∧ reads 0x00000000000d034608099a82#96 (.mslideAcc 26 38 2 13 4 6) := by decide +kernel

theorem test_decode_83 :
  reads 0x00000000000025c20f460083#96 (.macc 3 24 52 7 9 2)
  ∧ reads 0x00000000000408c70cc94083#96 (.maccz 3 37 12 3 2 7) := by decide +kernel

theorem test_decode_84 :
  reads 0x000000000003400008001e84#96 (.mdrain 30 2 13) := by decide +kernel

theorem test_decode_85 :
  reads 0x000000410000000000000085#96 (.achain 1 4)
  ∧ reads 0x000000000004000000000085#96 (.aunchain) := by decide +kernel

theorem test_decode_a0 :
  reads 0x0000000000000000000f80a0#96 (.hpload 62)
  ∧ reads 0x000000000000400e0000aaa0#96 (.hsig 2 42 14) := by decide +kernel

theorem test_decode_a1 :
  reads 0x000000000000000a03415ca1#96 (.kst 52 28 5 10) := by decide +kernel

theorem test_decode_a2 :
  reads 0x0000000500000000033523a2#96 (.bgath 35 20 51 5)
  ∧ reads 0x0000000b00000000006586a2#96 (.bgathDft 6 22 6 3)
  ∧ reads 0x0000000000004000007030a2#96 (.bxlatK 48 7)
  ∧ reads 0x000000010000400001503aa2#96 (.bxlatV 58 21) := by decide +kernel

theorem test_decode_a3 :
  reads 0x000000090000000003208da3#96 (.vsetre 13 2 50 9) := by decide +kernel

theorem test_decode_a4 :
  reads 0x0000000000000000029086a4#96 (.respin 6 2 41)
  ∧ reads 0x00000000000040000002aaa4#96 (.resrel 42 10) := by decide +kernel

theorem test_decode_a5 :
  reads 0x0000000000000000000c07a5#96 (.pgref 7 48)
  ∧ reads 0x000000000000400001cab5a5#96 (.pgunref 53 42 28) := by decide +kernel

theorem test_decode_b0 :
  reads 0x000000000000000c000400b0#96 (.strm 16 12)
  ∧ reads 0x00000062000000108003c0b0#96 (.strmV 15 32 (some 34)) := by decide +kernel

theorem test_decode_b1 :
  reads 0x0000000000000010000000b1#96 (.strmw none)
  ∧ reads 0x000000000000002001769eb1#96 (.crwait 30 26 23)
  ∧ reads 0x0000000000000040000d28b1#96 (.crpop 40 52) := by decide +kernel

theorem test_decode_b2 :
  reads 0xf7e0a3c200000000000000b2#96 (.tmark 4158694338)
  ∧ reads 0x553d49e800000020000000b2#96 (.tmarkNc 1430079976) := by decide +kernel

theorem test_decode_b3 :
  reads 0x000000000000000000026cb3#96 (.tmwait 44 9)
  ∧ reads 0x0000000000000020000800b3#96 (.tmwaive 32)
  ∧ reads 0x00000000000000400008e0b3#96 (.tmcnt 32 35) := by decide +kernel

theorem test_decode_c0 :
  reads 0x0000000000000000140000c0#96 (.phase .system)
  ∧ reads 0x0000000000000000240000c0#96 (.phaseRel .core)
  ∧ reads 0x0000000000000000540000c0#96 (.phaseAcq .system)
  ∧ reads 0x0000000200000000800000c0#96 (.phaseL 2)
  ∧ reads 0x0000000500000000a00000c0#96 (.phaseRelL 5)
  ∧ reads 0x0000000300000000c00000c0#96 (.phaseAcqL 3) := by decide +kernel

theorem test_decode_c1 :
  reads 0x0000000600000000000034c1#96 (.barArrive 52 6)
  ∧ reads 0x0000000600000000200140c1#96 (.barWait 5 6)
  ∧ reads 0x0000000500000000400000c1#96 (.barSync 5) := by decide +kernel

theorem test_decode_c2 :
  reads 0x0000000000000000003ec0c2#96 (.mcast 59 3)
  ∧ reads 0x000000000000000020001bc2#96 (.mrecv 27) := by decide +kernel

theorem test_decode_c3 :
  reads 0x0000000000000000000000c3#96 (.yield_)
  ∧ reads 0x0000000000000000200d71c3#96 (.sleep 49 53) := by decide +kernel

theorem test_decode_d0 :
  reads 0x0000000600000000000009d0#96 (.sget 9 6)
  ∧ reads 0x00000110000000002005c0d0#96 (.sset 272 23)
  ∧ reads 0x0000010000000000200d80d0#96 (.vlcapWrite 54)
  ∧ reads 0x0000000a00000000200e80d0#96 (.rseedWrite 58)
  ∧ reads 0x0000010100000000200dc0d0#96 (.dmodeWrite 55)
  ∧ reads 0x0000001000000000200b80d0#96 (.loopRegWrite .lc0 46) := by decide +kernel

theorem test_decode_d1 :
  reads 0x106b6a0500000000000000d1#96 (.sys 275474949)
  ∧ reads 0xf33335b700000000200000d1#96 (.brk 4080219575)
  ∧ reads 0x0000000000000000400000d1#96 (.tret)
  ∧ reads 0x0000000000000000600000d1#96 (.uiret) := by decide +kernel

theorem test_decode_d2 :
  reads 0x0000000000000000000fc0d2#96 (.tlbinv 63)
  ∧ reads 0x0000000000000000235480d2#96 (.tlbinvVa 18 53)
  ∧ reads 0x0000000000000000480000d2#96 (.fsync .cluster) := by decide +kernel

theorem test_decode_d3 :
  reads 0x000000000000000001f748d3#96 (.keyset 8 29 31)
  ∧ reads 0x0000000000000000200f12d3#96 (.keydel 18 60)
  ∧ reads 0x0000000000000000400d8ed3#96 (.ctxnew 14 54)
  ∧ reads 0x000000000000000060065bd3#96 (.ctxkill 27 25)
  ∧ reads 0x00000000000000008208a9d3#96 (.qbind 41 34 32)
  ∧ reads 0x000000010000000082e56cd3#96 (.qunbind 44 21 46)
  ∧ reads 0x000000020000000083fdb6d3#96 (.qpause 54 54 63)
  ∧ reads 0x0000000300000000815768d3#96 (.qresume 40 29 21)
  ∧ reads 0x0000000400000000803d85d3#96 (.qappend 5 54 3)
  ∧ reads 0x0000000000000000a27e12d3#96 (.scrub 18 56 39) := by decide +kernel

/-! ### States for the witnesses -/

namespace Wit

/-- Context 1 on device 0, at the least cap of the vector length. -/
def ctx1 : Ctx := { newCtx 1 0 [] with num := 1, save := 0x8000000, savesz := 0x1000000, kslot := 1 }

/-- One page of 64 MiB at virtual address 0 that may be read, written and fetched, with the device key. -/
def page : TlbEnt :=
  { die := 0, core := 0, ctx := 1, va := 0, size := 2 ^ 26, pa := 0, w := true, x := true, dev := false, ksel := true }

/-- The same page for the engines of the die. -/
def pageE : TlbEnt := { page with core := 64 }

/-- A launch of one hart. -/
def launch1 : Launch :=
  { lid := 1, ctx := 1, dev := 0, queue := 0, entry := 0, prio := 1, red := false, ydl := 1, arg := 0, stkbase := 0, stksz := 0,
    vlreq := 8192, ft := resetFt, ttptr := 0, deps := [0, 0, 0, 0], doneTok := 0x1001,
    levels := [{ dom := 0, scope := 0, gang := false, count := 1 }], grant := none,
    insts := [{ first := 0, n := 1, st := .placed 0 }], readyAt := some 0, ended := [], barriers := [] }

/-- A hart of that launch on core 0 of die 0, with all lanes. -/
def hart1 : Hart :=
  let h := Hart.reset
  { h with id := { h.id with uid := 1, ctx := 1, launch := 1 }, st := { h.st with life := .placed } }

/-- The machine with that hart placed. -/
def st0 : State :=
  { State.reset with hart := hart1, ctxs := [ctx1], launches := [launch1], fresh := 10, cycle := 1000,
                     mem := { State.reset.mem with tlb := [page, pageE] } }

/-- The machine whose next step fetches a word. -/
def onWord (w : Nat) : State := st0.withFetchWord 96 w

def withX (s : State) (r : XReg) (v : Word) : State := s.setX r v

def withSt (s : State) (f : HartStat → HartStat) : State := { s with hart := { s.hart with st := f s.hart.st } }

/-- Where the witnesses fetch from, and a place for data. -/
def codeAt : Acc := { loc := 0, key := .device, dev := false }
def dataAt : Acc := { loc := 0x100, key := .device, dev := false }

end Wit

open Wit

/-! ### Encoding, the step and reset -/

theorem wit_DecodeEncode : (Instr.sll 1 2 (.imm 63)).wf = true ∧ (encode (.sll 1 2 (.imm 63))).isSome = true := by decide +kernel

theorem wit_EncodeDecode : decode 0x00614501#96 = .ok (.add 5 5 (.reg 6)) := by decide +kernel

abbrev Wit.ready (s : State) : Prop := ReadyToIssue s

/-- The line at the pc of a witness, as it stands in memory, and that control enters it. -/
def Wit.lineAt (s : State) : BitVec 512 := fetchLine s s.hart 0 codeAt

abbrev Wit.enters (s : State) (b : BitVec 512) : Prop :=
  heldLine s.hart (lineOf s.hart.pc) = none ∧ fetchChk s s.hart (lineOf s.hart.pc) = .ok codeAt
    ∧ fetchLine s s.hart (lineOf s.hart.pc) codeAt = b ∧ parityBad b = none ∧ lineFault b = none

theorem Wit.inLine {s : State} {b : BitVec 512} (h : enters s b) : InLine s b := .inr ⟨h.1, codeAt, h.2⟩

theorem Wit.fetches {s : State} {b : BitVec 512} {w : BitVec 96} (e : enters s b)
    (h : s.hart.pc.toNat % 8 ≤ 4 ∧ s.hart.pc.toNat / 8 % 8 = 0 ∧ (tgtBit b (slotOf s.hart.pc) = true ∨ s.hart.st.entry = none)
      ∧ slotWord b (slotOf s.hart.pc) = w) : FetchesWord s b w := ⟨h.1, h.2.1, inLine e, h.2.2.1, h.2.2.2⟩

/-- Outside convoys (`add`), SOLO (`vmode`), and alone in its convoy (`vld`). -/
theorem wit_StepRunsDecoded :
    (ready (onWord 0x00614501) ∧ FetchesWord (onWord 0x00614501) (lineAt (onWord 0x00614501)) 0x00614501
      ∧ decodeFor (onWord 0x00614501).hart 0x00614501 = .ok (.add 5 5 (.reg 6))
      ∧ regsBusy (entered (onWord 0x00614501) (lineAt (onWord 0x00614501))) (.add 5 5 (.reg 6)) = false
      ∧ wordClass 0x00614501 = none ∧ cendBit (lineAt (onWord 0x00614501)) 0 = false)
    ∧ (ready (onWord 0x0008000000000080) ∧ FetchesWord (onWord 0x0008000000000080) (lineAt (onWord 0x0008000000000080)) 0x0008000000000080
      ∧ decodeFor (onWord 0x0008000000000080).hart 0x0008000000000080 = .ok .vmode
      ∧ regsBusy (entered (onWord 0x0008000000000080) (lineAt (onWord 0x0008000000000080))) .vmode = false
      ∧ wordClass 0x0008000000000080 = some .solo)
    ∧ (ready (onWord 0x0000000100028041) ∧ FetchesWord (onWord 0x0000000100028041) (lineAt (onWord 0x0000000100028041)) 0x0000000100028041
      ∧ decodeFor (onWord 0x0000000100028041).hart 0x0000000100028041 = .ok (.vld 0 10 0 1 0 0)
      ∧ regsBusy (entered (onWord 0x0000000100028041) (lineAt (onWord 0x0000000100028041))) (.vld 0 10 0 1 0 0) = false
      ∧ (wordClass 0x0000000100028041).isSome = true ∧ wordClass 0x0000000100028041 ≠ some .solo
      ∧ cendBit (lineAt (onWord 0x0000000100028041)) 0 = true) := by
  have r : ∀ w ∈ [0x00614501, 0x0008000000000080, 0x0000000100028041], ready (onWord w) := by unfold ready ReadyToIssue; decide +kernel
  have e : ∀ w ∈ [0x00614501, 0x0008000000000080, 0x0000000100028041], enters (onWord w) (lineAt (onWord w)) := by decide +kernel
  exact ⟨⟨r _ (by simp), Wit.fetches (e _ (by simp)) (by decide +kernel), by decide +kernel, by decide +kernel, by decide +kernel, by decide +kernel⟩,
    ⟨r _ (by simp), Wit.fetches (e _ (by simp)) (by decide +kernel), by decide +kernel, by decide +kernel, by decide +kernel⟩,
    r _ (by simp), Wit.fetches (e _ (by simp)) (by decide +kernel), by decide +kernel, by decide +kernel, by decide +kernel, by decide +kernel,
    by decide +kernel⟩

/-- A hart whose next instruction writes DMODE, one with another, and a third on the next core. -/
def Wit.two (w : Nat) (priv : Bool) : State :=
  let s := withX (onWord w) 5 1
  { s with hart := { s.hart with st := { s.hart.st with priv := priv } },
           others := [{ hart1 with id := { hart1.id with uid := 2, core := 1 }, pc := 0x1000, st := { hart1.st with priv := priv } }] }

theorem wit_StepRunsDecoded_event :
    (nextTurn { st0 with agenda := [⟨3, .event .undervoltage⟩] } ⟨3, .event .undervoltage⟩ [] = (⟨3, .event .undervoltage⟩, [])
      ∧ isEvent .undervoltage = true ∧ leftToPair { st0 with agenda := [], cycle := st0.cycle + 3 } .undervoltage = false)
    ∧ (writesMode (two (((encode (.dmodeWrite 5)).getD 0).toNat) true) (.run 1) = true
      ∧ writesMode (two (((encode (.dmodeWrite 5)).getD 0).toNat) true) (.run 2) = false)
    ∧ (writesMode (two 0x00614501 false) (.run 1) = false ∧ writesMode (two 0x00614501 false) (.run 2) = false
      ∧ (findHart (two 0x00614501 false) 1).map (·.id.core) = some 0 ∧ (findHart (two 0x00614501 false) 2).map (·.id.core) = some 1) := by
  decide +kernel

/-- A line whose reserved bit 502 is set, a slot without TGT, a word of no major and one with a reserved bit. -/
def Wit.badLine (b : BitVec 512) : State := putHome (onWord 0) .device 0 (natLe 64 b.toNat) false

theorem wit_FetchTraps :
    (ready (badLine (BitVec.twoPow 512 502)) ∧ heldLine (badLine (BitVec.twoPow 512 502)).hart 0 = none
      ∧ fetchChk (badLine (BitVec.twoPow 512 502)) (badLine (BitVec.twoPow 512 502)).hart 0 = .ok codeAt
      ∧ parityBad (lineAt (badLine (BitVec.twoPow 512 502))) = none ∧ lineFault (lineAt (badLine (BitVec.twoPow 512 502))) = some 502)
    ∧ (ready (withSt (badLine 0) (fun x => { x with entry := some 64 })) ∧ InLine (withSt (badLine 0) (fun x => { x with entry := some 64 })) 0
      ∧ tgtBit 0 0 = false)
    ∧ (ready (onWord 0) ∧ InLine (onWord 0) (lineAt (onWord 0)) ∧ (onWord 0).hart.st.entry = none
      ∧ decode (slotWord (lineAt (onWord 0)) 0) = .err .opc)
    ∧ (InLine (onWord (0x00614501 + 2 ^ 26)) (lineAt (onWord (0x00614501 + 2 ^ 26)))
      ∧ decodeFor (onWord 0).hart (slotWord (lineAt (onWord (0x00614501 + 2 ^ 26))) 0) = .err (.reserved 26)) := by
  refine ⟨?_, ⟨?_, Wit.inLine ?_, ?_⟩, ⟨?_, Wit.inLine ?_, ?_⟩, Wit.inLine ?_, ?_⟩ <;> (try unfold ready ReadyToIssue) <;> decide +kernel

theorem wit_FetchTraps_decode :
    (0x00614501#96).toNat % 256 ≠ 0x4F
    ∧ (∃ w, encode (.vcvtbs 4 1 8 7 0 0 .rne 3) = some w ∧ decode w = .ok (.vcvtbs 4 1 8 7 0 0 .rne 3))
    ∧ (fmt st0.hart 7).sck = 1 ∧ (fmt st0.hart 0).sck ≠ 1 := by
  refine ⟨by decide, ⟨(encode (.vcvtbs 4 1 8 7 0 0 .rne 3)).getD 0, ?_⟩, ?_⟩ <;> decide +kernel

theorem wit_StepKeepsMemory : MemOk st0 ∧ (∃ t, step (onWord 0x00614501) = .next t) := by
  refine ⟨by unfold MemOk; decide +kernel, ?_⟩
  have h : (match step (onWord 0x00614501) with | .next _ => true | _ => false) = true := by decide +kernel
  revert h; cases step (onWord 0x00614501) <;> simp

theorem wit_HomeMemory : MemOk st0 ∧ isTile 0x100 = false ∧ 0x100 + [(1 : Byte)].length ≤ 2 ^ 64
    ∧ isTile (tileLoc 1 2 0) = true ∧ keyOfGran st0.mem (granule 0x100) = none
    ∧ keyOfGran st0.mem (granule 0xFFFF80002) = some .device ∧ (KeyTag.material 0) ≠ KeyTag.device := by
  unfold MemOk; decide +kernel

/-- Nothing else touches the word; and the hart's own store of the whole word, that waits for the strong access. -/
theorem wit_StrongAccesses :
    (MemOk st0 ∧ 64 % 8 = 0 ∧ 0x100 % 8 = 0 ∧ racedBytes st0 st0.hart 0x100 8 = [] ∧ st0.hart.own = []
      ∧ (∀ j, j < 8 → ∀ w, copyRaces st0 (0x100 + j) w = false) ∧ keyOfGran st0.mem (granule 0xFFFF80008) = some .device)
    ∧ (let s := ownStore st0 .device 0x100 0x100 (natLe 8 5) false
       MemOk s ∧ racedBytes s s.hart 0x100 8 = [] ∧ (∀ j, j < 8 → ∀ w, copyRaces s (0x100 + j) w = false)
       ∧ (s.hart.own.map (·.wid)).Nodup ∧ (∀ o ∈ s.hart.own, o.ov = true)
       ∧ (∀ j, j < 8 → ∃ o ∈ s.hart.own, o.loc = 0x100 + j)
       ∧ (∀ o ∈ s.hart.own, 0x100 ≤ o.loc → o.loc < 0x108 → o.done = false)
       ∧ (∀ o ∈ s.hart.own, granule o.loc = granule 0x100 → o.key = .device)
       ∧ ∃ o ∈ s.hart.own, ∃ q ∈ s.hart.own, o.wid ≠ q.wid ∧ o.acc = q.acc) := by
  unfold MemOk; decide +kernel

/-! ### Scalar registers, retirement and results -/

theorem wit_ScalarRegisters : (5 : XReg) ≠ 0 ∧ (6 : XReg) ≠ 5 ∧ 56 ≤ (56 : XReg).val ∧ (55 : XReg).val < 56 ∧ true ≠ hart1.ui.act := by
  decide

/-- The end checks of the loops at the present slot. -/
def Wit.atEnd (lc1 lc0 : Nat) (lb : Word) (e1 e0 : Word) : State :=
  { st0 with hart := { st0.hart with loop1 := { st0.hart.loop1 with lc := BitVec.ofNat 64 lc1, lb := lb, le := e1 },
                                     loop0 := { st0.hart.loop0 with lc := BitVec.ofNat 64 lc0, lb := lb, le := e0 } } }

theorem wit_RetirementAndTransfer :
    NoEnd st0.hart
    ∧ (EndsAt (atEnd 2 0 0x40 0 0).hart.loop1 0 ∧ EndInRange (atEnd 2 0 0x40 0 0).hart)
    ∧ (EndsAt (atEnd 1 2 0x40 0 0).hart.loop1 0 ∧ EndsAt (atEnd 1 2 0x40 0 0).hart.loop0 0 ∧ EndInRange (atEnd 1 2 0x40 0 0).hart)
    ∧ (EndsAt (atEnd 1 2 0x40 0 8).hart.loop1 0 ∧ ¬ EndsAt (atEnd 1 2 0x40 0 8).hart.loop0 0)
    ∧ (¬ EndsAt (atEnd 0 1 0x40 0 0).hart.loop1 0 ∧ EndsAt (atEnd 0 1 0x40 0 0).hart.loop0 0)
    ∧ (EndsAt (atEnd 0 2 0x40 0 0).hart.loop0 0 ∧ EndInRange (atEnd 0 2 0x40 0 0).hart)
    ∧ beyond ((atEnd 2 0 (2 ^ 48) 0 0).hart.loop1.lbP.getD (2 ^ 48)) := by
  refine ⟨by unfold NoEnd EndsAt; decide, ⟨by unfold EndsAt; decide, ?_⟩, ⟨by unfold EndsAt; decide, by unfold EndsAt; decide, ?_⟩,
    ⟨by unfold EndsAt; decide, by unfold EndsAt; decide⟩, ⟨by unfold EndsAt; decide, by unfold EndsAt; decide⟩,
    ⟨by unfold EndsAt; decide, ?_⟩, by unfold beyond; decide⟩ <;>
  · intro l hl _; rcases hl with rfl | rfl <;> decide

theorem wit_ScalarResults :
    (logicResult st0 (.add 5 6 (.imm 1))).isSome = true ∧ (logicResult st0 (.sltu 5 6 (.reg 7))).isSome = true
    ∧ (shiftResult st0 (.sraw 5 6 (.imm 31))).isSome = true ∧ (mulDivResult st0 (.div 5 6 (.reg 7))).isSome = true
    ∧ (bitsResult st0 (.bext 5 6 63 0)).isSome = true := by decide +kernel

theorem wit_ScalarFrame : (∃ d v p, logicResult st0 (.add 5 6 (.imm 1)) = some (d, v, p)) ∧ EndInRange st0.hart
    ∧ ∃ t, exec (.add 5 6 (.imm 1)) st0 = .next t := by
  refine ⟨⟨_, _, _, rfl⟩, ?_, ⟨_, rfl⟩⟩
  intro l hl h; rcases hl with rfl | rfl <;> exact absurd rfl h.1

/-! ### Scalar memory -/

/-- A DEV page, and one that may only be read, at 0x5000000 and 0x6000000. -/
def Wit.withPages (s : State) : State :=
  { s with mem := { s.mem with tlb := { page with va := 0x5000000, size := 65536, dev := true }
    :: { page with va := 0x6000000, size := 65536, w := false } :: s.mem.tlb } }

def Wit.st1 : State := withX (withX (withPages st0) 6 0x100) 7 0x5000000

theorem wit_ScalarLoads :
    (∃ d b x o w g, loadForm (.ldw 5 6 0 0) = some (d, b, x, o, w, g)) ∧ AddressClean st1 [6, 0]
    ∧ (∃ a, globalCheck st1 st1.hart (accessAddr st1 6 0 0) 4 .read = .ok a ∧ a.dev = false ∧ NoRace st1 a.loc 4 false)
    ∧ (∃ a, globalCheck st1 st1.hart (accessAddr st1 6 0 0) 16 .read = .ok a ∧ a.dev = false ∧ NoRace st1 a.loc 16 false) := by
  refine ⟨⟨_, _, _, _, _, _, rfl⟩, by unfold AddressClean; decide +kernel, ⟨dataAt, ?_⟩, ⟨dataAt, ?_⟩⟩ <;> unfold NoRace <;> decide +kernel

theorem wit_ScalarStores :
    (∃ r, storeForm st1 (.stb 5 6 0 0) = some r) ∧ AddressClean st1 [6, 0] ∧ EndInRange st1.hart
    ∧ ∃ a, globalCheck st1 st1.hart (accessAddr st1 6 0 0) 1 .write = .ok a ∧ a.dev = false ∧ NoRace st1 a.loc 1 true := by
  refine ⟨⟨_, rfl⟩, by unfold AddressClean; decide +kernel, ?_, ⟨dataAt, ?_⟩⟩
  · intro l hl h; rcases hl with rfl | rfl <;> exact absurd rfl h.1
  · unfold NoRace; decide +kernel

/-- A hart with a release that waits for the comparator. -/
def Wit.waiting (s : State) : State :=
  { s with hart := { s.hart with pend := [{ scope := .die, set := [], remote := [], after := .nothing, sig := 0, since := 0,
                                            agreed := false, pins := [] }] } }

theorem wit_ScalarStrongForms :
    (amoRule (.amoadd .w 5 8 6 0)).isSome = true ∧ AddressClean st1 [6] ∧ (flushPend st1).hart.pend = []
    ∧ (globalCheck st1 st1.hart (accessAddr st1 6 0 0) 16 .write = .ok dataAt) ∧ ovlFires st1 st1.hart dataAt.loc 16 = none
    ∧ (flushPend (waiting st1)).hart.pend ≠ []
    ∧ (globalCheck st1 st1.hart (accessAddr st1 7 0 0) 16 .write = .ok { loc := 0, key := .device, dev := true })
    ∧ ovlFires st1 st1.hart 0 16 = none ∧ (loadForm (.ldd 5 7 0 0)).isSome = true ∧ (storeForm st1 (.std 5 7 0 0)).isSome = true := by
  unfold AddressClean; decide +kernel

theorem wit_ScalarAccessFaults :
    (scalarAccess st1 (.ldw 5 6 0 0)).isSome = true
    ∧ poisX ({ st0 with hart := setXH st0.hart 6 0 true } : State).hart 6 = true ∧ AddressClean st1 [6, 0]
    ∧ scalarAccess (withX st1 6 0x1000000000000) (.ldb 5 6 0 0) = some (0x1000000000000, 1, .read, [6, 0])
    ∧ scalarAccess (withX st1 6 0xFFFFFFFFFFFF) (.ldw 5 6 0 0) = some (0xFFFFFFFFFFFF, 4, .read, [6, 0])
    ∧ checkGlobal st1 0 0 1 0xFFFFFFFFFFFF .read = .fault 0x000A
    ∧ checkGlobal st1 0 0 1 0x6000000 .write = .fault 0x000C
    ∧ checkGlobal { st1 with mem := { st1.mem with tlb := [{ page with ksel := false }] } } 0 0 1 0 .read = .fault 0x0010 := by
  unfold AddressClean; decide +kernel

/-! ### Control, traps and returns -/

/-- A pc on the last line of the address range, and registers for jumps. -/
def Wit.stJ : State :=
  withX (withX (withX { st0 with hart := { st0.hart with pc := 0xFFFFFFFFFFC4 } } 5 0x44) 6 0x45) 7 (2 ^ 48)

theorem wit_ControlTransfers :
    ¬ beyond (relTarget stJ 4 0) ∧ beyond (relTarget stJ 0 1) ∧ poisX stJ.hart 5 = false ∧ CodeOk (stJ.x 5) ∧ ¬ CodeOk (stJ.x 6)
    ∧ ¬ CodeOk (stJ.x 7) ∧ poisX ({ st0 with hart := setXH st0.hart 6 0 true } : State).hart 6 = true
    ∧ (∃ r, branchRule stJ (.beq 5 5 1 0) = some r ∧ r.2.2.2.2 = true) ∧ (∃ r, branchRule stJ (.beq 5 6 1 0) = some r ∧ r.2.2.2.2 = false) := by
  refine ⟨by unfold beyond; decide +kernel, by unfold beyond; decide +kernel, by decide +kernel, by unfold CodeOk; decide +kernel,
    by unfold CodeOk; decide +kernel, by unfold CodeOk; decide +kernel, by decide +kernel, ⟨_, rfl, by decide +kernel⟩, ⟨_, rfl, by decide +kernel⟩⟩

theorem wit_Loops :
    poisX stJ.hart 5 = false ∧ beyond (relTarget stJ 0 1) ∧ ¬ beyond (relTarget stJ 3 0) ∧ stJ.x 5 ≠ 0 ∧ stJ.x 9 = 0
    ∧ ¬ beyond (relTarget stJ 4 0) ∧ beyond (nextSlot (relTarget stJ 4 0)) ∧ ¬ beyond (nextSlot (relTarget stJ 3 0)) := by
  unfold beyond; decide +kernel

theorem wit_TrapsTaken :
    st0.hart.st.fresh = false
    ∧ (let s := withSt st0 (fun x => { x with fresh := true }); s.hart.st.fresh = true ∧ s.hart.pc = s.hart.trap.tvec ∧ s.hart.id.ctx ≠ 0
        ∧ findCtx s s.hart.id.ctx = some ctx1) ∧ EndInRange st0.hart ∧ NoEnd st0.hart := by
  refine ⟨rfl, by decide +kernel, ?_, by unfold NoEnd EndsAt; decide⟩
  intro l hl h; rcases hl with rfl | rfl <;> exact absurd rfl h.1

def Wit.stU (act pend en : Bool) : State := { st0 with hart := { st0.hart with ui := { st0.hart.ui with act := act, pend := pend, en := en } } }
def Wit.stP : State := withSt st0 (fun x => { x with priv := true })

theorem wit_Returns :
    stP.hart.st.priv = true ∧ (stU false false false).hart.ui.act = false ∧ (encode .uiret).isSome = true
    ∧ ((stU true true true).hart.ui.act = true ∧ (stU true true true).hart.ui.pend = true ∧ (stU true true true).hart.ui.en = true
      ∧ (stU true true true).hart.ui.uivec.toNat < 2 ^ 48)
    ∧ (stU true false true).hart.ui.pend = false ∧ (stU true true false).hart.ui.en = false
    ∧ 2 ^ 48 ≤ (0x1000000000000 : Word).toNat := by decide +kernel

/-! ### State registers and privilege -/

theorem wit_StateRegistersRead :
    (0x00C : BitVec 12).toNat ∉ allocatedNumbers ∧ 0x100 ∈ allocatedNumbers ∧ 0x101 ∈ allocatedNumbers ∧ st0.hart.st.priv = false
    ∧ stP.hart.st.priv = true ∧ 0 ∈ allocatedNumbers := by decide +kernel

theorem wit_StateRegistersWritten :
    0xFFF ∉ allocatedNumbers ∧ 0x105 ∈ allocatedNumbers ∧ 0x04F ∈ allocatedNumbers ∧ ssetSpecial 0x04F = false ∧ poisX st0.hart 5 = false
    ∧ (loopOf (atEnd 1 0 0 0 0).hart true).lc ≠ 0 ∧ (loopOf st0.hart true).lc = 0
    ∧ (modeCode stP.pkg.mode = ux stP 5 % 4 ∧ stP.ctxs ≠ [] ∧ ux (withX stP 5 1) 5 % 4 ≠ modeCode stP.pkg.mode
      ∧ ux (withX stP 5 3) 5 % 4 = 3)
    ∧ (let s := { withX stP 5 2 with ctxs := [] }; s.ctxs = [] ∧ s.pkg.chg = none ∧ ux s 5 % 4 < 3 ∧ ux s 5 % 4 ≠ modeCode s.pkg.mode) := by
  decide +kernel

theorem wit_PrivilegedForms : isPrivileged .tret = true ∧ (encode .tret).isSome = true ∧ isPrivileged (.scrub 1 2 3) = true
    ∧ (encode (.scrub 1 2 3)).isSome = true ∧ st0.hart.st.priv = false := by decide +kernel

/-- A slot of key material at every controller. -/
def Wit.withKey (s : State) : State := (keysetOp s 0 0x4000 1).1

/-- A context descriptor that passes every check, in device memory at 0x4000. -/
def Wit.withDescr (s : State) : State := devWrite (devWrite s 0 0x402C [1, 0]) 0 0x4010 (natLe 8 0x100000)

theorem wit_PrivilegedEffects :
    (findCtx stP 1).isSome = true ∧ findCtx stP 2 = none ∧ poisX stP.hart 5 = false ∧ MemOk stP
    ∧ (slotMaterial stP 0 1) = none ∧ (slotMaterial stP 0 1023) = none ∧ (slotMaterial (withKey stP) 0 1).isSome = true
    ∧ stP.pkg.chg = none ∧ ({ stP with pkg := { stP.pkg with chg := some 3 } } : State).pkg.chg.isSome = true
    ∧ (devRead stP 0 0x4000 64).isSome = true ∧ devRead stP 0 (2 ^ 41) 64 = none
    ∧ (∃ b, devRead (withDescr (withKey stP)) 0 0x4000 64 = some b ∧ ctxCheck (withDescr (withKey stP)) 0 b = none)
    ∧ 0x1000 + 64 ≤ paLimit stP.pkg.mode ∧ inRange stP.pkg 0 0x1000 64 (64 * granule 0x2000000000) = false := by
  refine ⟨by decide +kernel, by decide +kernel, by decide +kernel, by unfold MemOk; decide +kernel, by decide +kernel, by decide +kernel,
    by decide +kernel, rfl, rfl, by decide +kernel, by decide +kernel, ⟨(devRead (withDescr (withKey stP)) 0 0x4000 64).getD [], ?_⟩, by decide +kernel,
    by decide +kernel⟩
  decide +kernel

/-! ### Vectors -/

/-- VL 2 over entry 0 (FP32), one register, VES 0; registers that differ; and the address registers of the memory forms. -/
def Wit.stV : State :=
  let s := withX (withX st0 10 0x2000) 11 8
  { s with hart := { s.hart with
      vc := { s.hart.vc with vl := 2, vtype := 0 }
      vf := { s.hart.vf with v := ((s.hart.vf.v.set 1 0x4000000040000000).set 2 0x3F8000003F800000).set 3 0x0000000400000000 } } }

/-- The form passes its checks at issue. -/
def Wit.accepts (h : Hart) (i : Instr) : Bool := match vecForm h i with | some F => (refusal h F).isNone | none => false

def Wit.refuses (h : Hart) (i : Instr) (c : Nat) : Bool :=
  match vecForm h i with | some F => (match refusal h F with | some r => r.1 == c | none => false) | none => false

def Wit.withVt (s : State) (vl : BitVec 17) (vt : Word) : State :=
  { s with hart := { s.hart with vc := { s.hart.vc with vl := vl, vtype := vt } } }

theorem wit_VectorConfiguration :
    poisX stV.hart 5 = false ∧ poisX ({ st0 with hart := setXH st0.hart 6 0 true } : State).hart 6 = true
    ∧ (withVt stV 0 0x8000000000000000).hart.vc.vtype.toNat.testBit 63 = true
    ∧ stV.hart.vc.vtype.toNat.testBit 63 = false ∧ fmtValid (entry stV.hart (vtFmt stV.hart)) = true
    ∧ fmtValid (entry (withVt stV 2 11).hart (vtFmt (withVt stV 2 11).hart)) = false := by decide +kernel

/-- VILL, VL beyond a group, an invalid entry, one not admitted, a group out of place, an overlap; and a cut onto its source. -/
theorem wit_VectorRefusals :
    refuses (withVt stV 2 0x8000000000000000).hart (.vadd 4 1 (.vec 2) 6 6 6 0) 3 = true
    ∧ refuses (withVt stV 257 0).hart (.vadd 4 1 (.vec 2) 6 6 6 0) 3 = true ∧ accepts (withVt stV 256 0).hart (.vadd 4 1 (.vec 2) 6 6 6 0) = true
    ∧ refuses stV.hart (.vadd 4 1 (.vec 2) 11 6 6 0) 4 = true ∧ refuses stV.hart (.vadd 4 1 (.vec 2) 0 6 6 0) 4 = true
    ∧ refuses (withVt stV 2 0x10).hart (.vadd 5 2 (.vec 2) 6 6 6 0) 1 = true ∧ refuses stV.hart (.vadd 1 1 (.vec 2) 6 9 6 0) 1 = true
    ∧ (1 : MReg) = 1 := by decide +kernel

theorem wit_IntegerVectors :
    accepts stV.hart (.vadd 4 1 (.vec 2) 6 6 6 0) = true ∧ (intRule (.vadd 4 1 (.vec 2) 6 6 6 0)).isSome = true
    ∧ accepts stV.hart (.vdiv 4 1 (.scal 10) 6 9 5 0) = true ∧ (intRule (.vdiv 4 1 (.scal 10) 6 9 5 0)).isSome = true
    ∧ accepts stV.hart (.vsra 4 1 (.vec 2) 6 6 5 0) = true ∧ (codeRule (.vsra 4 1 (.vec 2) 6 6 5 0)).isSome = true
    ∧ accepts stV.hart (.vavg 4 1 (.vec 2) 6 6 6 0 .sr) = true ∧ rmode stV.hart .sr = 5 ∧ mbit stV.hart 0 1 = true := by decide +kernel

theorem wit_FloatVectors :
    accepts stV.hart (.vfadd 4 1 (.vec 2) 0 0 1 0 .rne) = true ∧ (floatRule (.vfadd 4 1 (.vec 2) 0 0 1 0 .rne)).isSome = true
    ∧ accepts stV.hart (.vfma 4 1 (.vec 2) 3 0 0 0 0 .dyn) = true
    ∧ accepts stV.hart (.vfsgnjx 4 1 (.vec 2) 0 0 0 0 .rdn) = true ∧ (signRule (.vfsgnjx 4 1 (.vec 2) 0 0 0 0 .rdn)).isSome = true
    ∧ accepts stV.hart (.vfclass 4 1 5 0 0) = true ∧ accepts stV.hart (.vcvt 4 1 1 0 0 .sr) = true
    ∧ fdecode (parseFmt 0x1043FAF1) 0x7F800001 = .nan false ∧ fdecode (parseFmt 0x1043FAF1) 0x7FC00000 = .nan true
    ∧ fdecode (parseFmt 0x1043FAF1) 0xFF800000 = .inf true ∧ fdecode (parseFmt 0x1043FAF1) 0x80000000 = .zero true
    ∧ (∃ g m e t, fdecode (parseFmt 0x1043FAF1) 1 = .fin g m e t) ∧ ∃ g m e t, fdecode (parseFmt 0x00A003E1) 5 = .fin g m e t := by
  refine ⟨?_, ?_, ?_, ?_, ?_, ?_, ?_, ?_, ?_, ?_, ?_, ⟨false, 1, -149, false, ?_⟩, ⟨false, 5, 0, false, ?_⟩⟩ <;> decide +kernel

theorem wit_ExactThenRounded :
    unitsOf2 0 (.fin false 3 0 false) = some 3 ∧ unitsOf2 0 (.fin true 1 1 false) = some (-2) ∧ unitsOf2 (0 + 0) (.zero false) = some 0
    ∧ (0 : Int) < 1 ∧ 65535 < 2 ^ 16 ∧ 4 % 2 ^ ((1 : Int) - 0).toNat = 0 ∧ 2 * (5 % 2 ^ ((1 : Int) - 0).toNat) = 2 ^ ((1 : Int) - 0).toNat := by
  decide +kernel

theorem wit_CompareAndSelect :
    accepts stV.hart (.vmlt 1 1 (.vec 2) 0 0 0) = true ∧ (compareRule (.vmlt 1 1 (.vec 2) 0 0 0)).isSome = true
    ∧ accepts stV.hart (.vmerge 4 1 (.vec 2) 0 0 0 0 .rne) = true ∧ accepts stV.hart (.vsplat 4 10 0 0 0 .sr) = true
    ∧ 0 < vlOf stV.hart := by decide +kernel

theorem wit_MasksAndScans :
    (maskRule (.mnand 1 2 3)).isSome = true ∧ (cutRule (.mcutLe 1 2 3)).isSome = true ∧ (1 : MReg) ≠ 2 ∧ firstBoth stV.hart 0 0 < vlOf stV.hart
    ∧ ¬ firstBoth stV.hart 1 0 < vlOf stV.hart ∧ accepts stV.hart (.vrank 4 0 0) = true ∧ accepts stV.hart (.vindex 4 0) = true := by
  decide +kernel

theorem wit_ButterflyBlocksFunctions :
    accepts stV.hart (.vbfly 4 1 2 0 0 0 0 .rne 1) = true ∧ accepts stV.hart (.vcvtbd 4 1 8 0 7 0 .rne) = true
    ∧ accepts stV.hart (.vcvtbs 4 1 8 7 0 0 .rne 0) = true ∧ accepts stV.hart (.vcvtbs 4 1 8 7 0 0 .rne 3) = true
    ∧ groupSize stV.hart ≤ 8 ∧ mbit stV.hart 0 0 = true ∧ startsAt stV.hart = 0
    ∧ (∀ i ∈ [Instr.vexp 4 1 none 0 0 0, .vexp2 4 1 none 0 0 0, .vlog2 4 1 none 0 0 0, .vrcp 4 1 none 0 0 0, .vrsqrt 4 1 none 0 0 0,
        .vsqrt 4 1 none 0 0 0, .vsin 4 1 none 0 0 0, .vcos 4 1 none 0 0 0, .vtanh 4 1 none 0 0 0, .vsigmoid 4 1 none 0 0 0,
        .verf 4 1 (some ⟨10, 0⟩) 0 0 0], accepts stV.hart i = true) := by decide +kernel

theorem wit_Permutes :
    accepts stV.hart (.vlift 4 1 (.imm 1) 0 0) = true ∧ accepts stV.hart (.vpick 4 1 2 0 6 0) = true
    ∧ (permuteRule stV.hart (.vlift 4 1 (.imm 1) 0 0)).isSome = true ∧ accepts stV.hart (.vpack 4 1 0 0) = true
    ∧ accepts stV.hart (.vget 5 1 0) = true ∧ accepts stV.hart (.vplace 4 10 0) = true
    ∧ vlOf (withVt stV 0 0).hart ≤ startsAt (withVt stV 0 0).hart := by decide +kernel

theorem wit_Reductions :
    accepts stV.hart (.vfredosum 4 1 2 0 0 0 .rne) = true ∧ accepts stV.hart (.vfredusum 4 1 2 0 0 0 .sr) = true
    ∧ accepts stV.hart (.vfredmax 4 1 2 0 0 0 .rne) = true ∧ accepts stV.hart (.vfredmin 4 1 2 0 0 0 .rne) = true
    ∧ accepts stV.hart (.vredsum 4 1 2 6 6 0 .rne) = true ∧ startsAt stV.hart < vlOf stV.hart := by decide +kernel

/-! ### Vector memory -/

def Wit.placeV (i f : Nat) : Acc := { loc := 0x1000000000 * 2 + (i + f) * 4, key := .device, dev := false }

theorem wit_reach (u : Use) (hu : u = .read ∨ u = .write) : FieldsReach stV (unitForm 4 10 0 0 0 0) u placeV := by
  have key : ∀ w ∈ [Use.read, Use.write], ∀ i, i < 2 → ∀ f, f < 1 →
      elemPlace stV (fieldAddr stV.hart (unitForm 4 10 0 0 0 0) i f) (fieldBytes (fmt stV.hart (unitForm 4 10 0 0 0 0).fe).n) w = .mem (placeV i f)
      ∧ (placeV i f).dev = false
      ∧ ∀ j, j < fieldBytes (fmt stV.hart (unitForm 4 10 0 0 0 0).fe).n → copyRaces stV ((placeV i f).loc + j) (decide (w = .write)) = false := by
    decide +kernel
  have e : vlOf stV.hart = 2 := by decide +kernel
  intro i f h hf
  exact key u (by rcases hu with rfl | rfl <;> simp) i (e ▸ h.2.1) f hf

theorem wit_clean : AddressesClean stV.hart (unitForm 4 10 0 0 0 0) := by
  refine ⟨by decide +kernel, ?_, ?_⟩
  · intro xo h; exact absurd h (by simp [unitForm])
  · intro vo fi o h; exact absurd h (by simp [unitForm])

theorem wit_VectorLoads :
    vecLoad (.vld 4 10 0 0 0 0) = some (unitForm 4 10 0 0 0 0) ∧ accepts stV.hart (.vld 4 10 0 0 0 0) = true
    ∧ AddressesClean stV.hart (unitForm 4 10 0 0 0 0) ∧ FieldsReach stV (unitForm 4 10 0 0 0 0) .read placeV :=
  ⟨rfl, by decide +kernel, wit_clean, wit_reach .read (.inl rfl)⟩

/-- The last element below the end of the page, and the first beyond it. -/
def Wit.stE : State := withX stV 10 0x3FFFFFC
def Wit.placeE (_ _ : Nat) : Acc := (match elemPlace stE 0x3FFFFFC 4 .read with | .mem a => a | _ => dataAt)

theorem wit_ElementFaults (u : Use) (hu : u = .read ∨ u = .write) :
    FirstFault stE (unitForm 4 10 0 0 0 0) u placeE 1 0x000A 0x4000000 ∧ stE.hart.rreq = none
    ∧ ∃ j, ActiveAt stE.hart (unitForm 4 10 0 0 0 0).msk j ∧ j < 1 := by
  have k1 : ∀ w ∈ [Use.read, Use.write], elemPlace stE (fieldAddr stE.hart (unitForm 4 10 0 0 0 0) 0 0) 4 w = .mem (placeE 0 0)
      ∧ elemPlace stE (fieldAddr stE.hart (unitForm 4 10 0 0 0 0) 1 0) 4 w = .bad 0x000A
      ∧ (placeE 0 0).dev = false ∧ ∀ j, j < 4 → copyRaces stE ((placeE 0 0).loc + j) (decide (w = .write)) = false := by decide +kernel
  have n4 : fieldBytes (fmt stE.hart (unitForm 4 10 0 0 0 0).fe).n = 4 := by decide +kernel
  have k := k1 u (by rcases hu with rfl | rfl <;> simp)
  have a1 : ActiveAt stE.hart (unitForm 4 10 0 0 0 0).msk 1 := by unfold ActiveAt; decide +kernel
  refine ⟨⟨a1, ?_, 0, by decide, ?_, by decide +kernel, by rw [n4, show (0x4000000 : Word) = fieldAddr stE.hart (unitForm 4 10 0 0 0 0) 1 0 by decide +kernel]; exact k.2.1⟩,
    by decide +kernel, ⟨0, by unfold ActiveAt; decide +kernel, by decide⟩⟩
  · intro i f _ hi hf
    obtain rfl : i = 0 := by omega
    obtain rfl : f = 0 := by have : f < 1 := hf; omega
    rw [n4]; exact ⟨k.1, k.2.2.1, k.2.2.2⟩
  · intro g hg; omega

theorem wit_VectorStores :
    vecStore (.vst 4 10 0 0 0 0) = some (unitForm 4 10 0 0 0 0) ∧ accepts stV.hart (.vst 4 10 0 0 0 0) = true
    ∧ FieldsReach stV (unitForm 4 10 0 0 0 0) .write placeV
    ∧ accepts stV.hart (.vappend 5 4 10 0 0) = true ∧ poisX stV.hart 5 = false ∧ poisX stV.hart 10 = false
    ∧ (∀ j, j < 2 → elemPlace stV (word (ux stV 10 + (ux stV 5 + (List.range j).countP (mbit stV.hart 0)) * 32 / 8 : Nat)) 4 .write = .mem (placeV j 0))
    ∧ elemPlace stV (word (ux stV 10 + (0 : BitVec 32).toInt + (0 : Nat))) 1 .read = .mem (placeV 0 0)
    ∧ elemPlace stV (word (ux stV 10 + (0 : BitVec 32).toInt + (0 : Nat))) 1 .write = .mem (placeV 0 0) := by
  refine ⟨rfl, by decide +kernel, wit_reach .write (.inr rfl), by decide +kernel, by decide +kernel, by decide +kernel, by decide +kernel,
    by decide +kernel, by decide +kernel⟩

theorem wit_VectorAtomics :
    vecAtomic (.vamoadd true 4 10 0 3 6 6 0) = some (1, indexForm true 4 10 0 3 6 6 1 0) ∧ accepts stV.hart (.vamoadd true 4 10 0 3 6 6 0) = true
    ∧ (flushPend stV).hart.pend = [] ∧ (flushPend (waiting stV)).hart.pend ≠ []
    ∧ poisX stV.hart 10 = false ∧ (∀ j, j < 2 → elemPois stV.hart 3 j 32 = false)
    ∧ (∀ j, j < 2 → elemPlace stV (fieldAddr stV.hart (indexForm true 4 10 0 3 6 6 1 0) j 0) 4 .write = .mem (placeV j 0)
        ∧ ovlFires stV stV.hart (placeV j 0).loc 4 = none)
    ∧ elemPlace (withX stV 10 0x4000000) (fieldAddr (withX stV 10 0x4000000).hart (indexForm true 4 10 0 3 6 6 1 0) 0 0) 4 .write = .bad 0x000A := by
  decide +kernel

/-! ### The matrix array -/

theorem Wit.failing_none {p : Prop} {i : Decidable p} {c : Nat} {v : Word} (h : ¬ p) : @failing p i c v = none := if_neg h

/-- The least hart of 65,536-bit registers in an array mode, with its rows granted: 64 columns, BF16 in tile 0, VL 64. -/
def Wit.stW (mode : BitVec 3) : State :=
  { st0 with
    hart := { hart1 with
      id := { hart1.id with vk := 3 }
      vc := { hart1.vc with vl := 64, vtype := 0, mode := { st := mode, dtgt := 0, drow := 0, chn := false },
                            ashape := { rows := 64, cols := 64, pk := 0, cpos := 0, clen := 0 } }
      vf := { hart1.vf with td := (hart1.vf.td.set 0 (entry hart1 1)).set 2 0x1043FAF1 |>.set 3 0x00A003E1 } }
    cores := [{ findCore st0 0 0 with gr := 64 }] }

def Wit.drainTo (g : BitVec 3) : State :=
  { stW 4 with hart := { (stW 4).hart with
      vc := { (stW 4).hart.vc with mode := { st := 4, dtgt := g, drow := 64, chn := false } }
      arr := { (stW 4).hart.arr with since := some 936, drain := if g = 3 then some (4, 2, 0) else none } } }

theorem wit_ModesAndTiles :
    (poisX st0.hart 5 = false ∧ (3 : FEnt) ≠ 15)
    ∧ (packCode st0.hart 1 = some 0 ∧ packCode st0.hart 3 = some 1 ∧ packCode st0.hart 7 = some 2 ∧ packCode st0.hart 0 = none
      ∧ packCode st0.hart 11 = none ∧ st0.hart.vc.mode.st = 0 ∧ (stW 2).hart.vc.mode.st = 2 ∧ (stW 2).hart.vc.ashape.pk = 0)
    ∧ ((drainTo 3).hart.vc.mode.dtgt ≠ 0 ∧ (drainTo 0).hart.vc.mode.st = 4)
    ∧ (failing ((stW 2).hart.vc.mode.st = 4) 0x0012 (modeValue (stW 2).hart) = none ∧ configRefusal (stW 2).hart [1] = none
      ∧ fmtValid (entry (stW 2).hart 1) = true ∧ (fmt (stW 2).hart 1).n = 16 ∧ (fmt (stW 2).hart 1).blk = 0
      ∧ configRefusal (stW 2).hart [0] = none ∧ granted (stW 2) = true ∧ granted st0 = false ∧ (stW 2).hart.vf.fw[0] = 0
      ∧ (stW 2).hart.arr.began = none) := by
  decide +kernel

/-- A tile move or a product under way since a cycle. -/
def Wit.since (c : Nat) : State :=
  { stW 2 with hart := { (stW 2).hart with arr := { (stW 2).hart.arr with began := some (c, 0), entered := [c] } } }

theorem wit_TilesUnderWay :
    ((since 990).hart.arr.began = some (990, 0) ∧ (since 990).cycle < 990 + 16 ∧ granted (since 990) = true)
    ∧ ((since 980).hart.arr.began = some (980, 0) ∧ 980 + 16 ≤ (since 980).cycle ∧ (since 980).hart.vf.fw[0] = 0) := by
  decide +kernel

def Wit.row : RowForm := { vd := 4, vs1 := 1, wt := 0, sc := none, fa := 1, fc := 0, msk := 0, slide := false, acc := false }

theorem wit_ArrayProducts :
    (rowForm (.mrow 4 1 0 none 1 0 0) = some row ∧ granted (stW 2) = true ∧ (stW 2).hart.vc.mode.chn = false
      ∧ (stW 2).hart.arr.began = none ∧ (stW 2).hart.arr.entered = [] ∧ min (stW 2).hart.vc.ves.toNat 1 < 1
      ∧ (stW 2).hart.soft = [] ∧ 1024 * columns (stW 2).hart ≤ 8192 * 2 ^ (stW 2).hart.id.vk.toNat ∧ resultRows (stW 2).hart row = 1
      ∧ rowRefusal (stW 2).hart row = none)
    ∧ (outerForm (.maccz 2 0 16 1 1 0) = some { wt := 2, vs1 := 0, vs2 := 16, fa := 1, fb := 1, msk := 0, zero := true }
      ∧ outerRefusal (stW 3).hart { wt := 2, vs1 := 0, vs2 := 16, fa := 1, fb := 1, msk := 0, zero := true } = none
      ∧ granted (stW 3) = true) := by
  refine ⟨⟨by decide +kernel, by decide +kernel, by decide +kernel, by decide +kernel, by decide +kernel, by decide +kernel,
    by decide +kernel, by decide +kernel, by decide +kernel, ?_⟩, by decide +kernel, by decide +kernel, by decide +kernel⟩
  unfold rowRefusal
  simp only [List.findSome?_eq_none_iff, List.forall_mem_cons, List.not_mem_nil, false_imp_iff, implies_true, and_true, id]
  refine ⟨failing_none (by decide +kernel), by decide +kernel, failing_none (by decide +kernel), failing_none (by decide +kernel),
    failing_none (by decide +kernel), failing_none (by decide +kernel), failing_none (fun h => absurd h.1 (by decide +kernel)),
    failing_none (fun h => absurd h.1 (by decide +kernel)), failing_none (by decide +kernel), failing_none (not_not_intro ?_),
    by decide +kernel, by decide +kernel, failing_none ?_, failing_none (by decide +kernel), failing_none (fun h => absurd h.1 (by decide)),
    failing_none (fun h => absurd h.1 (by decide))⟩
  · rw [if_neg]
    · decide +kernel
    · unfold integers; decide +kernel
  · rintro (h | ⟨q, h, _⟩)
    · exact absurd h (by decide +kernel)
    · exact absurd h (by simp [row])

/-- The one row of the product: not yet 127 cycles in the array, and due. -/
theorem wit_ArrayProducts_rows :
    (RowsIn (since 990) row 0 0 ∧ 0 + 0 < resultRows (since 990).hart row ∧ min (since 990).hart.vc.ves.toNat 1 ≤ 0 + 0)
    ∧ (RowsIn (since 873) row 0 1 ∧ 0 + 1 = resultRows (since 873).hart row) := by unfold RowsIn; decide +kernel

/-- A drain into a group of eight registers, its last row due, and both ends of a mode change; a chain of two. -/
def Wit.wide2 (s : State) : State := { s with hart := { s.hart with vc := { s.hart.vc with vtype := 0x10 } } }
def Wit.drainF : State := wide2 (drainTo 3)

def Wit.chained (c : Option (Bool × Nat × Nat)) (u core : Nat) (peers : List Nat) : Hart :=
  { (stW 2).hart with
    id := { (stW 2).hart.id with uid := u, core := core, flat := u, ginst := 0 }
    st := { (stW 2).hart.st with asleep := some (.chain true 2 0) }
    arr := { (stW 2).hart.arr with chain := c, peers := peers } }

def Wit.pairOn (c d : Option (Bool × Nat × Nat)) : State :=
  { stW 2 with hart := chained c 1 0 [1, 2], others := [chained d 2 1 [1, 2]] }

theorem wit_DrainsAndChains :
    (let h := (wide2 (stW 3)).hart
      let latched := fun j : Nat => h.vf.td.toArray.getD j 0 = 0x1043FAF1 ∨ h.vf.td.toArray.getD j 0 = 0x00A003E1
      [failing (¬ (h.vc.mode.st = 3 ∨ (h.vc.mode.st = 4 ∧ h.vc.mode.dtgt = 3))) 0x0012 (modeValue h), configRefusal h [0],
        failing (fmtValid (entry h 0) = false) 0x0004 (entryValue 0 false), failing ((fmt h 0).blk ≠ 0) 0x0004 (entryValue 0 true),
        failing (¬ (latched (accPair 2) ∧ latched (accPair 2 + 1))) 0x0004 (entryValue 15 true), groupRefusal h (4, 8, 1),
        failing ((2 : TReg).val % 2 = 1) 0x0001 26, failing (capOf h (fmt h 0).n < 64 * columns h) 0x0003 h.vc.vtype].findSome? id = none
      ∧ granted (wide2 (stW 3)) = true)
    ∧ ((stW 3).hart.vc.mode.st ≠ 4 ∧ chainReason (pairOn none none) 2 0 = none
      ∧ chainReason (pairOn none none) 1 0 = some (4, [1]) ∧ chainReason (pairOn none none) 2 2 = some (4, [1]))
    ∧ ((drainTo 0).hart.arr.since = some 936 ∧ 936 + 64 ≤ (drainTo 0).cycle ∧ (drainTo 0).hart.arr.drain = none)
    ∧ (drainF.hart.arr.drain = some (4, 2, 0) ∧ fmtValid (entry drainF.hart 0) = true
      ∧ groupRefusal drainF.hart (4, 8, 1) = none ∧ 64 * columns drainF.hart ≤ capOf drainF.hart (fmt drainF.hart 0).n
      ∧ (∀ w : TReg, drainF.hart.vf.fw[w.val] = 0) ∧ 1024 * columns drainF.hart ≤ 8192 * 2 ^ drainF.hart.id.vk.toNat)
    ∧ chainReady (pairOn (some (true, 2, 0)) (some (true, 2, 1))) (pairOn (some (true, 2, 0)) (some (true, 2, 1))).hart = some [1, 2]
    ∧ chainReady (pairOn (some (false, 0, 0)) (some (false, 0, 0))) (pairOn (some (false, 0, 0)) (some (false, 0, 0))).hart = some [1, 2]
    ∧ chainReady (pairOn (some (true, 2, 0)) none) (pairOn (some (true, 2, 0)) none).hart = none := by
  decide +kernel

/-- The conditions under which the array's instructions complete: an entry, an exit and an `mdrain`; and a chain of two whose
other hart waits, as it stands once this hart has issued its form. -/
theorem wit_ArrayCompletes :
    (packCode st0.hart 1 = some 0 ∧ st0.hart.vc.mode.st = 0 ∧ st0.cycle + 16 ≤ 1016)
    ∧ ((stW 2).hart.vc.mode.st = 2 ∧ (stW 2).hart.vc.mode.chn = false)
    ∧ (let h := (wide2 (stW 3)).hart
      h.vc.mode.st = 3 ∧ configRefusal h [0] = none ∧ fmtValid (entry h 0) = true ∧ (fmt h 0).blk = 0
      ∧ h.vf.td.toArray.getD (accPair 2) 0 = 0x1043FAF1 ∧ h.vf.td.toArray.getD (accPair 2 + 1) 0 = 0x00A003E1
      ∧ groupRefusal h (4, 8, 1) = none ∧ (2 : TReg).val % 2 = 0 ∧ 64 * columns h ≤ capOf h (fmt h 0).n ∧ granted (wide2 (stW 3)) = true
      ∧ 1024 * columns h ≤ 8192 * 2 ^ h.id.vk.toNat ∧ ∀ v : TReg, h.vf.fw[v.val] = 0)
    ∧ (let s := pairOn none (some (true, 2, 1)); let t := pairOn (some (true, 2, 0)) (some (true, 2, 1))
      s.hart.vc.mode.st ≠ 4 ∧ s.hart.vc.mode.chn = false ∧ chainReason s 2 0 = none
      ∧ exec (.achain 2 0) s = .next t ∧ chainReady t t.hart = some [1, 2]
      ∧ [1, 2].Nodup ∧ ((allHarts t).map (·.id.uid)).Nodup)
    ∧ EndInRange (pairOn none none).hart := by
  refine ⟨by decide +kernel, by decide +kernel, by decide +kernel,
    ⟨by decide +kernel, by decide +kernel, by decide +kernel, rfl, by decide +kernel, by decide, by decide +kernel⟩, ?_⟩
  intro l hl h; rcases hl with rfl | rfl <;> exact absurd (by decide +kernel) h.1

/-! ### Tiles, boundaries, barriers, mailboxes and waits -/

/-- x5 holds the descriptor of a tile of 3 rows of 20 columns of FP32 on one core. -/
def Wit.stT : State := withX st0 5 0x0000000000030014
def Wit.tile7 : Tile := { h := 7, st := .allocated, desc := 0, fmt := 0, size := 64, die := 0, cores := [0], banks := 1 }
def Wit.withTiles (l : List Tile) : State := { withX st0 5 7 with ctxs := [{ ctx1 with tiles := l }] }

theorem wit_TilesAndFetchSync :
    (poisX stT.hart 5 = false ∧ fmtValid (entry stT.hart (tdEntry (ux stT 5))) = true
      ∧ ¬ (ux stT 5 / 2 ^ 38 ≠ 0 ∨ tdCols (ux stT 5) = 0 ∨ tdRows (ux stT 5) = 0 ∨ tdLevel (ux stT 5) = 3)
      ∧ (∀ q ∈ tileSpan stT.hart.id.core (tdLevel (ux stT 5)), banksUsed stT 0 q + 1 ≤ sliceBanks stT 0 q)
      ∧ tdLevel (ux (withX st0 5 0x3000030014) 5) = 3 ∧ fmtValid (entry st0.hart (tdEntry (ux (withX st0 5 0xB00030014) 5))) = false)
    ∧ (findTile (withTiles []) 1 7 = none ∧ findTile (withTiles [tile7]) 1 7 = some tile7
      ∧ findTile (withTiles [{ tile7 with st := .freeing }]) 1 7 = some { tile7 with st := .freeing }) := by
  decide +kernel

theorem wit_TilesAndFetchSync_full : MemOk stT
    ∧ ∀ n, n < 4096 → ∃ t ∈ (List.range 4096).map (fun k => { tile7 with h := k }), t.h = n :=
  ⟨by unfold MemOk; decide +kernel, fun n h => ⟨{ tile7 with h := n }, List.mem_map.mpr ⟨n, List.mem_range.mpr h, rfl⟩, rfl⟩⟩

theorem Wit.calm (sc : Scope) (h : OneDie st0 sc) : Calm st0 sc := ⟨rfl, by decide +kernel, h⟩

/-- A release of one own write of two that waits to be performed. -/
def Wit.stR (agreed : Bool) : State :=
  let s := ownStore (ownStore st0 .device 0x100 0x100 [1] false) .device 0x120 0x120 [2] false
  { s with hart := { s.hart with pend := [{ handedOver st0 .cluster .nothing with
      set := (s.hart.own.map (·.wid)).take 1, agreed := agreed }] } }

/-- TIME of a die is behind the package's count by less than 9 ns. -/
theorem Wit.time_near (c d : Nat) : timeAt d c ≤ c * 5 / 6 ∧ c * 5 / 6 < timeAt d c + 9 := by
  unfold timeAt skewOf; omega

theorem Wit.time_low {c d t : Nat} (h : t + 8 ≤ c * 5 / 6) : t ≤ timeAt d c := by have := (time_near c d).2; omega
theorem Wit.time_high {c d t : Nat} (h : c * 5 / 6 < t) : timeAt d c < t := Nat.lt_of_le_of_lt (time_near c d).1 h

def Wit.held_ (t : Nat) : State := { st0 with hart := { hart1 with phs := { hart1.phs with hold := true, holdUntil := t } } }

/-- A launch of one gang of two harts, both placed. -/
def Wit.launch2 : Launch :=
  { launch1 with levels := [{ dom := 0, scope := 0, gang := false, count := 1 }, { dom := 1, scope := 2, gang := true, count := 2 }],
                 insts := [{ first := 0, n := 2, st := .placed 0 }] }
def Wit.hart2 : Hart := { hart1 with id := { hart1.id with uid := 2, flat := 1, core := 1 } }
def Wit.stG : State := { st0 with launches := [launch2], others := [hart2] }

theorem Wit.gang : GangLevel stG 1 launch2 { dom := 1, scope := 2, gang := true, count := 2 } :=
  ⟨by decide +kernel, by decide, by decide, 1, _, by decide, rfl, rfl⟩

theorem wit_PhaseBoundaries :
    (Calm st0 .die ∧ Calm st0 .hart ∧ ¬ OneDie st0 .system ∧ ¬ OneDie st0 .device ∧ EndInRange st0.hart)
    ∧ ((held_ 5).hart.phs.hold = true ∧ (held_ 5).hart.phs.holdUntil ≤ (held_ 5).cycle ∧ (held_ 5).hart.phs.holdKind = 0
      ∧ (held_ 5).hart.bolter.pins = [] ∧ (held_ 10000).cycle < (held_ 10000).hart.phs.holdUntil)
    ∧ ((stR true).hart.pend ≠ [] ∧ MemOk (stR true) ∧ (∀ o ∈ (stR true).hart.own, o.key = .device) ∧ (stR true).hart.id.partner = false
      ∧ ((stR true).hart.pend.map (fun r => (r.agreed, r.pins, r.after))) = [(true, [], .nothing)]
      ∧ (stR false).hart.pend.map (·.agreed) = [false])
    ∧ (levelForm (.phaseL 1) = some 1 ∧ findLaunch stG stG.hart.id.launch = some launch2
      ∧ findLaunch { stG with launches := [] } stG.hart.id.launch = none
      ∧ ∀ m lm, 1 ≤ m → ([{ dom := 0, scope := 0, gang := false, count := 1 },
          { dom := 1, scope := 2, gang := false, count := 2 }] : List Level)[m]? = some lm → lm.gang = false) := by
  refine ⟨⟨calm .die ⟨by decide, by decide⟩, calm .hart ⟨by decide, by decide⟩, by unfold OneDie; decide, by unfold OneDie; decide, ?_⟩,
    by decide +kernel, ⟨by decide +kernel, by unfold MemOk; decide +kernel, by decide +kernel, by decide +kernel, by decide +kernel, by decide +kernel⟩,
    by decide +kernel, by decide +kernel, by decide +kernel, ?_⟩
  · intro l hl h; rcases hl with rfl | rfl <;> exact absurd rfl h.1
  · intro m lm h1 h2
    match m, h1 with
    | 1, _ => cases h2; rfl
    | m + 2, _ => simp at h2

/-- The release of a `phase` on one hart, once performed, leaves a calm hart. -/
theorem wit_PhaseBoundaries_phase :
    st0.hart.pend = [] ∧ st0.hart.st.half = false ∧ (withSt st0 (fun x => { x with half := true })).hart.st.half = true
    ∧ (match exec (.releasePerform 1) (halfDone (releasing st0 .die .nothing false)) with
      | .next v => decide (v.hart.pend = [] ∧ v.hart.bolter.pins = [] ∧ v.pkg = st0.pkg)
      | _ => false) = true := by
  refine ⟨rfl, rfl, rfl, ?_⟩
  decide +kernel

def Wit.bar (gen : BitVec 32) (a p : List Nat) (s : List (Nat × BitVec 32)) : Barrier :=
  { level := 1, inst := 0, gen := gen, arrived := a, performed := p, syncs := s }
def Wit.stB (b : Barrier) : State := { stG with launches := [{ launch2 with barriers := [b] }] }

theorem wit_BarriersAndMailboxes :
    (GangLevel stG 1 launch2 { dom := 1, scope := 2, gang := true, count := 2 } ∧ numScope 2 = .cluster ∧ Calm stG .cluster
      ∧ barKey stG.hart ∉ (myBarrier launch2 1 stG.hart).arrived
      ∧ barKey stG.hart ∈ (myBarrier { launch2 with barriers := [bar 3 [0] [] [(0, 3)]] } 1 stG.hart).arrived
      ∧ (bar 3 [0] [] [(0, 3)]).syncs.find? (fun p => p.1 == barKey stG.hart) = some (barKey stG.hart, 3)
      ∧ (1 ≤ ((0 : BitVec 32) - 0xFFFFFFFF).toNat ∧ ((0 : BitVec 32) - 0xFFFFFFFF).toNat ≤ 2 ^ 31)
      ∧ ¬ (1 ≤ ((3 : BitVec 32) - 3).toNat ∧ ((3 : BitVec 32) - 3).toNat ≤ 2 ^ 31))
    ∧ (findLaunch (stB (bar 3 [1, 0] [0, 1] [])) 1 = some { launch2 with barriers := [bar 3 [1, 0] [0, 1] []] }
      ∧ ([1, 0].filter (fun f => decide (f < 2 ^ 32))).length = levelSize launch2 1
      ∧ ([0].filter (fun f => decide (f < 2 ^ 32))).length ≠ levelSize launch2 1) := by
  refine ⟨⟨gang, by decide, ⟨rfl, by decide +kernel, by unfold OneDie; decide +kernel⟩, ?_⟩, ?_⟩ <;> decide +kernel

/-- The hart sends to itself and its neighbour (targets j = 0 and 1, h = 0), after its release; to a place with no hart; and one
that waits for room. -/
def Wit.stM (n : Nat) : State :=
  let s := withX stG 6 0x103
  { s with hart := { s.hart with st := { s.hart.st with half := true } }, others := [{ hart2 with mbox := List.replicate n 9 }] }

theorem wit_Mailboxes (n : Nat) (_ : n = 3 ∨ n = 4) :
    (stM n).hart.st.half = true ∧ (stM n).hart.pend = [] ∧ poisX (stM n).hart 6 = false
    ∧ (∃ p, p < 64 ∧ selected (ux (stM n) 6) p = true)
    ∧ (∀ p, p < 64 → selected (ux (stM n) 6) p = true → ∃ h, IsTarget (stM n) p h)
    ∧ (allHarts (stM n)).Pairwise (fun g h => g.id.uid ≠ h.id.uid)
    ∧ (∀ h ∈ allHarts (stM n), h.id.partner = false)
    ∧ (n = 4 → ∃ p h, p < 64 ∧ selected (ux (stM n) 6) p = true ∧ IsTarget (stM n) p h ∧ 4 ≤ h.mbox.length)
    ∧ (n = 3 → ∀ p h, p < 64 → selected (ux (stM n) 6) p = true → IsTarget (stM n) p h → h.mbox.length < 4)
    ∧ ∀ h, ¬ IsTarget (stM n) 2 h := by
  have two : ∀ p, p < 64 → selected 0x103 p = true → p = 0 ∨ p = 1 := by decide
  have ev : ux (stM n) 6 = 0x103 := by rcases ‹n = 3 ∨ n = 4› with rfl | rfl <;> decide +kernel
  have all : allHarts (stM n) = [(stM n).hart, { hart2 with mbox := List.replicate n 9 }] := rfl
  have t0 : IsTarget (stM n) 0 (stM n).hart :=
    ⟨by simp [all], rfl, show (0 : Nat) = 0 / 8 * 8 + 0 % 8 by decide, show (0 : Nat) = 0 / 8 by decide, rfl, rfl, rfl, rfl⟩
  have t1 : IsTarget (stM n) 1 { hart2 with mbox := List.replicate n 9 } :=
    ⟨by simp [all], rfl, show (1 : Nat) = 0 / 8 * 8 + 1 % 8 by decide, show (0 : Nat) = 1 / 8 by decide, rfl, rfl, rfl, rfl⟩
  refine ⟨rfl, rfl, by rcases ‹n = 3 ∨ n = 4› with rfl | rfl <;> decide +kernel, ⟨0, by decide, by rw [ev]; decide⟩, ?_, ?_, ?_, ?_, ?_, ?_⟩
  · intro p h1 h2
    rw [ev] at h2
    rcases two p h1 h2 with rfl | rfl
    · exact ⟨_, t0⟩
    · exact ⟨_, t1⟩
  · rw [all]; simp only [List.pairwise_cons, List.mem_singleton, forall_eq, List.not_mem_nil, false_imp_iff, implies_true, and_true, List.Pairwise.nil]
    show (1 : Nat) ≠ 2; decide
  · rw [all]; simp only [List.mem_cons, List.not_mem_nil, or_false]; rintro h (rfl | rfl) <;> rfl
  · rintro rfl; exact ⟨1, _, by decide, by rw [ev]; decide, t1, by decide⟩
  · rintro rfl p h _ _ ht
    have := ht.1; rw [all] at this; simp only [List.mem_cons, List.not_mem_nil, or_false] at this
    rcases this with rfl | rfl <;> decide
  · intro h ht
    have m := ht.1; have c := ht.2.2.1; rw [all] at m; simp only [List.mem_cons, List.not_mem_nil, or_false] at m
    rcases m with rfl | rfl
    · exact absurd c (show (0 : Nat) ≠ 0 / 8 * 8 + 2 % 8 by decide)
    · exact absurd c (show (1 : Nat) ≠ 0 / 8 * 8 + 2 % 8 by decide)

theorem wit_MailboxRoom :
    let s := sleeping stG (.mcast [2] 9)
    s.hart.st.asleep = some (.mcast [2] 9) ∧ (findHart s 2).map (fun h => decide (h.mbox.length < 4)) = some true
    ∧ (findHart { s with others := [{ hart2 with mbox := [1, 2, 3, 4] }] } 2).map (fun h => decide (4 ≤ h.mbox.length)) = some true
    ∧ stG.hart.mbox = [] ∧ ({ stG with hart := { stG.hart with mbox := [7] } } : State).hart.mbox = [7] := by decide +kernel

theorem wit_YieldsAndWaits :
    (findLaunch stG stG.hart.id.launch = some launch2 ∧ candidates (markReady stG) launch2.dev = []
      ∧ (withSt stG (fun x => { x with yreq := true })).hart.st.yreq = true
      ∧ (∃ h ∈ stG.others, h.id.launch = stG.hart.id.launch ∧ h.id.ginst = stG.hart.id.ginst ∧ h.st.life = .placed))
    ∧ (ux st0 5 ≤ timeOn st0 0 ∧ timeOn st0 0 < ux (withX st0 5 5000) 5)
    ∧ (findLaunch stG 1 = some launch2 ∧ hart2.id.launch = 1 ∧ hart2.id.ginst = 0 ∧ 0 + 256 * launch2.ydl ≤ stG.cycle
      ∧ hart2.st.life = .placed) :=
  ⟨by decide +kernel, ⟨time_low (by decide +kernel), time_high (by decide +kernel)⟩, by decide +kernel⟩

/-- A `sleep` until TIME t since cycle 10, with a completion and a request that arose in later cycles. -/
def Wit.stSl (t : Nat) (ui req : Bool) (au ay : Nat) : State :=
  withSt st0 (fun x => { x with asleep := some (.sleep 5 t 10), uiDue := ui, uiAt := au, yreq := req, yreqAt := ay })

theorem wit_WaitsEnd :
    ((stSl 20 false false 0 0).hart.st.life = .placed ∧ 20 ≤ timeAt 0 (stSl 20 false false 0 0).cycle)
    ∧ ((stSl 20 true true 12 14).hart.st.uiDue = true ∧ max 10 12 ≤ (stSl 20 true true 12 14).cycle ∧ max 10 12 ≤ max 10 14
      ∧ timeAt 0 (max 10 12) < 20)
    ∧ ((stSl 20 true true 14 12).hart.st.yreq = true ∧ max 10 12 < max 10 14 ∧ timeAt 0 (max 10 12) < 20)
    ∧ ((stSl 5000 false false 0 0).hart.st.uiDue = false ∧ (stSl 5000 false false 0 0).hart.ui.pend = false
      ∧ (stSl 5000 false false 0 0).hart.st.yreq = false ∧ timeAt 0 (stSl 5000 false false 0 0).cycle < 5000) :=
  ⟨⟨by decide, time_low (by decide +kernel)⟩, ⟨by decide, by decide, by decide, time_high (by decide)⟩,
    ⟨by decide, by decide, time_high (by decide)⟩, by decide, by decide, by decide, time_high (by decide +kernel)⟩

/-! ### The Bolter: structures in the first page -/

theorem Wit.phys0 (ea : Nat) (h : ea < 4096) : physLoc Pkg.reset 0 ea = some ea := by
  have k : ∀ q, q < 64 → ∀ r, r < 64 → physLoc Pkg.reset 0 (64 * q + r) = some (64 * q + r) := by decide +kernel
  have := k (ea / 64) (by omega) (ea % 64) (by omega)
  rwa [Nat.div_add_mod] at this

theorem Wit.word_small {ea : Nat} (h : ea < 4096) : (word (ea : Int)).toNat = ea ∧ wide (word (ea : Int)) = false := by
  have k : ∀ q, q < 64 → ∀ r, r < 64 → (word ((64 * q + r : Nat) : Int)).toNat = 64 * q + r ∧ wide (word ((64 * q + r : Nat) : Int)) = false := by
    decide +kernel
  have := k (ea / 64) (by omega) (ea % 64) (by omega)
  rwa [Nat.div_add_mod] at this

/-- A hart of the witnesses reaches its first 4 KiB at the locations of the same numbers. -/
theorem Wit.lies {s : State} (h : s.mem.tlb = [page, pageE] ∧ s.ctxs = [ctx1] ∧ s.pkg = Pkg.reset ∧ s.hart.id = hart1.id)
    {ea al : Nat} {u : Use} (h1 : ea < 4096) (h2 : ea % al = 0) : Lies s ea al u ⟨ea, .device, false⟩ := by
  refine ⟨rfl, fun t ⟨a, _, b, c, d⟩ => ?_⟩
  obtain ⟨hn, hw⟩ := word_small h1
  have tr : Sys2Proof.Machine.translate t 0 0 1 ea = .leaf 0 (2 ^ 26) 0 true true false true := by
    simp only [Sys2Proof.Machine.translate, findCtx, a, h.1, b, h.2.1, page, ctx1, List.find?]
    simp [decide_eq_true (show ea < 67108864 by omega)]
  have fc : findCtx t 1 = some ctx1 := by simp [findCtx, b, h.2.1, ctx1]
  have e : t.hart.id = hart1.id := d.trans h.2.2.2
  unfold globalCheck
  rw [hw, hn, e]
  simp only [if_false, Bool.false_eq_true, h2, ne_eq, not_true]
  show checkGlobal t 0 0 1 ea u = _
  unfold checkGlobal
  rw [tr, fc]
  simp only [Bool.not_true, Bool.and_false, Bool.or_false, Bool.false_eq_true, if_false]
  rw [show ctx1.dev = 0 from rfl, c, h.2.2.1, show 0 + (ea - 0) % 2 ^ 26 = ea by omega, phys0 ea h1]
  rfl

/-- A head: keys of 4 elements, 2 signature bits, 1 bucket bit, blocks of 16 tokens, 16 bytes a key and a value, one sink and
one window token. -/
def Wit.head : Nat :=
  0x500 + 0x600 * 2 ^ 64 + 0x700 * 2 ^ 128 + 0x800 * 2 ^ 192 + 0x900 * 2 ^ 256 + 0xB00 * 2 ^ 320
  + (4 + 2 * 2 ^ 9 + 1 * 2 ^ 14 + 4 * 2 ^ 18) * 2 ^ 384 + 16 * 2 ^ 416 + 16 * 2 ^ 432 + 1 * 2 ^ 448 + 1 * 2 ^ 480

/-- One block with a page descriptor at 0xA00 (keys at 0xB00, values at 0xC00), bucket 1 that lists position 7, and two columns. -/
def Wit.stK : State :=
  let put := fun (s : State) (a n v : Nat) => ownStore s .device a a (natLe n v) false
  let s := put (put (put (put (put st0 0x400 64 head) 0x500 8 0xA00) 0xA00 16 (0xB00 + 0xC00 * 2 ^ 64)) 0x640 64 8)
    0x900 64 (6 + 2 ^ 255 * 2 * 9)
  { s with hart := { s.hart with
      sc := { (withX (withX (withX s 5 0x400) 6 7) 7 100).hart.sc with }
      bolter := { s.hart.bolter with v := true, desc := BitVec.ofNat 512 head, pins := [(0xA00, true)] }
      vc := { s.hart.vc with vl := 4, vtype := 6 } } }

theorem Wit.stK_at : stK.mem.tlb = [page, pageE] ∧ stK.ctxs = [ctx1] ∧ stK.pkg = Pkg.reset ∧ stK.hart.id = hart1.id := by decide +kernel

theorem Wit.headOk : HeadOk head := by unfold HeadOk; decide +kernel

theorem wit_HeadLoad : poisX stK.hart 5 = false ∧ NoCopies stK ∧ HeadOk (leNat (natLe 64 head)) ∧ ¬ HeadOk 0
    ∧ ReadsAt stK (ux stK 5) 64 64 (natLe 64 head)
    ∧ ([natLe 32 6, natLe 32 9] : List (List Byte)).length = hf head 393 5 ∧ hf head 398 4 = 1
    ∧ ReadsAt stK (hf head 256 64 + 32 * 0) 32 32 (natLe 32 6) ∧ ReadsAt stK (hf head 256 64 + 32 * 1) 32 32 (natLe 32 9) := by
  have e : leNat (natLe 64 head) = head := by decide +kernel
  refine ⟨by decide +kernel, ⟨by decide +kernel, by decide +kernel⟩, e.symm ▸ headOk, fun h => absurd h.1 (by decide +kernel), ?_, by decide +kernel, by decide +kernel, ?_, ?_⟩
  · rw [show ux stK 5 = 0x400 by decide +kernel]
    exact ⟨⟨0x400, .device, false⟩, lies stK_at (by decide) (by decide), by decide +kernel, by decide +kernel⟩
  · rw [show hf head 256 64 + 32 * 0 = 0x900 by decide +kernel]
    exact ⟨⟨0x900, .device, false⟩, lies stK_at (by decide) (by decide), by decide +kernel, by decide +kernel⟩
  · rw [show hf head 256 64 + 32 * 1 = 0x920 by decide +kernel]
    exact ⟨⟨0x920, .device, false⟩, lies stK_at (by decide) (by decide), by decide +kernel, by decide +kernel⟩

theorem Wit.block : BlockOf stK 7 0xA00 0xB00 0xC00 :=
  ⟨natLe 8 0xA00, natLe 16 (0xB00 + 0xC00 * 2 ^ 64), by
      rw [show hf (held stK.hart) 0 64 + 8 * (7 / 2 ^ hf (held stK.hart) 402 5) = 0x500 by decide +kernel]
      exact ⟨⟨0x500, .device, false⟩, lies stK_at (by decide) (by decide), by decide +kernel, by decide +kernel⟩,
    by decide +kernel, by decide, by decide, by decide,
    ⟨⟨0xA00, .device, false⟩, lies stK_at (by decide) (by decide), by decide +kernel, by decide +kernel⟩, by decide +kernel, by decide +kernel⟩

theorem Wit.keyOkay (vs : VReg) : (keyRefusals stK.hart vs 6).findSome? id = none := by
  have g : ∀ v : VReg, groupRefusal stK.hart (v.val, 8, 1) = none := by decide +kernel
  unfold keyRefusals
  simp only [List.findSome?_eq_none_iff, List.forall_mem_cons, List.not_mem_nil, false_imp_iff, implies_true, and_true, id]
  exact ⟨by decide +kernel, g vs, failing_none (by decide +kernel), failing_none (by decide +kernel), failing_none (by decide +kernel)⟩

theorem wit_Signatures_KeyStore :
    (keyRefusals stK.hart 1 6).findSome? id = none
    ∧ failing (capOf stK.hart (fmt stK.hart 6).n < hf (held stK.hart) 384 9) 0x0015 5 = none
    ∧ (∀ i, i < 4 → elemPois stK.hart 1 i 32 = false) ∧ HeadOk (held stK.hart)
    ∧ (∀ i, i < 4 → unitsOf2 0 (finiteOrZero (wide1 stK.hart 1 6 i)) = some 0)
    ∧ failing (0x7FFFFFFE < ux stK 6) 0x0015 4 = none ∧ failing (hf (held stK.hart) 416 16 < 16) 0x0015 5 = none
    ∧ BlockOf stK 7 0xA00 0xB00 0xC00 ∧ (0xA00, true) ∈ stK.hart.bolter.pins ∧ stK.hart.pend = [] ∧ MemOk stK
    ∧ hf head 128 64 = 0x700 ∧ hf head 64 64 = 0x600 ∧ hf head 192 64 = 0x800
    ∧ Lies stK 0x700 16 .write ⟨0x700, .device, false⟩ ∧ Lies stK 0x600 64 .write ⟨0x600, .device, false⟩
    ∧ Lies stK 0x800 16 .write ⟨0x800, .device, false⟩
    ∧ (∀ i, i < 16 → Lies stK (0xB00 + 7 % 2 ^ 4 * 16 + i) 1 .write ⟨0xB00 + 7 % 2 ^ 4 * 16 + i, .device, false⟩)
    ∧ NoCopies stK ∧ homePois stK.mem 0x700 16 = false
    ∧ (homeBytes stK .device 0x700 16 = natLe 16 0 ∧ (∀ o ∈ stK.hart.own, ¬ (0x700 ≤ o.loc ∧ o.loc < 0x710)) ∧ ∀ k loc, racedBytes stK stK.hart loc k = []) := by
  refine ⟨keyOkay 1, by decide +kernel, by decide +kernel, ?_, by decide +kernel, by decide +kernel, by decide +kernel, block,
    by decide, rfl, by unfold MemOk; decide +kernel, by decide +kernel, by decide +kernel, by decide +kernel, lies stK_at (by decide) (by decide), lies stK_at (by decide) (by decide),
    lies stK_at (by decide) (by decide), fun i hi => lies stK_at (by omega) (Nat.mod_one _), ⟨by decide +kernel, by decide +kernel⟩,
    by decide +kernel, by decide +kernel, by decide +kernel, ?_⟩
  · rw [show held stK.hart = head by decide +kernel]; exact headOk
  · intro k loc; simp [racedBytes, show stK.mem.ovl = [] by decide +kernel]

theorem Wit.positionsOkay : (positionRefusals stK.hart).findSome? id = none := by
  unfold positionRefusals
  simp only [List.findSome?_eq_none_iff, List.forall_mem_cons, List.not_mem_nil, false_imp_iff, implies_true, and_true, id]
  exact ⟨failing_none (by decide +kernel), failing_none (not_not_intro (by decide +kernel)), failing_none (by decide +kernel)⟩

/-- Bucket 1 lists position 7 of 100: with the sink and the window, 0, 7 and 99; and the offsets of position 7. -/
theorem wit_BucketGather_Offsets :
    (positionRefusals stK.hart).findSome? id = none ∧ probes (headOf stK.hart) (ux stK 0 + 1) 0 = [1]
    ∧ min (ux stK 7) 0x7FFFFFFF = 100
    ∧ ReadsAt stK 0x710 16 16 (natLe 16 0) ∧ ReadsAt stK 0x640 64 64 (natLe 64 8) ∧ leNat ((natLe 64 8).drop 60) = 0
    ∧ [0, 7, 99].Pairwise (· < ·)
    ∧ (∀ p, p ∈ [0, 7, 99] ↔ (p < 100 ∧ ∃ u ∈ [1], PageLists ((fun _ => natLe 64 8) u) p) ∨ p < min (hf head 448 32) 100
        ∨ (100 - hf head 480 32 ≤ p ∧ p < 100))
    ∧ (BlockOf stK 7 0xA00 0xB00 0xC00 ∧ pinned stK.hart 0xA00 = true ∧ hf head 320 64 ≤ 0xB00 + 7 % 2 ^ hf head 402 5 * hf head 416 16
      ∧ (∀ e, e < 4 → elemPois stK.hart 1 e 32 = false) ∧ (2 : VReg).val % groupSize stK.hart = 0) := by
  refine ⟨positionsOkay, by decide +kernel, by decide +kernel, ?_, ?_, by decide +kernel, by decide, ?_, block, by decide +kernel,
    by decide +kernel, by decide +kernel, by decide +kernel⟩
  · exact ⟨⟨0x710, .device, false⟩, lies stK_at (by decide) (by decide), by decide +kernel, by decide +kernel⟩
  · exact ⟨⟨0x640, .device, false⟩, lies stK_at (by decide) (by decide), by decide +kernel, by decide +kernel⟩
  · intro p
    have w : ∀ w, w < 15 → leNat (((natLe 64 8).drop (4 * w)).take 4) = if w = 0 then 8 else 0 := by decide +kernel
    have l : PageLists (natLe 64 8) p ↔ p = 7 := by
      constructor
      · rintro ⟨q, hq, h⟩; rw [w q hq] at h; split at h <;> omega
      · rintro rfl; exact ⟨0, by decide, w 0 (by decide)⟩
    simp only [List.mem_cons, List.not_mem_nil, or_false, exists_eq_left, l, show hf head 448 32 = 1 by decide +kernel,
      show hf head 480 32 = 1 by decide +kernel]
    omega

/-! ### Residency and pages -/

def Wit.withRes (l : List ResEnt) : State := { withX (withX st0 5 0x1080) 6 3 with ctxs := [{ ctx1 with res := l }] }

/-- A page descriptor at 0xA00 with some references, pins and status, and a list head at 0xB00. -/
def Wit.stPg (ref spin stat : Nat) : State :=
  withX (withX (putHome st0 .device 0xA10 (natLe 4 ref ++ natLe 2 spin ++ natLe 2 stat ++ natLe 8 0) false) 5 0xA00) 6 0xB00

theorem wit_ResidencyAndPages :
    (ux (withRes []) 5 % 128 = 0 ∧ ux (withRes []) 5 < 2 ^ 48 ∧ ux (withRes []) 5 + 128 * 3 ≤ 2 ^ 48
      ∧ (∀ r ∈ ([{ e := 0, base := 0, lines := 1, full := false, pins := [] }] : List ResEnt), r.e ≠ 1)
      ∧ (∀ f, f < 1 → ∃ r ∈ ([{ e := 0, base := 0, lines := 1, full := false, pins := [] }] : List ResEnt), r.e = f))
    ∧ (∀ q ∈ [(1, 0, 1), (2, 0, 1), (2 ^ 32 - 1, 0, 1), (0, 0, 0), (1, 3, 1), (1, 0, 3)],
        checkGlobal (stPg q.1 q.2.1 q.2.2) 0 0 1 (0xA00 + 16) .write = .ok ⟨0xA10, .device, false⟩
        ∧ leNat ((homeBytes (stPg q.1 q.2.1 q.2.2) .device 0xA10 16).take 4) = q.1
        ∧ globalCheck (stPg q.1 q.2.1 q.2.2) (stPg q.1 q.2.1 q.2.2).hart ((stPg q.1 q.2.1 q.2.2).x 6) 8 .write = .ok ⟨0xB00, .device, false⟩
        ∧ racedBytes (stPg q.1 q.2.1 q.2.2) (stPg q.1 q.2.1 q.2.2).hart 0xA10 16 = [] ∧ homePois (stPg q.1 q.2.1 q.2.2).mem 0xB00 8 = false
        ∧ (stPg q.1 q.2.1 q.2.2).hart.own = [] ∧ (stPg q.1 q.2.1 q.2.2).pkg.setOvl = false) := by decide +kernel

theorem wit_ResidencyAndPages_full : MemOk (stPg 1 0 1)
    ∧ ∀ e, e < 64 → ∃ r ∈ (List.range 64).map (fun k => ({ e := k, base := 0, lines := 1, full := false, pins := [] } : ResEnt)), r.e = e :=
  ⟨by unfold MemOk; decide +kernel, fun e h => ⟨_, List.mem_map.mpr ⟨e, List.mem_range.mpr h, rfl⟩, rfl⟩⟩

/-- A page of 1 GiB at virtual address 0: a root table at 0 whose entry 0 names a table at 0x1000, whose entry 0 is its leaf. -/
def Wit.withTable (s : State) : State := devWrite (devWrite s 0 0 (natLe 8 0x1001)) 0 0x1000 (natLe 8 0x0F)

/-- An entry of two lines from 0x1080. -/
theorem wit_Residency_fill :
    (let s := withTable (withRes [{ e := 1, base := 0x1080, lines := 2, full := false, pins := [] }]);
      (findCtx s 1).map (fun x => (x.res.map (·.e), (lineAt s x 0x1080).isSome, (lineAt s x 0x1100).isSome)) = some ([1], true, true)) ∧ [1].Nodup := by
  decide +kernel

/-! ### Streams -/

/-- A copy of two words from 0x100 to 0x200, its ring at 0x300. -/
def Wit.cmdD : Nat :=
  0x100 + 0x200 * 2 ^ 64 + 0x300 * 2 ^ 128 + 2 * 2 ^ 196 + 2 * 2 ^ 255 * 2 + 2 ^ 255 * 2 ^ 33 + 2 ^ 255 * 2 ^ 65 + 2 ^ 255 * 2 ^ 97
  + 4 * 2 ^ 255 * 2 ^ 129 + 4 * 2 ^ 255 * 2 ^ 255 * 4 + 9 * 2 ^ 255 * 2 ^ 255 * 2 ^ 130

/-- A ring of two slots at 0x800. -/
def Wit.ring (head tail : Nat) : List Byte := natLe 8 0x800 ++ natLe 4 1 ++ natLe 4 0 ++ natLe 8 head ++ natLe 8 tail

def Wit.stS : State := withX (ownStore (ownStore st0 .device 0x400 0x400 (natLe 128 cmdD) false) .device 0x300 0x300 (ring 0 0) false) 5 0x400

theorem Wit.stS_at : stS.mem.tlb = [page, pageE] ∧ stS.ctxs = [ctx1] ∧ stS.pkg = Pkg.reset ∧ stS.hart.id = hart1.id := by decide +kernel

/-- A command that is accepted, or finished after two elements. -/
def Wit.cmd (st : CmdSt) (ws : List (Nat × Byte × KeyTag)) : Cmd :=
  { cid := 7, launch := 1, desc := BitVec.ofNat 1024 cmdD, st := st, vr := 0, vi := none, g := 1, idx := [], ov := [], snap := [], tiles := [],
    got := none, rids := [], writes := ws, src := [], dst := [], fetch := none, broken := [] }
def Wit.stC (st : CmdSt) (head tail : Nat) : State :=
  let s := putHome st0 .device 0x300 (ring head tail) false
  withX { s with ports := [{ ctx := 1, flat := 0, port := 3, die := 0, cmds := [cmd st (if st = .accepted then [] else [(0x200, 5, .device)])] }] } 5 0x300
def Wit.portC (st : CmdSt) (ws : List (Nat × Byte × KeyTag)) : Port := { ctx := 1, flat := 0, port := 3, die := 0, cmds := [cmd st ws] }

/-- A ring of the witnesses lies where its address says. -/
theorem Wit.ringLies {s : State} (h : s.mem.tlb = [page, pageE] ∧ s.ctxs = [ctx1] ∧ s.pkg = Pkg.reset ∧ s.hart.id = hart1.id)
    {ea : Nat} {u : Use} (h1 : ea < 4096) (h2 : ea % 32 = 0) : RingLies s ea u ⟨ea, .device, false⟩ := by
  refine ⟨rfl, fun t ⟨a, _, b, c, d⟩ => ?_⟩
  obtain ⟨hn, hw⟩ := word_small h1
  have tr : Sys2Proof.Machine.translate t 0 0 1 ea = .leaf 0 (2 ^ 26) 0 true true false true := by
    simp only [Sys2Proof.Machine.translate, findCtx, a, h.1, b, h.2.1, page, ctx1, List.find?]
    simp [decide_eq_true (show ea < 67108864 by omega)]
  have fc : findCtx t 1 = some ctx1 := by simp [findCtx, b, h.2.1, ctx1]
  dsimp only [ringCheck]
  rw [hw, hn, d.trans h.2.2.2]
  simp only [if_false, Bool.false_eq_true, h2, ne_eq, not_true]
  rw [show Sys2Proof.Machine.translate t hart1.id.die hart1.id.core hart1.id.ctx ea = _ from tr]
  simp only [Bool.not_true, Bool.and_false, Bool.false_eq_true, if_false]
  rw [show findCtx t hart1.id.ctx = some ctx1 from fc]
  show (match physLoc t.pkg 0 (0 + (ea - 0) % 2 ^ 26) with | none => _ | some l => _) = _
  rw [c, h.2.2.1, show 0 + (ea - 0) % 2 ^ 26 = ea by omega, phys0 ea h1]

theorem Wit.broken_not : ¬ RingBroken (ring 0 0) := by unfold RingBroken; decide +kernel

theorem wit_Streams :
    (poisX stS.hart 5 = false ∧ ux stS 5 = 0x400 ∧ hf cmdD 128 64 = 0x300 ∧ leNat (natLe 128 cmdD) = cmdD
      ∧ portCmds stS 1 0 3 = [] ∧ hf cmdD 256 32 * hf cmdD 288 32 * hf cmdD 320 32 * hf cmdD 352 32 = 2 ∧ streamReason cmdD false false 0 (ring 0 0) = none)
    ∧ (ReadsClear stS 0x400 128 128 (natLe 128 cmdD) ∧ ReadsRing stS 0x300 (ring 0 0))
    ∧ (findPort (stC .accepted 0 0) 1 0 3 = some (portC .accepted [])
      ∧ (findSrc (stC .accepted 0 0) (srcStream (portC .accepted []).die)).fenced = false
      ∧ (∀ e, e < 2 → engPlace (stC .accepted 0 0) 1 0 [] 0 (paddr cmdD (hf cmdD 0 64) 384 e) 4 .read = .mem ⟨0x100 + 4 * e, .device, false⟩
          ∧ engPlace (stC .accepted 0 0) 1 0 [] 0 (paddr cmdD (hf cmdD 64 64) 512 e) 4 .write = .mem ⟨0x200 + 4 * e, .device, false⟩)
      ∧ engPlace (stC .accepted 0 0) 1 0 [] 0 (2 ^ 40) 4 .read = .bad 0x000A)
    ∧ (ringCheck (asEngine (stC (.finished 2 0 0) 1 0) 1 0 0) (word (hf cmdD 128 64)) .write
          = .ok ⟨0x300, .device, false⟩
      ∧ homeBytes (stC (.finished 2 0 0) 1 0) .device 0x300 32 = ring 1 0 ∧ homePois (stC (.finished 2 0 0) 1 0).mem 0x300 32 = false
      ∧ ringCheck (asEngine (stC (.finished 2 0 0) 1 0) 1 0 0) (word (0x800 + 32 * (1 % 2))) .write
          = .ok ⟨0x820, .device, false⟩
      ∧ granule 0x820 ≠ granule 0x300 ∧ granule 0x200 ≠ granule 0x300 ∧ granule 0x200 ≠ granule 0x820) := by
  refine ⟨⟨by decide +kernel, by decide +kernel, by decide +kernel, by decide +kernel, by decide +kernel, by decide +kernel, ?_⟩,
    ⟨⟨⟨0x400, .device, false⟩, lies stS_at (by decide) (by decide), by decide +kernel, by decide +kernel, by decide +kernel⟩,
      ⟨0x300, .device, false⟩, ringLies stS_at (by decide) (by decide), by decide +kernel, by decide +kernel, by decide +kernel⟩,
    by decide +kernel, by decide +kernel⟩
  · have c : ∀ k, k < 4 → hf cmdD (256 + 32 * k) 32 ≠ 0 := by decide +kernel
    unfold streamReason
    simp only [List.findSome?_eq_none_iff, List.forall_mem_cons, List.not_mem_nil, false_imp_iff, implies_true, and_true]
    refine ⟨?_, ?_, ?_, ?_, ?_, ?_, ?_⟩ <;> (rw [if_neg]; simp only [decide_eq_true_eq])
    · decide +kernel
    · rintro (⟨k, h1, h2⟩ | h)
      · exact c k h1 h2
      · exact absurd h (by decide +kernel)
    · decide +kernel
    · exact fun h => absurd h.1 (by decide +kernel)
    · rintro (h | h | h)
      · exact absurd h (by decide +kernel)
      · exact absurd h.1 (by decide)
      · exact absurd h.1 (by decide)
    · exact fun h => absurd h.1 (by decide)
    · exact broken_not

/-- The hart observes no record, or one; and the states of a completion signal. -/
theorem wit_StreamCompletion :
    (portCmds (stC .accepted 0 0) 1 0 3 ≠ [] ∧ portCmds st0 1 0 3 = [])
    ∧ (∀ q ∈ [(0, 0), (1, 0), (1, 1)], let s := stC .accepted q.1 q.2
        ringCheck s (s.x 5) .write = .ok ⟨0x300, .device, false⟩ ∧ ringCheck s (s.x 5) .read = .ok ⟨0x300, .device, false⟩
        ∧ leNat (homeBytes s .device 0x310 8) = q.1 ∧ leNat (homeBytes s .device 0x318 8) = q.2 ∧ homePois s.mem 0x300 32 = false
        ∧ s.pkg.setOvl = false ∧ racedBytes s s.hart 0x300 32 = [] ∧ s.hart.own = []
        ∧ (∀ j, j < 32 → ∀ w, copyRaces s (0x300 + j) w = false)
        ∧ ringCheck s (word (0x800 + 32 * (q.2 % 2))) .read = .ok ⟨0x800 + 32 * (q.2 % 2), .device, false⟩)
    ∧ (hart1.st.life = .placed ∧ hart1.ui.en = false ∧ ¬ beyond 0x40) := by
  refine ⟨by decide +kernel, by decide +kernel, by decide, by decide, by unfold beyond; decide⟩

/-! ### The timetable -/

/-- A promotion of one line for hart 0, marked 2, with deadline 5; and a copy entry. -/
def Wit.tt1 : TTEnt := { mark := 2, dline := 5, obj := 0x1000, dst := 0, lines := 1, act := 1, tt := 0x08, hidx := 0 }

def Wit.mill1 (k : Marker) (a : List (Nat × Nat × ActSt)) (w : List Nat) : Mill :=
  { launch := 1, die := 0, passes := [(1, [tt1])], acts := a, markers := [k], wantRead := w, fetches := [] }
def Wit.mark (m : Option Nat) (c : List (Nat × Bool)) : Marker := { flat := 0, marker := m, pass := 1, closed := c }
def Wit.stY (m : Mill) : State := { st0 with launches := [{ launch1 with ttptr := 0x300 }], mills := [m] }

theorem Wit.stY_at (m : Mill) : (stY m).mem.tlb = [page, pageE] ∧ (stY m).ctxs = [ctx1] ∧ (stY m).pkg = Pkg.reset ∧ (stY m).hart.id = hart1.id :=
  ⟨rfl, rfl, rfl, rfl⟩

/-- Its table in memory at 0x300, before any pass: the entry and the end. -/
def Wit.ttc : TTEnt := { tt1 with tt := 0x0C }
def Wit.ttBytes : List Byte := natLe 4 2 ++ natLe 4 5 ++ natLe 8 0x1000 ++ natLe 8 0 ++ natLe 4 1 ++ natLe 1 1 ++ natLe 1 0x0C ++ natLe 2 0

def Wit.stTT : State :=
  putHome (stY { mill1 { flat := 0, marker := none, pass := 0, closed := [] } [] [1] with passes := [] }) .device 0x300 (ttBytes ++ natLe 32 0) false

theorem Wit.stTT_at : stTT.mem.tlb = [page, pageE] ∧ stTT.ctxs = [ctx1] ∧ stTT.pkg = Pkg.reset := by decide +kernel

/-- An engine of die 0 reaches the first 4 KiB at the locations of the same numbers. -/
theorem Wit.liesEng {t : State} (h : Still stTT t) {ea : Nat} (h1 : ea < 4096) (h2 : ea % 32 = 0) :
    globalCheck (asEngine t 1 0 0) (asEngine t 1 0 0).hart (word (ea : Int)) 32 .read = .ok ⟨ea, .device, false⟩ := by
  obtain ⟨a, _, b, c, _⟩ := h
  obtain ⟨hn, hw⟩ := word_small h1
  have tr : Sys2Proof.Machine.translate (asEngine t 1 0 0) 0 64 1 ea = .leaf 0 (2 ^ 26) 0 true true false true := by
    simp only [Sys2Proof.Machine.translate, findCtx, asEngine, a, stTT_at.1, b, stTT_at.2.1, page, pageE, ctx1, List.find?]
    simp [decide_eq_true (show ea < 67108864 by omega)]
  have fc : findCtx (asEngine t 1 0 0) 1 = some ctx1 := by simp [findCtx, asEngine, b, stTT_at.2.1, ctx1]
  unfold globalCheck
  rw [hw, hn]
  simp only [if_false, Bool.false_eq_true, h2, ne_eq, not_true]
  show checkGlobal (asEngine t 1 0 0) 0 64 1 ea .read = _
  unfold checkGlobal
  rw [tr, fc]
  simp only [Bool.not_true, Bool.and_false, Bool.or_false, Bool.false_eq_true, if_false]
  rw [show ctx1.dev = 0 from rfl, show (asEngine t 1 0 0).pkg = t.pkg from rfl, c, stTT_at.2.2,
    show 0 + (ea - 0) % 2 ^ 26 = ea by omega, phys0 ea h1]
  rfl

theorem wit_TimetableReads :
    (findLaunch stTT 1 = some { launch1 with ttptr := 0x300 } ∧ (findMill stTT 1 0).table 1 = none ∧ stTT.pkg.setOvl = false
      ∧ (findMill stTT 1 0).wantRead = [1] ∧ (myMarker stTT).marker = none ∧ (myMarker stTT).pass = 0 ∧ stTT.hart.ui.en = false)
    ∧ (∀ j, j ≤ 1 → (∀ t, Still stTT t → globalCheck (asEngine t 1 0 0) (asEngine t 1 0 0).hart (word (0x300 + 32 * j : Nat)) 32 .read
        = .ok ⟨0x300 + 32 * j, .device, false⟩) ∧ homePois stTT.mem (0x300 + 32 * j) 32 = false)
    ∧ (parseEnt (homeBytes stTT .device 0x300 32) = ttc ∧ ttc.act ≠ 0 ∧ (parseEnt (homeBytes stTT .device 0x320 32)).act = 0)
    ∧ CleanBut stTT 1 (findMill stTT 1 0) none ∧ entCause stTT 1 0 ttc = none
    ∧ (ttc.chk = true ∧ Passes (myMarker stTT) 5 0 ttc ∧ (findMill stTT 1 0).act 1 0 = none) := by
  refine ⟨by decide +kernel, fun j hj => ⟨fun t ht => liesEng ht (by omega) (by omega), ?_⟩, by decide +kernel, ?_, by decide +kernel,
    by decide, ?_, by decide +kernel⟩
  · have k : ∀ j, j ≤ 1 → homePois stTT.mem (0x300 + 32 * j) 32 = false := by decide +kernel
    exact k j hj
  · intro p fs i e h
    exact absurd h (by simp [show (findMill stTT 1 0).passes = [] by decide +kernel, Mill.table])
  · exact ⟨by decide, by decide, .inl (.inl (by decide +kernel))⟩

/-- The markers of entry 0 (2 to 5): passed with its action settled, not settled, and open; and a table that is wanted. -/
theorem wit_Timetable :
    (∀ a ∈ [ActSt.settled, .rejected, .faulted, .late, .due, .started],
      let s := stY (mill1 (mark (some 3) []) [(1, 0, a)] [])
      findLaunch s 1 = some { launch1 with ttptr := 0x300 } ∧ (myMill s).table (myMarker s).pass = some [tt1]
      ∧ ¬ startsPass (myMarker s) 7 ∧ 1 ∉ (myMill s).wantRead ∧ tt1.serves (myMarker s).flat = true ∧ tt1.dline ≤ 7
      ∧ (myMarker s).isOpen 0 = true ∧ (myMill s).act 1 0 = some a ∧ entDue (myMarker s) tt1 = true)
    ∧ startsPass (mark (some 3) []) 2 ∧ (mark (some 3) [(0, true)]).isOpen 0 = false ∧ entDue (mark (some 1) []) tt1 = false
    ∧ (let s := stY (mill1 (mark (some 3) []) [(1, 0, .due)] [])
      (dueActs s 0).map (fun d => (d.launch, d.pass, d.i, d.e)) = [(1, 1, 0, tt1)] ∧ inFlight s 0 < 64 ∧ (findSrc s (srcMill 0)).fenced = false
      ∧ allClosed s (findMill s 1 0) 1 0 tt1 = false
      ∧ allClosed s (mill1 (mark (some 6) [(0, false)]) [(1, 0, .started)] []) 1 0 tt1 = true) := by
  refine ⟨by simp only [startsPass]; decide +kernel, .inr ⟨3, rfl, by decide⟩, by decide, by decide, by decide +kernel⟩

/-! ### Launches and placement -/

/-- A launch record for one hart with entry 0x40, on queue 0 with its header at 0x40. -/
def Wit.rec1 : List Byte := natLe 8 0x40 ++ natLe 8 (1 + 1 * 16) ++ natLe 112 0
def Wit.hdr1 (tail head : Nat) : List Byte := natLe 8 0x100 ++ natLe 4 1 ++ natLe 4 0 ++ natLe 8 tail ++ natLe 8 head ++ natLe 32 0
def Wit.dev1 : Device :=
  { idx := 0, queues := [{ q := 0, hdr := 0x40, ctx := 1, paused := false }], rr := 0, resv := [], lastRound := 0 }
def Wit.stQ (tail head : Nat) : State :=
  let s := putHome (putHome { st0 with launches := [], devices := [dev1] } .device 0x40 (hdr1 0 head) false) .device 0x100 rec1 false
  (strongAccess s ⟨0x50, .device, false⟩ 8 (fun _ => some (natLe 8 tail)) false).1

theorem wit_LaunchTaken :
    findQueue (stQ 1 0) 0 0 = some { q := 0, hdr := 0x40, ctx := 1, paused := false } ∧ (stQ 1 0).pkg.chg = none
    ∧ devRead (stQ 1 0) 0 0x40 64 = some (hdr1 1 0) ∧ devRead (stQ 1 0) 0 (0x100 + 128 * (0 % 2 ^ 1)) 128 = some rec1
    ∧ 0x40 + 64 ≤ evArea (stQ 1 0).pkg ∧ (stQ 1 0).pkg.fatalAt = none ∧ (∃ c, findCtx (stQ 1 0) 1 = some c ∧ c.dev = 0)
    ∧ devRead (stQ 1 1) 0 0x40 64 = some (hdr1 1 1)
    ∧ strongTail (stQ 1 0) 0 0x40 = 1 ∧ strongTail (stQ 1 1) 0 0x40 = 1 := by decide +kernel

/-- The same record with one level of one hart and VLREQ 8,192. -/
def Wit.rec2 : List Byte := rec1.take 36 ++ natLe 4 8192 ++ natLe 56 0 ++ natLe 4 (2 ^ 8) ++ natLe 28 0

theorem wit_LaunchTaken_cause : MemOk (stQ 1 0)
    ∧ (launchCause (stQ 1 0) (parseLaunch 10 1 0 0 rec1) rec1 matches .inl _)
    ∧ (launchCause (stQ 1 0) (parseLaunch 10 1 0 0 rec2) rec2 matches .inr _) := by
  refine ⟨by unfold MemOk; decide +kernel, by decide +kernel, by decide +kernel⟩

theorem wit_Placement :
    (let c : Ctx := { ctx1 with tokens := [{ slot := 5, gen := 1, ok := false }] };
      tokenStatus c (0x1005 : BitVec 32) = some false ∧ tokenStatus c (0x2005 : BitVec 32) = none)
    ∧ ((findDev st0 0).lastRound + 64 ≤ st0.cycle ∧ candidates (settleAll (markReady (modDev st0 0 (fun d => { d with lastRound := st0.cycle })))) 0 = [])
    ∧ (launch1.levels.length ≤ 8 ∧ 0 < launch1.levels.length)
    ∧ (hart1.st.life = .placed ∧ findLaunch st0 st0.hart.id.launch = some launch1)
    ∧ ([0].length = ((launch1.levels.drop 1).map (·.count)).foldl (· * ·) 1 ∧ ctx1.kill = none) := by decide +kernel

/-- A launch of one hart that waits to be placed, on a machine with no hart: the first candidate of a round, and where it fits. -/
def Wit.stPl : State :=
  { State.reset with ctxs := [ctx1], launches := [{ launch1 with insts := [{ first := 0, n := 1, st := .never }] }], devices := [dev1],
                     fresh := 10, cycle := 1000 }

def Wit.inRound : State := switchAll (settleAll (markReady (modDev stPl 0 (fun d => { d with lastRound := stPl.cycle }))))

theorem wit_Rounds :
    (findDev stPl 0).lastRound = 0
    ∧ (sortBy (Cand.le (findDev stPl 0).rr (queueCount inRound.pkg.mode)) (candidates inRound 0)).map (fun c => (c.lid, c.gi, c.saved)) = [(1, 0, false)]
    ∧ (findLaunch inRound 1).map (fun l => (l.lid, neverInsts l)) = some (1, [0])
    ∧ ((findLaunch inRound 1).bind (fun l => freshSpots inRound l 0 (grantOf inRound l).1 (fun _ => true) (inUse inRound []))).map
        (fun l => l.map (·.flat)) = some [0] := by decide +kernel

/-! ### Saves, restores, lines and convoys -/

def Wit.living (l : Life) : State := withSt st0 (fun x => { x with life := l, img := some 0, valid := 0x3, issueFrom := 100 })

/-- A saved instance with the head of an image in its save area, and one whose image is empty. -/
def Wit.launchS : Launch := { launch1 with insts := [{ first := 0, n := 1, st := .saved 0 5 false }], grant := some (4, 0) }
def Wit.stI (magic : Nat) : State :=
  let s := { living .saved with launches := [launchS] }
  devWrite s 0 ctx1.save (natLe 4 magic ++ natLe 2 1 ++ natLe 2 0 ++ natLe 4 0 ++ natLe 4 (imageBytes 8192))

theorem wit_SavesAndRestores :
    (findHart st0 7 = none ∧ findHart (living (.stopped true 900)) 1 = some (living (.stopped true 900)).hart ∧ 900 + 96 ≤ st0.cycle
      ∧ (living (.stopped true 950)).cycle < 950 + 96)
    ∧ ((living .placed).hart.st.life = .placed ∧ (living .placed).hart.st.valid.getLsbD 2 = false
      ∧ (∀ k, k < 2 → (living .placed).hart.st.valid.getLsbD k = true) ∧ (living .placed).others = []
      ∧ 100 + max (0 + (2 + 1) * max 1 ((living .placed).hart.vlen / 8 / 1024)) ((2 + 1) * 0 + max 1 ((living .placed).hart.vlen / 8 / 1024))
          ≤ (living .placed).cycle ∧ (living .placed).hart.st.outCyc = 0)
    ∧ (findHart (living (.leaving false 500)) 1 = some (living (.leaving false 500)).hart
      ∧ 500 + 96 + 76 * max 1 ((living (.leaving false 500)).hart.vlen / 8 / 1024) ≤ (living (.leaving false 500)).cycle
      ∧ portBusy (living (.leaving false 500)) (living (.leaving false 500)).hart = false
      ∧ imageAddr (living (.leaving false 500)) (living (.leaving false 500)).hart + imageBytes 8192 ≤ paLimit .one
      ∧ (living (.leaving false 500)).hart.vf.fw = Vector.replicate 4 0 ∧ (living (.leaving false 500)).hart.st.hung = false
      ∧ imageAddr (living (.leaving false 500)) (living (.leaving false 500)).hart % 64 = 0
      ∧ stateSpan (living (.leaving false 500)) launch1 0 = none)
    ∧ (findLaunch (stI 0) 1 = some launchS ∧ (instAll (stI 0) 1 0).map (·.id.uid) = [1] ∧ instState launchS 0 = some (.saved 0 5 false)
      ∧ (restoreSpots (stI 0) launchS 0 []).isSome = true) := by decide +kernel

/-- A hart in the shadow bank: its outgoing hart stopped 100 cycles ago; and one whose context is not clear. -/
def Wit.staged (l : Life) : State :=
  { living l with others := [{ hart1 with id := { hart1.id with uid := 2, launch := 2 }, st := { hart1.st with life := .staged } }] }

theorem wit_ShadowSwitches :
    ((findHart (staged (.stopped true 900)) 2).map (·.st.life) = some .staged
      ∧ (∀ x ∈ (staged (.stopped true 900)).others, x.st.life = .staged ∧ sameCtx x (staged (.stopped true 900)).hart = true)
      ∧ 900 + 96 ≤ (staged (.stopped true 900)).cycle ∧ (findCore (staged .placed) 0 0).fenced = false)
    ∧ ((staged .placed).hart.onCore = true ∧ (∀ x ∈ (staged .placed).others, sameCtx (staged .placed).hart x = true)) := by decide +kernel

theorem wit_Restores_state : stateSpan (stI 0x474D4951) launchS 0 = none ∧ loadState (stI 0x474D4951) launchS 0 = stI 0x474D4951 := by
  have h : stateSpan (stI 0x474D4951) launchS 0 = none := by decide +kernel
  exact ⟨h, by simp only [loadState, h]⟩

theorem Wit.slice_dev (s : State) (d pa m o n : Nat) (h : o + n ≤ m) : slice (devBytes s d pa m) o n = devBytes s d (pa + o) n := by
  unfold slice devBytes
  apply List.map_congr_left
  intro i hi
  have : i < n := List.mem_range.mp hi
  rw [List.getD_eq_getElem?_getD, List.getElem?_map, List.getElem?_range (by omega)]
  simp only [Option.map_some, Option.getD_some, Nat.add_assoc]

/-- An image is refused, or not, by the words of its head. -/
theorem wit_Restores_cause : imageCause (devBytes (stI 0) 0 ctx1.save (imageBytes 8192)) true 0 4 = some 0x0201
    ∧ imageCause (devBytes (stI 0x474D4951) 0 ctx1.save (imageBytes 8192)) true 0 4 = none ∧ headClean (stI 0x474D4951) 0 ctx1.save = true := by
  have f : ∀ s : State, ∀ o n, o + n ≤ 4096 → slice (devBytes s 0 ctx1.save (imageBytes 8192)) o n = devBytes s 0 (ctx1.save + o) n :=
    fun s o n h => slice_dev s _ _ _ _ _ (Nat.le_trans h (by decide))
  refine ⟨?_, ?_, by decide +kernel⟩
  · unfold imageCause fld
    rw [f _ 0 4 (by omega)]
    simp [show leNat (devBytes (stI 0) 0 ctx1.save 4) ≠ 0x474D4951 by decide +kernel]
  · have np : leNat (devBytes (stI 0x474D4951) 0 (ctx1.save + 0x840) 4) = 0 := by decide +kernel
    have l4 : List.range 4 = [0, 1, 2, 3] := rfl
    have b0 : bits 0 6 1 = 0 := by decide
    unfold imageCause imageZeros fld zeroAt
    simp only [l4, List.all_cons, List.all_nil]
    rw [f _ 0x840 4 (by omega), np, b0]
    rw [f _ 0x20 1 (by omega), f _ 6 2 (by omega), f _ 0x0B 1 (by omega), f _ 0x21 7 (by omega), f _ 0x48 184 (by omega),
      f _ 0x100 8 (by omega), f _ 0x3E0 32 (by omega), f _ 0x440 960 (by omega), f _ 0x844 12 (by omega), f _ 0x860 32 (by omega),
      f _ 0xC00 1024 (by omega), f _ (0x28 + 8 * 0) 8 (by omega), f _ (0x28 + 8 * 1) 8 (by omega), f _ (0x28 + 8 * 2) 8 (by omega),
      f _ (0x28 + 8 * 3) 8 (by omega), f _ (0xA80 + 8 * 0) (384 - 8 * 0) (by omega), f _ 8 1 (by omega), f _ 0 4 (by omega),
      f _ 4 2 (by omega), f _ 12 4 (by omega)]
    decide +kernel

theorem wit_ImageRoundTrip :
    hart1.st.hung = false ∧ hart1.st.uiDue = false ∧ hart1.sc.x[0] = 0 ∧ hart1.sc.px = 0 ∧ hart1.sc.pxb = 0 ∧ hart1.vlen = 8192
    ∧ (∀ p ∈ ([(0xA00, true)] : List (Nat × Bool)), p.1 % 32 = 0 ∧ p.1 < 2 ^ 48) ∧ 8192 ≤ min (8192 * 2 ^ (0 : BitVec 2).toNat) (2048 * 4) := by
  decide +kernel

/-- The witness of a bad line in a cache whose copy in memory is good, and of one bad in memory too. -/
def Wit.cached (b : BitVec 512) : State :=
  let s := onWord 0x00614501
  { s with mem := { s.mem with ilines := [{ die := 0, core := 0, ctx := 1, line := 0, bits := b }] } }

/-- The tables of a context whose core holds no translation. -/
def Wit.stW2 : State := let s := withTable st0; { s with mem := { s.mem with tlb := [] } }

theorem wit_Walks :
    walk stW2 ctx1 0x5000 = .leaf 0 (2 ^ 30) 0 true true false false ∧ walkFrom stW2 ctx1 0 0x5000 = walk stW2 ctx1 0x5000
    ∧ cachedTab stW2.mem 0 1 0x5000 = none ∧ tablesOn stW2 0 0x5000 3 0 = [(2, 0x1000)] ∧ ctx1.num = 1 := by decide +kernel

def Wit.onConvoy (g : List (Word × Instr)) : State := { stV with hart := { stV.hart with gathered := g } }

theorem wit_FetchAndConvoys :
    (fetchChk (onWord 0x00614501) (onWord 0x00614501).hart (lineOf 0) = .ok codeAt ∧ parityBad (memLine (onWord 0x00614501) codeAt) = none
      ∧ parityBad (lineAt (onWord 0x00614501)) = none ∧ fetchChk (onWord 0x00614501) (onWord 0x00614501).hart (lineOf (2 ^ 40)) = .fault 0x000A)
    ∧ (walk st0 ctx1 0x5000 = .fault 0x000A ∧ wide 0x5000 = false ∧ devOfDie st0.pkg 0 = ctx1.dev)
    ∧ (findTile (withTiles [{ tile7 with st := .freeing }]) 1 7 = some { tile7 with st := .freeing }
      ∧ tileHeld (withTiles [{ tile7 with st := .freeing }]) 1 7 = false)
    ∧ ((memberOf (.vadd 4 1 (.vec 2) 6 6 6 0)).isSome = true
      ∧ (memberOf (.vadd 4 1 (.vec 2) 6 6 6 0)).map (fun m => (convoyChecks [m] stV).isNone) = some true
      ∧ (memberOf (.vadd 1 1 (.vec 2) 6 9 6 0)).map (fun m => (convoyChecks [m] stV).isNone) = some false
      ∧ (onConvoy [(0, .vadd 4 1 (.vec 2) 6 6 6 0)]).hart.convoy = none
      ∧ (onConvoy [(0, .vadd 4 1 (.vec 2) 6 6 6 0)]).hart.st.ahead = (onConvoy [(0, .vadd 4 1 (.vec 2) 6 6 6 0)]).hart.st.line
      ∧ (maskRule (.mnand 1 2 3)).isSome = true ∧ (onConvoy [(0, .mnand 1 2 3)]).hart.gathered = [(0, .mnand 1 2 3)]) := by decide +kernel

/-! ### Events, resets, pairs and tests -/

def Wit.evOf (sev : Nat) : EvRec := mkEv st0 0x0005 0x0403 sev none none none [] true

def Wit.opened : State := event st0 0x0005 0x0403 0 none none none [] true

theorem wit_ErrorRecords :
    st0.pkg.fatalAt = none ∧ (findSrc st0 0x0005).open_ = none ∧ (findSrc opened 0x0005).open_.isSome = true
    ∧ { st0.pkg with fatalAt := some 5 }.fatalAt ≠ none
    ∧ (areaGet st0 (evOf 2).dev 0x10 8 + 2 ^ 64 - areaGet st0 (evOf 2).dev 0x18 8) % 2 ^ 64 ≠ 2 ^ 17
    ∧ (let s := { st0 with ctxs := [{ ctx1 with kill := some 0 }], cycle := 24000000 }
      findCtx s 1 = some { ctx1 with kill := some 0 } ∧ (∃ h ∈ allHarts s, h.id.ctx = 1 ∧ h.onCore = true) ∧ 0 + 24000000 ≤ s.cycle)
    ∧ (let s := withSt st0 (fun x => { x with life := .saved })
      ∀ h ∈ allHarts s, h.onCore = false) := by decide +kernel

def Wit.rel (sig : BitVec 64) (since : Nat) : PendRel :=
  { scope := .cluster, set := [], remote := [], after := .nothing, sig := sig, since := since, agreed := false, pins := [] }
def Wit.twin (u : Nat) (p : List PendRel) : Hart :=
  { hart1 with id := { hart1.id with uid := u, core := u, partner := decide (u = 2) }, st := { hart1.st with red := true }, pend := p }
def Wit.stTw (p q : List PendRel) (c : Nat) : State :=
  { st0 with hart := twin 1 p, others := [twin 2 q], pairs := [{ uid := 1, partner := 2, req := none, joint := none }], cycle := c }

def Wit.testing (kind since : Nat) : State :=
  { st0 with cores := [{ findCore st0 1 3 with test := some { kind := kind, bank := 5, since := since } }], cycle := 200000 }

theorem wit_IntegrityAndTests :
    ((stTw [rel 5 0] [rel 5 0] 0).pairs.find? (fun q => q.uid == 1) = some { uid := 1, partner := 2, req := none, joint := none }
      ∧ (findHart (stTw [rel 5 0] [rel 6 0] 0) 2).map (·.pend) = some [rel 6 0]
      ∧ waitingRel (twin 1 [rel 5 0]) = some (rel 5 0) ∧ waitingRel (twin 2 []) = none ∧ 0 + 12000000 < (stTw [rel 5 0] [] 12000001).cycle)
    ∧ (1 ≠ st0.pkg.hdie ∧ (findCore st0 1 3).fenced = false ∧ (findCore st0 1 3).test = none ∧ (findCore st0 1 3).testFirst = []
      ∧ (∀ h ∈ allHarts { st0 with cycle := 5000 }, h.id.die = 1 → h.id.core = 3 → h.takes = false) ∧ (findCore st0 1 3).idleSince + 4096 ≤ 5000
      ∧ (findCore st0 1 3).gr ≠ 64)
    ∧ ((findCore (testing 1 0) 1 3).test = some { kind := 1, bank := 5, since := 0 } ∧ 0 + 200000 ≤ (testing 1 0).cycle
      ∧ (testing 1 1).cycle < 1 + 200000)
    ∧ (lastPass st0 1 3 2 + 86400000000000 < nsNow { st0 with cycle := 200000000000000 })
    ∧ (let s := { st0 with cores := [{ findCore st0 0 0 with gr := 64 }] }
      (settleGr s.cycle (findCore s 0 0)).lastPe + 64 ≤ s.cycle ∧ 0 < grAfter (settleGr s.cycle (findCore s 0 0))
        ∧ (settleGr s.cycle (findCore s 0 0)).req = none ∧ (settleGr s.cycle (findCore s 0 0)).rel = none) := by decide +kernel

def Wit.slowed (t : Nat) : State := { st0 with weirs := [{ findWeir st0 0 0 with slow := some t }] }
def Wit.clock (c : DieClock) (now : Nat) : State := { st0 with clocks := [c], cycle := now }

theorem wit_PowerAndClocks :
    (1200 % 1200 = 0 ∧ rowsHeld (clusterCores st0 0 0) ≤ 512 ∧ nsNow { st0 with cycle := 12000000 } ≥ 10000000)
    ∧ ((findWeir st0 0 0).slow = none ∧ (findWeir (slowed 0) 0 0).slow = some 0 ∧ nsNow (slowed 0) < 0 + 1000000000
      ∧ 0 + 1000000000 ≤ nsNow { slowed 0 with cycle := 2000000000 })
    ∧ (0 ≠ st0.pkg.hdie ∧ (findClock st0 0).want = none ∧ (findClock st0 0).pause = none ∧ (findClock st0 0).step < 2
      ∧ unstableHop st0 0 = none ∧ 0 < (findClock (clock { findClock st0 0 with step := 2 } 0) 0).step)
    ∧ ((findClock (clock { findClock st0 0 with pause := some 800 } 1000) 0).pause = some 800
      ∧ 800 ≤ nsNow (clock { findClock st0 0 with pause := some 800 } 1000) ∧ nsNow (clock { findClock st0 0 with pause := some 800 } 900) < 800)
    ∧ (findHart st0 1 = some hart1 ∧ hart1.st.life = .placed ∧ hart1.st.wdStage = 0 ∧ hart1.st.asleep = none
      ∧ hart1.st.lastRetire + st0.pkg.wdp ≤ nsNow { st0 with cycle := 200000000 } ∧ nsNow st0 < hart1.st.lastRetire + st0.pkg.wdp
      ∧ (withSt st0 (fun x => { x with wdStage := 1, life := .leaving true 0 })).hart.st.wdSince + st0.pkg.wdp ≤ nsNow { st0 with cycle := 200000000 })
    ∧ (2 * st0.pkg.wdp ≤ (300000000 - 0) * 5 / 6 ∧ (st0.cycle - 0) * 5 / 6 < 2 * st0.pkg.wdp) := by decide +kernel

def Wit.hopped (h : Hop) : State := { st0 with hops := [h] }

theorem wit_MemoryAndLinks :
    ((findRefresh st0 0 0).owed < 8)
    ∧ (st0.pkg.fatalAt = none ∧ (findSrc st0 (srcOf 5 0 0)).open_ = none)
    ∧ ((findHop st0 0 0).half = none ∧ (findHop st0 0 0).waiting = [] ∧ (findHop st0 0 0).spare0 = none ∧ 64 ∉ (findHop st0 0 0).bad
      ∧ (findHop st0 0 0).replays < 8)
    ∧ (let s := hopped { findHop st0 0 0 with waiting := [(5, 0)] }
      (findHop s 0 0).waiting = (5, 0) :: [] ∧ clockPaused s 0 = false ∧ (findHop s 0 0).busyUntil ≤ s.cycle ∧ 0 + 256 ≤ s.cycle)
    ∧ (let s := hopped { findHop st0 0 0 with waiting := [(5, 0)], spare0 := some 1, spare1 := some 2, bad := [5] }
      (findHop s 0 0).spare1 ≠ none ∧ (badIn (findHop s 0 0) true).length ≤ (goodSpares (findHop s 0 0)).length)
    ∧ ((neighbour 0 0).isSome = true ∨ (neighbour 0 1).isSome = true) ∧ (∃ e, e < 4 ∧ neighbour 0 e = none)
    ∧ ((findTile (withTiles [tile7]) 1 7).map (·.size) = some 64 ∧ 64 * 0 < 64 ∧ 64 ≤ 64 * 1)
    ∧ (inSpill (living (.leaving true 990)).hart 5 = true ∧ inSpill st0.hart 5 = false)
    ∧ (portDown st0 32 = false ∧ portDown { st0 with eth := [{ port := 32, down := true, discarded := 0 }] } 32 = true) := by decide +kernel

/-! ### The transport -/

/-- A path of the host's port, and a packet of it. -/
def Wit.path1 (o : List OutReq) (t : Nat) : Path :=
  { port := 32, num := 9, addr6 := 0, txSeq := 5, out := o, timeout := 100, tries := t, since := 0, rate := 8000, lastCnp := 0, rxNext := 3,
    held := [], unacked := 1, lastArrival := 0, stored := [], rxw := [], relAt := [], lastCnpSent := 0, failed := false }
def Wit.pkt (op : BitVec 8) (seq : BitVec 32) (pl : List Byte) : Packet := { port := 32, op := op, path := 9, seq := seq, ctx := 0xFFFF, addr := 0x100, payload := pl }
def Wit.out1 (q : BitVec 32) : OutReq := { seq := q, op := 1, rid := 3, ctx := 1, rctx := 0, addr := 0, payload := [], pois := false, acked := false }
def Wit.stNet (o : List OutReq) (t : Nat) : State := { st0 with paths := [path1 o t], cycle := 1000000 }

theorem Wit.taken (s : State) (ha : s.pkg.hostAddr = 0) (op : BitVec 8) (h : op ≠ 0 ∧ op.toNat ≤ 9) (seq : BitVec 32) (pl : List Byte) (hp : pl.length ≤ 4096) :
    ¬ Claim.Refused s (pkt op seq pl) := by
  rintro (h1 | h1 | h1 | h1 | h1 | h1 | ⟨_, h1⟩)
  · exact h1 rfl
  · exact h.1 h1
  · exact absurd h1 (by have := h.2; show ¬ 9 < op.toNat; omega)
  · exact absurd h1 (show ¬ 4 ≤ (0 : BitVec 16).toNat by decide)
  · exact h1 rfl
  · exact absurd h1 (by show ¬ 4096 < pl.length; omega)
  · exact h1 ⟨rfl, rfl, ha.symm⟩

theorem Wit.onPath (op : BitVec 8) (h : op ≠ 0 ∧ op.toNat ≤ 9) (seq : BitVec 32) (pl : List Byte) (hp : pl.length ≤ 4096)
    (o : List OutReq) (t : Nat) : Claim.OnPath (stNet o t) (pkt op seq pl) (path1 o t) :=
  ⟨rfl, taken _ rfl op h seq pl hp, rfl⟩

/-- A request that was performed before, with its answer kept; and a WRITE that its release has published. -/
theorem wit_Transport_again :
    2 ^ 31 ≤ ((pkt 3 2 []).seq - (path1 [] 0).rxNext).toNat ∧ (pkt 3 2 []).op ≠ 1
    ∧ ({ path1 [] 0 with stored := [(2, none, 11)] } : Path).stored.find? (fun e => e.1 == (pkt 3 2 []).seq) = some (2, none, 11)
    ∧ ({ pkt 3 3 [1] with rel := true } : Packet).rel = true ∧ (pkt 3 3 [1]).rel = false := by decide

theorem wit_Transport :
    (Claim.OnPath (stNet [] 0) (pkt 3 3 [1]) (path1 [] 0) ∧ (pkt 3 3 [1]).op ∈ ([1, 3, 4, 5, 8] : List (BitVec 8))
      ∧ Claim.arrival (.pktWrite (pkt 3 3 [1])) = some (pkt 3 3 [1])
      ∧ (∀ q ∈ [(3, 0), (4, 1), (258, 255), (259, 256), (2, 2 ^ 32 - 1)], ((BitVec.ofNat 32 q.1) - (path1 [] 0).rxNext).toNat = q.2))
    ∧ (Claim.InOrder (stNet [] 0) (pkt 1 3 (natLe 4 8)) (path1 [] 0) ∧ (pkt 1 3 (natLe 4 8)).payload = natLe 4 8
      ∧ devRead (stNet [] 0) (lowestDev (stNet [] 0).pkg) 0x100 8 = some (natLe 8 0)
      ∧ 0x100 + 1 ≤ paLimit (stNet [] 0).pkg.mode ∧ paLimit (stNet [] 0).pkg.mode ≤ (2 ^ 50 : Word).toNat
      ∧ (path1 [] 0).rxw = [] ∧ (stNet [] 0).mem.ovl = [])
    ∧ (Claim.InOrder (stNet [] 0) (pkt 5 3 ([1, 8] ++ natLe 8 7)) (path1 [] 0) ∧ Claim.InOrder (stNet [] 0) (pkt 8 3 (natLe 8 5 ++ natLe 16 0)) (path1 [] 0))
    ∧ (Claim.OnPath (stNet [out1 4] 0) (pkt 2 4 []) (path1 [out1 4] 0) ∧ (path1 [out1 4] 0).out.find? (fun x => x.seq == (pkt 2 4 []).seq) = some (out1 4)
      ∧ (path1 [out1 1] 0).out.find? (fun x => x.seq == (pkt 9 4 []).ack + 1) = some (out1 1))
    ∧ (Claim.OnPath (stNet [out1 4] 0) (pkt 6 4 (natLe 32 2)) (path1 [out1 4] 0) ∧ Claim.OnPath (stNet [] 0) (pkt 7 4 []) (path1 [] 0))
    ∧ (findPath (stNet [out1 4] 8) 32 9 = some (path1 [out1 4] 8) ∧ 0 + 50000 ≤ nsNow (stNet [] 0) ∧ 0 + 2000 ≤ nsNow (stNet [] 0)
      ∧ 0 + 1000 * 100 ≤ nsNow (stNet [] 0) ∧ (∃ o ∈ (path1 [out1 4] 0).out, o.acked = false))
    ∧ Claim.Refused st0 { pkt 1 3 [] with ver := 2 }
    ∧ Claim.Refused st0 { pkt 8 3 [] with addr6 := 5 } := by
  have p := fun (op : BitVec 8) h seq pl hp => onPath op h seq pl hp [] 0
  refine ⟨⟨p 3 (by decide) 3 [1] (by decide), by decide, rfl, by decide⟩,
    ⟨⟨p 1 (by decide) 3 _ (by decide), rfl, rfl, rfl, rfl, by decide⟩, rfl, by decide +kernel, by decide +kernel⟩,
    ⟨⟨p 5 (by decide) 3 _ (by decide), rfl, rfl, rfl, rfl, by decide⟩, ⟨p 8 (by decide) 3 _ (by decide), rfl, rfl, rfl, rfl, by decide⟩⟩,
    ⟨onPath 2 (by decide) 4 [] (by decide) _ 0, by decide, by decide⟩,
    ⟨onPath 6 (by decide) 4 _ (by decide) _ 0, p 7 (by decide) 4 [] (by decide)⟩, ?_, .inl (by decide),
    .inr (.inr (.inr (.inr (.inr (.inr ⟨.inl rfl, fun h => absurd h.2.2 (by decide)⟩)))))⟩
  decide +kernel


/-! ### Worked examples of the spec -/

/-- The state after an instruction that gives one. -/
def Wit.after (o : Out) : State := match o with | .next t => t | _ => st0

/-- R24: the physical address 0x3_4567_8000 in ONE mode lies in stack 11 at 0x1A2B_3000. -/
theorem test_interleave : physLoc Pkg.reset 0 0x345678000 = some (stackLoc 11 0x1A2B3000) := by decide +kernel

/-- R31: VLREQ 20,000 under the full cap is granted 16 lanes, which give 32,768 bits. -/
theorem test_lanes : lanesFor 20000 3 = 16 ∧ 8192 * 2 ^ (vkFor 16 3).toNat = 32768 := by decide

/-- R84: an image of VLEN 16,384 has 159,744 bytes. -/
theorem test_image_size : imageBytes 16384 = 159744 := by decide

/-- R383: core 9 of die 26, the controller of stack 11, and the west hop into die 26. -/
theorem test_sources : srcCore 26 9 = 0x0689 ∧ srcOf 5 11 0 = 0x52C0 ∧ srcOf 7 26 2 = 0x7682 := by decide

/-- R91 and R95: the reset entries f3 and f5, and conversions into them under RNE. -/
theorem test_convert : hart1.vc.ft[3] = 0x10083869
    ∧ fencode (parseFmt 0x10083869) (fdecode fp32 0x43960000) 0 0 = (0x79, fINEXACT)
    ∧ fencode (parseFmt 0x10083869) (fdecode fp32 0x43FA0000) 0 0 = (0x7E, fSATURATION ||| fINEXACT)
    ∧ fencode (parseFmt 0x002000E1) (fdecode fp32 0xC302B333) 0 0 = (0x80, fSATURATION ||| fINEXACT)
    ∧ fencode (parseFmt 0x002000E1) (fdecode fp32 0x40200000) 0 0 = (2, fINEXACT) := by decide +kernel

/-- R71: code 0xB of a typed 4-bit block with scale byte 0x5D is -0.375. -/
theorem test_scaled : fencode fp32 (scaledVal (parseFmt 0x06280080) 0x5D 0xB) 0 0 = (0xBEC00000, 0) := by decide +kernel

/-- R102: the group rule keeps 1 + 2^-23. -/
theorem test_group :
    (groupStep False (0, 0) [(fdecode fp32 0x3F800000, fdecode fp32 0x3F800000), (fdecode fp32 0x33800000, fdecode fp32 0x3F800000),
      (fdecode fp32 0x33800000, fdecode fp32 0x3F800000)]).1 = 0x3F800001 := by
  unfold groupStep; rw [if_neg id]; decide +kernel

/-- R151 to R154: words that the chapters give. -/
theorem test_words :
    reads 0x000000910040000000018540 (.vcfgi 5 6 0x91) ∧ reads 0x0000000100028041 (.vld 0 10 0 1 0 0)
    ∧ reads 0x0200440000801049 (.vfmacc 16 0 (.vec 8) 0 1 1 0 .rne) ∧ reads 0x0000004000000080 (.amodeWs 1) ∧ reads 0x0008000000000080 .vmode
    ∧ reads 0x0000004000001082 (.mrow 16 0 0 none 1 0 0) ∧ reads 0x00000000280000C0 (.phaseRel .cluster)
    ∧ reads 0x00000000500000C0 (.phaseAcq .device) ∧ reads 0x0000000300000000A00000C0 (.phaseRelL 3)
    ∧ reads 0x00000001014240A1 (.kst 20 0 9 1) ∧ reads 0x00000002_00000000016548A2 (.bgath 8 21 22 2)
    ∧ reads 0x00000003000280B0 (.strm 10 3) ∧ reads 0x00000044_00000010200280B0 (.strmV 10 8 (some 4))
    ∧ reads 0x00000002_00000000400000C1 (.barSync 2) ∧ reads 0x00000003_00000000000005C1 (.barArrive 5 3)
    ∧ reads 0x000000000081C0C2 (.mcast 7 8) := by decide +kernel

/-- R153: of two reserved bits the lowest is named. -/
theorem test_reserved : decode 0x00000010_0000200000614501 = .err (.reserved 45) := by decide +kernel

/-- R169, R177: an immediate with sign, and a constant in two halves. -/
theorem test_scalar_immediates :
    (after (execAnd 5 5 (.imm 0xFFFFFFF0) (withX st0 5 0x1234567F))).x 5 = 0x12345670
    ∧ (after (execLih 7 7 0x9FB21C65 (after (execLi 7 0x1E98DF25 st0)))).x 7 = 0x9FB21C651E98DF25 := by decide +kernel

/-- R222 to R224: VL 8, ms = 0b0110_1000 under m0. -/
def Wit.stMask (mk : BitVec 65536) : State :=
  { stV with hart := { stV.hart with vc := { stV.hart.vc with vl := 8, vtype := 6 }, vf := { stV.hart.vf with m := (stV.hart.vf.m.set 2 0x68).set 3 mk } } }

theorem test_masks :
    (after (execMcount 9 2 0 (stMask 0xFF))).x 9 = 3 ∧ (after (execMcutLt 1 2 0 (stMask 0xFF))).hart.vf.m[1] = 0x07
    ∧ (after (execMcutLe 1 2 0 (stMask 0xFF))).hart.vf.m[1] = 0x0F ∧ (after (execMcutEq 1 2 0 (stMask 0xFF))).hart.vf.m[1] = 0x08
    ∧ (after (execMcount 9 2 3 (stMask 0xF0))).x 9 = 2
    ∧ ((List.range 8).map (fun i => elem (after (execVrank 4 2 0 (stMask 0xFF))).hart 4 i 32)) = [0, 0, 0, 0, 1, 1, 2, 3] := by decide +kernel

/-- R225: 100 + 60 in int8 saturates, and in int32 is exact. -/
def Wit.stI8 : State :=
  { stV with hart := { stV.hart with vf := { stV.hart.vf with v := (stV.hart.vf.v.set 1 100).set 2 60 },
                                     vc := { stV.hart.vc with vl := 1, vtype := 5 } } }

theorem test_saturates :
    elem (after (execVadd 4 1 (.vec 2) 5 5 5 0 stI8)).hart 4 0 8 = 127 ∧ elem (after (execVadd 4 1 (.vec 2) 6 5 5 0 stI8)).hart 4 0 32 = 160 := by
  decide +kernel

/-- R247: the ordered sum of 2^24, 1, 1, -2^24 is +0. -/
def Wit.stSum : State :=
  { stV with hart := { stV.hart with vc := { stV.hart.vc with vl := 4 }, vf := { stV.hart.vf with v := stV.hart.vf.v.set 1 0xCB8000003F8000003F8000004B800000 } } }

theorem test_ordered_sum : elem (after (execVfredosum 4 1 2 0 0 0 .rne stSum)).hart 4 0 32 = 0 := by decide +kernel

/-- R301, R307: the worked signature; its hart has four BF16 elements, three columns and the bucket bits 3. -/
def Wit.stSig : State :=
  { stK with hart := { stK.hart with
      bolter := { stK.hart.bolter with
        desc := BitVec.ofNat 512 (head - (2 * 2 ^ 9 + 2 ^ 14) * 2 ^ 384 + (3 * 2 ^ 9 + 3 * 2 ^ 14) * 2 ^ 384)
        cols := ((stK.hart.bolter.cols.set 0 0xC).set 1 0xA).set 2 1 }
      vf := { stK.hart.vf with v := stK.hart.vf.v.set 1 0x3E80C0003F003F80 } } }

theorem test_signature : (after (execHsig 9 1 1 stSig)).x 9 = 0x00000FFFF0210006 := by decide +kernel

/-- R253: a drain stopped in row 40 saves MODE 0xA1C. -/
theorem test_mode_word : modeValue { hart1 with vc := { hart1.vc with mode := { st := 4, dtgt := 3, drow := 40, chn := false } } } = 0xA1C := by
  decide +kernel

/-- R334: the word at 0x1C of a timetable entry. -/
theorem test_timetable_word :
    (parseEnt (natLe 28 0 ++ natLe 4 0xFFFF2401)).act = 1 ∧ (parseEnt (natLe 28 0 ++ natLe 4 0xFFFF2401)).tt = 0x24
    ∧ (parseEnt (natLe 28 0 ++ natLe 4 0xFFFF2401)).hidx = 0xFFFF := by decide +kernel

/-- R395: the event area at reset has what a package reset writes, and the memory lists it in its form. -/
theorem test_reset_area : areaGet State.reset 0 0 8 = evArea Pkg.reset + 0x800000 ∧ areaGet State.reset 0 8 4 = 17
    ∧ areaGet State.reset 0 0x10 8 = 0 ∧ State.reset.mem.wf = true := by decide +kernel

/-- A step on the witness state runs the fetched addition and moves to the next slot. -/
theorem test_step_add : (match step (withX (withX (onWord 0x00614501) 5 7) 6 8) with
    | .next t => t.x 5 == 15 && t.hart.pc == 1 && t.hart.st.retired == 1 | _ => false) = true := by decide +kernel

/-! ### The assembler and the loader (R163 to R168) -/

/-- The line of the example of R165: `add x10, x3, x0` in slot 0 with a label, and four no-operations. -/
theorem test_assembled_line :
    (assembleText [.align 64, .label "start", .instr (.add 10 3 (.reg 0)), .instr (.add 0 0 (.reg 0)), .line]).map (·.1)
      = some [(0x0016C001#512 <<< 480) ||| (1#512 <<< 384) ||| (1#512 <<< 288) ||| (1#512 <<< 192) ||| (1#512 <<< 96) ||| 0xCA01#512] := by decide +kernel

/-- The data of the example of R165: a pointer of 0x10000 and the float −87.5. -/
theorem test_assembled_data :
    (assembleData [.align 128, .label "args", .values 8 [0x10000], .float true 875 (-1)]).map (·.1)
      = some (natLe 8 0x10000 ++ natLe 4 0xC2AF0000) := by decide +kernel

/-- The launch record of the example of R165: CTRL 0x34 and the levels 0x100, 0x109 and 0x852. -/
theorem test_assembled_record :
    (launchRecord { entry := 0, prio := 4, red := false, ydl := 0, arg := 0, stkbase := 0, stksz := 0, vlreq := 65536, tt := 0, deps := [],
                    done := 0, levels := [⟨0, 0, false, 1⟩, ⟨1, 1, false, 1⟩, ⟨2, 2, true, 8⟩], fmts := [] } 0).map
        (fun b => (fld b 8 8, fld b 0x60 4, fld b 0x64 4, fld b 0x68 4))
      = some (0x34, 0x100, 0x109, 0x852) := by decide +kernel

/-- The quotient of −2^63 by −1 wraps, and a division by zero is an error (R162). -/
theorem test_expressions :
    evalExpr [] (.bin .div (.lit 0x8000000000000000) (.neg (.lit 1))) = some 0x8000000000000000
    ∧ evalExpr [] (.bin .mod (.neg (.lit 7)) (.lit 2)) = some 0xFFFFFFFFFFFFFFFF
    ∧ evalExpr [] (.bin .div (.lit 1) (.lit 0)) = none := by decide +kernel

/-- A file of one data section of 8 bytes, a symbol at its offset 4, and a relocation of type 1 at its offset 0. -/
def Wit.objFile : List Byte :=
  natLe 4 0x48544B49 ++ natLe 2 1 ++ natLe 2 3 ++ natLe 8 64 ++ natLe 8 8 ++ List.replicate 40 0
  ++ (natLe 2 2 ++ natLe 1 4 ++ natLe 1 0 ++ natLe 4 0 ++ natLe 8 160 ++ natLe 8 8 ++ natLe 8 0)
  ++ (natLe 2 5 ++ natLe 1 3 ++ natLe 1 0 ++ natLe 4 0 ++ natLe 8 168 ++ natLe 8 24 ++ natLe 8 0)
  ++ (natLe 2 6 ++ natLe 1 3 ++ natLe 1 0 ++ natLe 4 0 ++ natLe 8 192 ++ natLe 8 16 ++ natLe 8 0)
  ++ natLe 8 0x10 ++ (natLe 8 4 ++ natLe 2 0 ++ natLe 2 2 ++ natLe 4 0 ++ natLe 8 0)
  ++ (natLe 8 0 ++ natLe 2 1 ++ natLe 2 0 ++ natLe 4 0)

/-- The image stands at the next multiple of 16, and the relocation adds the symbol's loaded address (R167, R168). -/
theorem test_loaded_file :
    loadFile Wit.objFile 0x1003 = some { base := 0x1010, chunks := [(0x1010, natLe 8 0x1024)], records := [] } := by decide +kernel

/-- A file whose VER differs is malformed (R168). -/
theorem test_malformed_file : loadFile (Wit.objFile.set 4 2) 0x1003 = none := by decide +kernel
end

section
/-! SUPPORT. The issue checks of the model as the refusals of the statements: one equation per check, and what a failed
check does. -/

namespace Sys2Proof.Machine

/-! ### Refusals as options -/

theorem word_natCast (n : Nat) : word (n : Int) = BitVec.ofNat 64 n := by simp [word]

theorem firstFail_cons (c : Check) (l : List Check) : firstFail (c :: l) = c.or (firstFail l) := by
  cases c <;> rfl

theorem failing_of {p : Prop} [Decidable p] (h : p) (c : Nat) (v : Word) : failing p c v = some (c, v) := if_pos h

theorem failing_of_not {p : Prop} [Decidable p] (h : ¬ p) (c : Nat) (v : Word) : failing p c v = none := if_neg h

/-- A check passed by some forms is the refusal of the others. -/
theorem check_eq_failing (ok : Bool) (p : Prop) [Decidable p] (h : ok = false ↔ p) (c : Nat) (v : Word) :
    (if ok then none else some (c, v)) = failing p c v := by
  cases ok
  · rw [failing_of (h.1 rfl)]; rfl
  · rw [failing_of_not (fun hp => Bool.noConfusion (h.2 hp))]; rfl

theorem modeWord_eq (h : Hart) : BitVec.ofNat 64 (modeWord h.vc.mode) = modeValue h := by
  rw [modeValue, word_natCast, modeWord]
  cases h.vc.mode.chn <;> rfl

theorem ckState_eq (h : Hart) (ok : Bool) (p : Prop) [Decidable p] (e : ok = false ↔ p) :
    ckState h ok = failing p 0x0012 (modeValue h) := by
  rw [ckState, modeWord_eq, check_eq_failing ok p e]

theorem fmtVal_eq (k : FEnt) (d : Bool) : fmtVal k d = entryValue k.val d := by
  rw [fmtVal, entryValue, word_natCast]
  cases d <;> rfl

theorem ckFmt_eq (h : Hart) (k : FEnt) :
    ckFmt h k = failing (fmtValid (entry h k) = false) 0x0004 (entryValue k.val false) := by
  rw [ckFmt, fmtVal_eq, check_eq_failing _ _ Iff.rfl]

theorem ckAllow_eq (k : FEnt) (ok : Bool) (p : Prop) [Decidable p] (e : ok = false ↔ p) :
    ckAllow k ok = failing p 0x0004 (entryValue k.val true) := by
  rw [ckAllow, fmtVal_eq, check_eq_failing ok p e]

/-- The checks of VILL and of VL are the refusals of R202. -/
theorem ckVl_eq (h : Hart) (ks : List FEnt) : ckVl h ks = configRefusal h ks := by
  have hv : vill h = h.vc.vtype.toNat.testBit 63 := rfl
  have hk : ks.any (fun k => fmtValid (entry h k) && decide (capN h (fmt h k).n < vlOf h)) = true
      ↔ ∃ k ∈ ks, fmtValid (entry h k) = true ∧ capOf h (fmt h k).n < vlOf h := by
    have hc : ∀ n, capN h n = capOf h n := fun n => by
      simp [capN, capOf, grp, groupSize, Hart.vlen, bits, Nat.shiftRight_eq_div_pow]
    simp [hc]
  rw [ckVl, configRefusal, ← hv, word_natCast]
  cases vill h
  · simp only [failing, hk]; rfl
  · rfl

/-! ### What a failed check does -/

/-- A refusal that neither consumes poison nor misses a key takes its trap. -/
theorem raiseCheck_eq_takeTrap (s : State) {c : Nat} (v : Word) (h0 : c ≠ 0) (h1 : c ≠ 0x0010) :
    raiseCheck s c v = takeTrap s c v := by
  rw [raiseCheck, if_neg h0, memTrap, if_neg h1]

/-- The refusal, if it is one, neither consumes poison nor misses a key. -/
def TrapCodes (r : Option (Nat × Word)) : Prop := ∀ t, r = some t → t.1 ≠ 0 ∧ t.1 ≠ 0x0010

theorem TrapCodes.or {r q : Option (Nat × Word)} (hr : TrapCodes r) (hq : TrapCodes q) : TrapCodes (r.or q) := by
  intro t h
  cases r with
  | none => exact hq t h
  | some u => exact hr t h

theorem trapCodes_failing {p : Prop} [Decidable p] {c : Nat} {v : Word} (h : c ≠ 0 ∧ c ≠ 0x0010) :
    TrapCodes (failing p c v) := by
  intro t e
  by_cases hp : p
  · rw [failing_of hp] at e
    cases e
    exact h
  · rw [failing_of_not hp] at e
    cases e

theorem trapCodes_configRefusal (h : Hart) (ks : List FEnt) : TrapCodes (configRefusal h ks) := by
  rw [configRefusal]
  exact .or (trapCodes_failing (by decide)) (trapCodes_failing (by decide))

theorem checked_none (s : State) (k : State → State) : checked none s k = k s := rfl

theorem checked_some (s : State) (k : State → State) {c : Nat} (v : Word) (h0 : c ≠ 0) (h1 : c ≠ 0x0010) :
    checked (some (c, v)) s k = takeTrap s c v := raiseCheck_eq_takeTrap s v h0 h1

end Sys2Proof.Machine
end

section
/-! PROOF. The format table and the array's mode changes (R63, R109, R251 to R255). -/

namespace Sys2Proof.Machine

/-! ### The format table -/

theorem entry_set_same (h : Hart) (k : FEnt) (d : BitVec 32) :
    entry { h with vc := { h.vc with ft := h.vc.ft.set k.val d } } k = d := by simp [entry]

theorem entry_set_other (h : Hart) (k j : FEnt) (d : BitVec 32) (hj : j ≠ k) :
    entry { h with vc := { h.vc with ft := h.vc.ft.set k.val d } } j = entry h j :=
  Vector.getElem_set_ne k.isLt j.isLt (fun e => hj (Fin.ext e.symm))

theorem exec_fset (k : FEnt) (a : XReg) (s : State) :
    exec (.fset k a) s = .next (consume s [a] fun s =>
      retire s (s.onHart (fun h => { h with vc := { h.vc with ft := h.vc.ft.set k.val (lo32 (getX h a)) } }))) := rfl

theorem fset_formatTable : Claim.FormatTable := by
  intro s a k j
  refine ⟨fun hp => ?_, fun hp => ?_⟩
  · refine ⟨{ s.hart with vc := { s.hart.vc with ft := s.hart.vc.ft.set k.val (lo32 (s.x a)) } }, ?_, rfl, ?_,
      entry_set_other _ _ _ _⟩
    · simp only [exec_fset, consume, List.any_cons, hp, List.any_nil, Bool.or_false, Bool.false_eq_true, if_false]; rfl
    · rw [entry_set_same]; exact (BitVec.ofNat_toNat 32 (s.x a)).symm
  · simp [exec_fset, consume, hp]

/-! ### Entry into array mode -/

/-- The widths that an array packing has. -/
theorem packOf_eq (n : Nat) :
    packOf n = if n = 16 then some 0 else if n = 8 then some 1 else if n = 4 then some 2 else none := by
  unfold packOf
  split <;> simp_all

/-- The packing of an entry, by its validity and its width. -/
theorem packCode_eq (h : Hart) (fa : FEnt) :
    packCode h fa = if fmtValid (entry h fa) then packOf (fmt h fa).n else none := by
  rw [packCode, packOf_eq]
  cases fmtValid (entry h fa) <;> rfl

/-- The hart is in the target state of an `amode`, under the packing that the entry gives, if it gives one. -/
def inTarget (h : Hart) (st : BitVec 3) (fa : FEnt) : Bool :=
  h.vc.mode.st == st && (match packCode h fa with | some p => p == h.vc.ashape.pk | none => true)

/-- ENTERING a target state with a packing, from the cycle given (R252). -/
def entering (st : BitVec 3) (pk : BitVec 2) (now : Nat) (h : Hart) : Hart :=
  { h with vc := { h.vc with mode := { st := stENTERING, dtgt := st, drow := 0, chn := false },
                             ashape := { rows := 64, cols := BitVec.ofNat 8 (2 * h.lanes), pk := pk, cpos := 0, clen := 0 } },
           arr := { h.arr with since := some now } }

/-- The checks of an entry are passed by those that give a packing; the others are invalid, or valid and disallowed. -/
theorem entryChecks_eq (h : Hart) (fa : FEnt) :
    (ckFmt h fa).or (ckAllow fa (packCode h fa).isSome) =
      failing (packCode h fa = none) 0x0004 (entryValue fa.val (fmtValid (entry h fa))) := by
  cases hv : fmtValid (entry h fa)
  · have hp : packCode h fa = none := by simp [packCode_eq, hv]
    rw [failing_of hp, ckFmt_eq, failing_of hv]; rfl
  · rw [ckFmt_eq, failing_of_not (by simp [hv]), ckAllow_eq _ _ (packCode h fa = none) (by simp)]; rfl

/-- `amode` is refused in a state that is neither VECTOR nor its target, and then for its entry; else it retires in its target
and enters it from VECTOR. -/
theorem amodeOp_eq (st : BitVec 3) (fa : FEnt) (s : State) :
    amodeOp st fa s =
      checked ((failing (s.hart.vc.mode.st ≠ 0 ∧ inTarget s.hart st fa = false) 0x0012 (modeValue s.hart)).or
          (failing (packCode s.hart fa = none) 0x0004 (entryValue fa.val (fmtValid (entry s.hart fa))))) s fun s =>
        if s.hart.vc.mode.st = st then retireSolo s s
        else s.onHart (entering st ((packCode s.hart fa).getD 0) s.cycle) := by
  rw [← entryChecks_eq, ← ckState_eq s.hart (s.hart.vc.mode.st == stVECTOR || inTarget s.hart st fa) _
    (by simp [stVECTOR])]
  simp only [amodeOp, firstFail_cons, firstFail, Option.or_none, inTarget, packCode_eq]
  rfl

theorem exec_amode {st : BitVec 3} {fa : FEnt} {i : Instr} (hi : (st = 2 ∧ i = .amodeWs fa) ∨ (st = 3 ∧ i = .amodeRs fa))
    (s : State) : exec i s = .next (amodeOp st fa s) := by
  obtain ⟨rfl, rfl⟩ | ⟨rfl, rfl⟩ := hi <;> rfl

theorem amode_arrayEntry : Claim.ArrayEntry := by
  intro s fa st i hi
  have hne : (0 : BitVec 3) ≠ st := by obtain ⟨rfl, -⟩ | ⟨rfl, -⟩ := hi <;> decide
  rw [exec_amode hi, amodeOp_eq]
  refine ⟨fun p hp h0 => ?_, fun p hp hs hk => ?_, fun h0 hbad => ?_, fun hp hs => ?_⟩
  · rw [failing_of_not (fun h => h.1 h0), failing_of_not (by simp [hp]), Option.or_none, checked_none, h0, if_neg hne, hp]
    rfl
  · have hin : inTarget s.hart st fa = true := by simp [inTarget, hs, hp, hk]
    rw [failing_of_not (by simp [hin]), failing_of_not (by simp [hp]), Option.or_none, checked_none, if_pos hs]
    rfl
  · have hout : inTarget s.hart st fa = false := by
      obtain hs | ⟨p, hp, hk⟩ := hbad
      · simp [inTarget, hs]
      · simp [inTarget, hp, Ne.symm hk]
    rw [failing_of ⟨h0, hout⟩, Option.some_or, checked_some _ _ _ (by decide) (by decide)]
  · have hok : ¬ (s.hart.vc.mode.st ≠ 0 ∧ inTarget s.hart st fa = false) := by
      rintro ⟨h0, hout⟩
      obtain hs | hs := hs
      · exact h0 hs
      · simp [inTarget, hs, hp] at hout
    rw [failing_of_not hok, Option.none_or, failing_of hp, checked_some _ _ _ (by decide) (by decide)]

/-! ### The way out of array mode -/

/-- A drain to VECTOR is under way. -/
def resumesExit (h : Hart) : Bool := h.vc.mode.st == stDRAINING && h.vc.mode.dtgt == stVECTOR

/-- The row at which a drain to VECTOR begins: its own when one is under way, else row 0 (R252, R253). -/
def exitRow (h : Hart) : BitVec 7 := if resumesExit h then h.vc.mode.drow else 0

/-- Draining to VECTOR, as if from row 0 at an earlier cycle. -/
def leaving (now : Nat) (h : Hart) : Hart :=
  { h with vc := { h.vc with mode := { h.vc.mode with st := 4, dtgt := 0, drow := exitRow h } },
           arr := { h.arr with since := some (now - (exitRow h).toNat), drain := none } }

/-- `vmode` is refused in a drain to another state, and then in a chain; else it retires in VECTOR and drains elsewhere. -/
theorem vmodeOp_eq (s : State) :
    vmodeOp s =
      checked ((failing (s.hart.vc.mode.st = 4 ∧ s.hart.vc.mode.dtgt ≠ 0) 0x0012 (modeValue s.hart)).or
          (failing (s.hart.vc.mode.chn = true) 0x0013 8)) s fun s =>
        if s.hart.vc.mode.st = 0 then retireSolo s s else s.onHart (leaving s.cycle) := by
  have hbad : (s.hart.vc.mode.st != stDRAINING || resumesExit s.hart) = false ↔
      s.hart.vc.mode.st = 4 ∧ s.hart.vc.mode.dtgt ≠ 0 := by
    simp only [resumesExit, stDRAINING, stVECTOR, Bool.or_eq_false_iff, bne_eq_false_iff_eq, Bool.and_eq_false_iff,
      beq_eq_false_iff_ne]
    exact ⟨fun ⟨h4, h⟩ => ⟨h4, h.resolve_left (fun hn => hn h4)⟩, fun ⟨h4, hd⟩ => ⟨h4, .inr hd⟩⟩
  rw [← ckState_eq s.hart _ _ hbad]
  simp only [vmodeOp, firstFail_cons, firstFail, Option.or_none]
  rfl

/-- In a state from which `vmode` leaves the array, a drain under way is one to VECTOR. -/
theorem exitRow_eq {h : Hart} (hs : ¬ (h.vc.mode.st = 4 ∧ h.vc.mode.dtgt ≠ 0)) :
    exitRow h = if h.vc.mode.st = 4 then h.vc.mode.drow else 0 := by
  have hr : resumesExit h = true ↔ h.vc.mode.st = 4 := by
    simpa [resumesExit, stDRAINING, stVECTOR] using hs
  simp only [exitRow, hr]

theorem vmode_arrayExit : Claim.ArrayExit := by
  intro s
  have he : exec .vmode s = .next (vmodeOp s) := rfl
  rw [he, vmodeOp_eq]
  refine ⟨fun h0 hc => ?_, fun h4 hd => ?_, fun hst hc => ?_, fun hst hc => ?_⟩
  · rw [failing_of_not (by simp [h0]), failing_of_not (by simp [hc]), Option.or_none, checked_none, if_pos h0]
    rfl
  · rw [failing_of ⟨h4, hd⟩, Option.some_or, checked_some _ _ _ (by decide) (by decide)]
  · have hs : ¬ (s.hart.vc.mode.st = 4 ∧ s.hart.vc.mode.dtgt ≠ 0) := by
      rintro ⟨h4, hd⟩
      exact hst.elim (fun hn => hn h4) hd
    rw [failing_of_not hs, Option.none_or, failing_of hc, checked_some _ _ _ (by decide) (by decide)]
  · have hs : ¬ (s.hart.vc.mode.st = 4 ∧ s.hart.vc.mode.dtgt ≠ 0) := by
      obtain h | h | ⟨-, h⟩ := hst <;> simp [h]
    have h0 : s.hart.vc.mode.st ≠ 0 := by
      obtain h | h | ⟨h, -⟩ := hst <;> simp [h]
    rw [failing_of_not hs, failing_of_not (by simp [hc]), Option.or_none, checked_none, if_neg h0]
    exact ⟨leaving s.cycle s.hart, rfl, rfl, by rw [← exitRow_eq hs]; rfl, rfl⟩

end Sys2Proof.Machine
end

section
/-! PROOF. The moves of whole tiles (R257): a convoy of one member that writes nothing before it completes. -/

namespace Sys2Proof.Machine

/-! ### A convoy of one whole move -/

/-- A member that moves a whole register: it drives the PEs for the time of a move, stops at no element, and writes only at
its completion. -/
structure WholeMove (m : Member) : Prop where
  pe : m.pe = true
  move : m.move = true
  strong : m.strong = false
  arr : m.arr = none
  draws : ∀ h, m.draws h = false
  run : ∀ dev lo hi s, m.run dev lo hi s = (s, none)

theorem convoyChecks_one (m : Member) (s : State) : convoyChecks [m] s = m.check s := by
  simp [convoyChecks, firstFail_cons, firstFail]

/-- A convoy of one member whose check fails takes its trap. -/
theorem soloConvoy_takesTrap {m : Member} {s : State} {c : Nat} {v : Word} (h : m.check s = some (c, v))
    (hc : c ≠ 0 ∧ c ≠ 0x0010) : soloConvoy m s = takeTrap s c v := by
  simp [soloConvoy, convoyChecks_one, h, raiseCheck_eq_takeTrap s v hc.1 hc.2]

/-- The run of the member completes with its final write. -/
theorem runConvoyNow_wholeMove {m : Member} {s : State} (hm : WholeMove m) {t : Hart}
    (hf : m.fin (vesOf s.hart) s = { s with hart := t }) (hr : t.vc.rseed = s.hart.vc.rseed) :
    runConvoyNow [(m, s.hart.vc.rseed)] s = .complete { s with hart := t } := by
  have hs : s.onHart (fun h => { h with vc := { h.vc with rseed := s.hart.vc.rseed } }) = s := rfl
  simp only [runConvoyNow, runMembers, hs, hm.run, hf, if_true]
  rw [← hr]; rfl

/-- A convoy that made no remote store waits for none. -/
theorem awaitWrites_complete {s t : State} (hw : t.hart.rwrites = s.hart.rwrites) :
    awaitWrites s (.complete t) = .complete t := by
  have hn : t.hart.rwrites.find? (fun w => !w.acked && !s.hart.rwrites.contains w) = none := by
    rw [hw, List.find?_eq_none]
    simp +contextual
  simp only [awaitWrites, hn, Option.bind_none]

section
variable {m : Member} {s : State} (hm : WholeMove m) (hc : m.check s = none)
include hm hc

/-- Without all the rows of its core, the convoy requests them. -/
theorem soloConvoy_requestRows (hg : granted s = false) : soloConvoy m s = requestRows s := by
  simp [soloConvoy, convoyChecks_one, hc, runConvoy, hm.pe, hg]

/-- The PE work begins. -/
theorem soloConvoy_begins (hg : granted s = true) (hb : s.hart.arr.began = none) :
    soloConvoy m s = { peWork s 15 with hart := { s.hart with arr := { s.hart.arr with began := some (s.cycle, 0) } } } := by
  simp [soloConvoy, convoyChecks_one, hc, runConvoy, hg, hm.strong, moveTime, hm.move, hb, beginWork, State.onHart, peWork]

/-- The PE work goes on. -/
theorem soloConvoy_goesOn (hg : granted s = true) {c k : Nat} (hb : s.hart.arr.began = some (c, k)) (ht : s.cycle < c + 16) :
    soloConvoy m s = s := by
  simp [soloConvoy, convoyChecks_one, hc, runConvoy, hg, hm.strong, moveTime, hm.move, hb, ht]

/-- Once the time of a move has passed, the convoy completes with its final write. -/
theorem soloConvoy_completes (hg : granted s = true) {c k : Nat} (hb : s.hart.arr.began = some (c, k)) (ht : c + 16 ≤ s.cycle)
    {t : Hart} (hf : m.fin (vesOf s.hart) s = { s with hart := t }) (hr : t.vc.rseed = s.hart.vc.rseed)
    (hw : t.rwrites = s.hart.rwrites) :
    soloConvoy m s = retire s { s with hart := { t with vc := { t.vc with ves := 0 } } } := by
  have hrun : runConvoy [m] s = .complete { s with hart := t } := by
    simp [runConvoy, hg, hm.strong, moveTime, hm.move, hb, Nat.not_lt.2 ht, seedMembers, hm.draws, hm.arr,
      runConvoyNow_wholeMove hm hf hr, awaitWrites_complete, hw]
  simp [soloConvoy, convoyChecks_one, hc, hrun, drawCount, hm.draws, b2n, convoyEnd, State.onHart]

/-- A whole move holds the PEs for its time and then completes. -/
theorem movesTile_of_wholeMove {i : Instr} {done : Hart} (hi : exec i s = .next (soloConvoy m s)) (hg : granted s = true)
    (hf : m.fin (vesOf s.hart) s = { s with hart := endWork done }) (hr : done.vc.rseed = s.hart.vc.rseed)
    (hw : done.rwrites = s.hart.rwrites) : MovesTile i s done := by
  rw [MovesTile, hi]
  refine ⟨fun hb => ?_, fun c k hb ht => ?_, fun c k hb ht => ?_⟩
  · rw [soloConvoy_begins hm hc hg hb]
  · rw [soloConvoy_goesOn hm hc hg hb ht]
  · rw [soloConvoy_completes hm hc hg hb ht hf hr hw]; rfl

end

/-! ### The two moves -/

/-- `wld` as a convoy of its own: one member that loads the tile at its completion. -/
def wldAlone (w : TReg) (v : VReg) (fa : FEnt) : Member :=
  { wldMember w v fa with run := fun _ _ _ s => (s, none), fin := fun _ s => s.onHart (fun h => endWork (loadTile w v fa 0 h)) }

/-- `wst` as a convoy of its own: one member that stores the tile at its completion. -/
def wstAlone (v : VReg) (w : TReg) : Member :=
  { wstMember v w with run := fun _ _ _ s => (s, none), fin := fun _ s => (storeTile v w s).onHart endWork }

theorem exec_wld (w : TReg) (v : VReg) (fa : FEnt) (s : State) :
    exec (.wld w v fa) s = .next (soloConvoy (wldAlone w v fa) s) := rfl

theorem exec_wst (v : VReg) (w : TReg) (s : State) : exec (.wst v w) s = .next (soloConvoy (wstAlone v w) s) := rfl

theorem wldAlone_wholeMove (w : TReg) (v : VReg) (fa : FEnt) : WholeMove (wldAlone w v fa) :=
  ⟨rfl, rfl, rfl, rfl, fun _ => rfl, fun _ _ _ _ => rfl⟩

theorem wstAlone_wholeMove (v : VReg) (w : TReg) : WholeMove (wstAlone v w) :=
  ⟨rfl, rfl, rfl, rfl, fun _ => rfl, fun _ _ _ _ => rfl⟩

theorem packOf_isSome (n : Nat) : (packOf n).isSome = false ↔ n ≠ 4 ∧ n ≠ 8 ∧ n ≠ 16 := by
  rw [packOf_eq]
  by_cases h16 : n = 16
  · simp [h16]
  · by_cases h8 : n = 8
    · simp [h8]
    · by_cases h4 : n = 4
      · simp [h4]
      · simp [h16, h8, h4]

/-- The entry of a tile must have an array width, and no blocks but those of R257. -/
theorem tileEntry_disallowed (f : Fmt) :
    ((packOf f.n).isSome && (f.blk == 0 || pairing f)) = false ↔
      (f.n ≠ 4 ∧ f.n ≠ 8 ∧ f.n ≠ 16) ∨ (f.blk ≠ 0 ∧ ¬ ((f.n = 8 ∧ f.blk = 1) ∨ (f.n = 4 ∧ f.blk = 2))) := by
  rw [Bool.and_eq_false_iff, packOf_isSome]
  simp [pairing]

/-- The tile moves are refused in a drain. -/
theorem ckState_notDraining (h : Hart) :
    ckState h (!draining h) = failing (h.vc.mode.st = 4) 0x0012 (modeValue h) :=
  ckState_eq h _ _ (by simp [draining, stDRAINING])

theorem wldAlone_check (w : TReg) (v : VReg) (fa : FEnt) (s : State) :
    (wldAlone w v fa).check s = ((failing (s.hart.vc.mode.st = 4) 0x0012 (modeValue s.hart)).or (configRefusal s.hart [fa])).or
      ((failing (fmtValid (entry s.hart fa) = false) 0x0004 (entryValue fa.val false)).or
        (failing (((fmt s.hart fa).n ≠ 4 ∧ (fmt s.hart fa).n ≠ 8 ∧ (fmt s.hart fa).n ≠ 16)
            ∨ ((fmt s.hart fa).blk ≠ 0 ∧ ¬ (((fmt s.hart fa).n = 8 ∧ (fmt s.hart fa).blk = 1)
              ∨ ((fmt s.hart fa).n = 4 ∧ (fmt s.hart fa).blk = 2)))) 0x0004 (entryValue fa.val true))) := by
  simp only [wldAlone, wldMember, firstFail_cons, firstFail, ckState_notDraining, ckVl_eq, ckFmt_eq,
    ckAllow_eq _ _ _ (tileEntry_disallowed _), Option.or_none, Option.or_assoc]

theorem wstAlone_check (v : VReg) (w : TReg) (s : State) :
    (wstAlone v w).check s = (failing (s.hart.vc.mode.st = 4) 0x0012 (modeValue s.hart)).or (configRefusal s.hart [0]) := by
  simp only [wstAlone, wstMember, firstFail_cons, firstFail, ckState_notDraining, ckVl_eq, Option.or_none]
  rfl

/-- A move of a whole tile into a tile register: its bits, its poison, no residue flag, and the descriptor. -/
def tileLoaded (w : TReg) (v : VReg) (fa : FEnt) (h : Hart) : Hart :=
  { h with vf := { h.vf with w := h.vf.w.set w.val (vreg h v.val), pw := h.vf.pw.set w.val (vpoisReg h v.val),
                             fw := h.vf.fw.set w.val 0, td := h.vf.td.set w.val (entry h fa) } }

theorem setIfInBounds_eq_set {α : Type} {n : Nat} (l : Vector α n) (i : Nat) (a : α) (h : i < n) :
    l.setIfInBounds i a = l.set i a h := by
  ext j hj
  rw [Vector.getElem_setIfInBounds, Vector.getElem_set]

theorem loadTile_zero (w : TReg) (v : VReg) (fa : FEnt) (h : Hart) : loadTile w v fa 0 h = tileLoaded w v fa h := by
  simp [loadTile, setLatch, setTile, tileLoaded, setIfInBounds_eq_set]

/-- A register that takes a tile whose accumulators carry no residue flag. -/
def tileStored (v : VReg) (w : TReg) (h : Hart) : Hart :=
  { h with vf := { h.vf with v := h.vf.v.set v.val h.vf.w[w.val], pv := h.vf.pv.set v.val h.vf.pw[w.val] } }

theorem storeTile_unflagged (v : VReg) (w : TReg) (s : State) (hw : s.hart.vf.fw[w.val] = 0) :
    storeTile v w s = s.onHart (tileStored v w) := by
  have hf : wflag s.hart w.val = 0 := by simpa [wflag] using hw
  simp [storeTile, hf, State.onHart, tileStored, wreg, wpois]

theorem wldMoves (s : State) (w : TReg) (v : VReg) (fa : FEnt) (hc : (wldAlone w v fa).check s = none)
    (hg : granted s = true) : MovesTile (.wld w v fa) s (tileLoaded w v fa s.hart) := by
  refine movesTile_of_wholeMove (wldAlone_wholeMove w v fa) hc (exec_wld w v fa s) hg ?_ rfl rfl
  simp [wldAlone, State.onHart, loadTile_zero]

theorem wstMoves (s : State) (v : VReg) (w : TReg) (hc : (wstAlone v w).check s = none) (hg : granted s = true)
    (hw : s.hart.vf.fw[w.val] = 0) : MovesTile (.wst v w) s (tileStored v w s.hart) := by
  refine movesTile_of_wholeMove (wstAlone_wholeMove v w) hc (exec_wst v w s) hg ?_ rfl rfl
  simp [wstAlone, State.onHart, storeTile_unflagged v w s hw]

theorem wld_wst_tileMoves : Claim.TileMoves := by
  intro s w v fa h
  refine ⟨fun r hr => ?_, fun r hr => ?_⟩
  · rw [← wldAlone_check w v fa s] at hr
    have hcode : TrapCodes r := by
      rw [hr, wldAlone_check]
      exact .or (.or (trapCodes_failing (by decide)) (trapCodes_configRefusal _ _))
        (.or (trapCodes_failing (by decide)) (trapCodes_failing (by decide)))
    rw [exec_wld]
    refine ⟨fun c x hcx => ?_, fun h0 hg => ?_, fun h0 hg => ?_⟩
    · rw [soloConvoy_takesTrap (hr ▸ hcx) (hcode _ hcx)]
    · rw [soloConvoy_requestRows (wldAlone_wholeMove w v fa) (hr ▸ h0) hg]
    · exact wldMoves s w v fa (hr ▸ h0) hg
  · rw [← wstAlone_check v w s] at hr
    have hcode : TrapCodes r := by
      rw [hr, wstAlone_check]
      exact .or (trapCodes_failing (by decide)) (trapCodes_configRefusal _ _)
    rw [exec_wst]
    refine ⟨fun c x hcx => ?_, fun h0 hg => ?_, fun h0 hg hw => ?_⟩
    · rw [soloConvoy_takesTrap (hr ▸ hcx) (hcode _ hcx)]
    · rw [soloConvoy_requestRows (wstAlone_wholeMove v w) (hr ▸ h0) hg]
    · exact wstMoves s v w (hr ▸ h0) hg hw

/-- Settles O40: the format table by its write, the mode changes by the checks they make, and the tile moves as convoys of
one member that writes only at its completion. -/
theorem modesAndTiles : Obligations.ModesAndTiles :=
  ⟨fset_formatTable, amode_arrayEntry, vmode_arrayExit, wld_wst_tileMoves⟩

end Sys2Proof.Machine
end

section
/-! SUPPORT. Words of integers: each operation on 64-bit words is the low 64 bits of one on integers. -/

namespace Sys2Proof.Machine

/-! ### Words of integers -/

@[simp] theorem word_toInt (a : Word) : word a.toInt = a := BitVec.ofInt_toInt

@[simp] theorem word_toNat (a : Word) : word (a.toNat : Int) = a := by
  rw [word_natCast, BitVec.ofNat_toNat, BitVec.setWidth_eq]

theorem word_add (x y : Int) : word (x + y) = word x + word y := BitVec.ofInt_add x y

theorem word_mul (x y : Int) : word (x * y) = word x * word y := BitVec.ofInt_mul x y

theorem word_sub (x y : Int) : word (x - y) = word x - word y := by
  rw [Int.sub_eq_add_neg, word_add, word, word, BitVec.ofInt_neg, ← BitVec.sub_eq_add_neg]; rfl

/-- The low bits of an integer as a signed integer are the signed value of the bits. -/
theorem toInt_ofInt_eq_signedLow {n : Nat} (hn : 0 < n) (v : Int) : (BitVec.ofInt n v).toInt = signedLow n v := by
  obtain ⟨m, rfl⟩ := Nat.exists_eq_add_one_of_ne_zero (Nat.ne_of_gt hn)
  have h2 : ((2 ^ (m + 1) : Nat) : Int) = 2 * 2 ^ m := by
    rw [Nat.pow_succ, Nat.mul_comm, Int.natCast_mul, Int.natCast_pow]; rfl
  have hc : (2 * (2 : Int) ^ m + 1) / 2 = 2 ^ m := by omega
  rw [BitVec.toInt_ofInt, Int.bmod_def, h2, hc]
  simp only [signedLow, Nat.add_sub_cancel, Int.pow_succ, Int.mul_comm]

/-- Sign extension of the low bits of an integer. -/
theorem signExtend_ofInt {n : Nat} (hn : 0 < n) (v : Int) : (BitVec.ofInt n v).signExtend 64 = word (signedLow n v) := by
  rw [BitVec.signExtend, toInt_ofInt_eq_signedLow hn]; rfl

theorem lo32_word (v : Int) : lo32 (word v) = BitVec.ofInt 32 v := by
  apply BitVec.eq_of_toNat_eq
  simp only [lo32, word, BitVec.toNat_setWidth, BitVec.toNat_ofInt]
  omega

/-- The result of a word form. -/
theorem wRes_lo32_word (v : Int) : wRes (lo32 (word v)) = word (signedLow 32 v) := by
  rw [lo32_word]; exact signExtend_ofInt (by decide) v

theorem boolW_eq_relWord {b : Bool} {p : Prop} [Decidable p] (h : b = true ↔ p) : boolW b = relWord p := by
  simp only [boolW, relWord, h]

theorem toNat_eq_zero_iff (a : Word) : a.toNat = 0 ↔ a = 0 := BitVec.toNat_inj (y := 0)

theorem toInt_eq_zero_iff (a : Word) : a.toInt = 0 ↔ a = 0 := BitVec.toInt_inj (y := 0)

/-! ### Sums and logic -/

theorem add_eq_word (a b : Word) : a + b = word (a.toInt + b.toInt) := by simp [word_add]

theorem sub_eq_word (a b : Word) : a - b = word (a.toInt - b.toInt) := by simp [word_sub]

theorem addw_eq_word (a b : Word) : wRes (lo32 (a + b)) = word (signedLow 32 (a.toInt + b.toInt)) := by
  rw [add_eq_word, wRes_lo32_word]

theorem subw_eq_word (a b : Word) : wRes (lo32 (a - b)) = word (signedLow 32 (a.toInt - b.toInt)) := by
  rw [sub_eq_word, wRes_lo32_word]

/-- The lesser of two words, by a comparison of the integers they are the words of. -/
theorem lesser_eq_word {lt : Bool} {x y : Int} {a b : Word} (h : lt = true ↔ x < y) (ha : word x = a) (hb : word y = b) :
    (if lt then a else b) = word (min x y) := by
  simp only [h]
  split
  · rw [Int.min_eq_left (by omega), ha]
  · rw [Int.min_eq_right (by omega), hb]

/-- The greater of two words, by the same comparison. -/
theorem greater_eq_word {lt : Bool} {x y : Int} {a b : Word} (h : lt = true ↔ x < y) (ha : word x = a) (hb : word y = b) :
    (if lt then b else a) = word (max x y) := by
  simp only [h]
  split
  · rw [Int.max_eq_right (by omega), hb]
  · rw [Int.max_eq_left (by omega), ha]

theorem ult_iff_cast_lt (a b : Word) : a.ult b = true ↔ (a.toNat : Int) < b.toNat := by
  rw [BitVec.ult_iff_lt, BitVec.lt_def, Int.ofNat_lt]

theorem min_eq_word (a b : Word) : (if a.slt b then a else b) = word (min a.toInt b.toInt) :=
  lesser_eq_word BitVec.slt_iff_toInt_lt (word_toInt a) (word_toInt b)

theorem max_eq_word (a b : Word) : (if a.slt b then b else a) = word (max a.toInt b.toInt) :=
  greater_eq_word BitVec.slt_iff_toInt_lt (word_toInt a) (word_toInt b)

theorem minu_eq_word (a b : Word) : (if a.ult b then a else b) = word (min a.toNat b.toNat : Nat) := by
  have hm : ((min a.toNat b.toNat : Nat) : Int) = min (a.toNat : Int) b.toNat := by omega
  rw [hm, lesser_eq_word (ult_iff_cast_lt a b) (word_toNat a) (word_toNat b)]

theorem maxu_eq_word (a b : Word) : (if a.ult b then b else a) = word (max a.toNat b.toNat : Nat) := by
  have hm : ((max a.toNat b.toNat : Nat) : Int) = max (a.toNat : Int) b.toNat := by omega
  rw [hm, greater_eq_word (ult_iff_cast_lt a b) (word_toNat a) (word_toNat b)]

theorem sel_eq (c a b : Word) : (if c ≠ 0 then a else b) = if c.toNat ≠ 0 then a else b :=
  ite_congr (propext (not_congr (toNat_eq_zero_iff c).symm)) (fun _ => rfl) (fun _ => rfl)

/-! ### Shifts -/

theorem shiftLeft_eq_word (a : Word) (n : Nat) : a <<< n = word (a.toNat * 2 ^ n : Nat) := by
  apply BitVec.eq_of_toNat_eq
  rw [word_natCast, BitVec.toNat_shiftLeft, BitVec.toNat_ofNat, Nat.shiftLeft_eq]

theorem ushiftRight_eq_word (a : Word) (n : Nat) : a >>> n = word (a.toNat / 2 ^ n : Nat) := by
  apply BitVec.eq_of_toNat_eq
  rw [word_natCast, BitVec.toNat_ushiftRight, BitVec.toNat_ofNat, Nat.shiftRight_eq_div_pow,
    Nat.mod_eq_of_lt (Nat.lt_of_le_of_lt (Nat.div_le_self _ _) a.isLt)]

theorem sshiftRight_eq_word (a : Word) (n : Nat) : a.sshiftRight n = word (a.toInt / (2 : Int) ^ n) := by
  rw [← word_toInt (a.sshiftRight n), BitVec.toInt_sshiftRight, Int.shiftRight_eq_div_pow]; simp

/-- Two parts of a rotation share no bit. -/
theorem shifts_disjoint (a : Word) (m n : Nat) (h : m + n = 64) : a <<< m &&& a >>> n = 0#64 := by
  ext i hi
  simp only [BitVec.getElem_and, BitVec.getElem_shiftLeft, BitVec.getElem_ushiftRight, BitVec.getElem_zero]
  by_cases hm : i < m
  · simp [hm]
  · simp [BitVec.getLsbD_of_ge a (n + i) (by omega)]

theorem rol_eq_word (a b : Word) :
    a.rotateLeft (b.toNat % 64) = word (a.toNat * 2 ^ (b.toNat % 64) + a.toNat / 2 ^ (64 - b.toNat % 64) : Nat) := by
  rw [BitVec.rotateLeft_def, Nat.mod_mod, ← BitVec.add_eq_or_of_and_eq_zero _ _ (shifts_disjoint a _ _ (by omega)),
    shiftLeft_eq_word, ushiftRight_eq_word, Int.natCast_add, word_add]

theorem ror_eq_word (a b : Word) :
    a.rotateRight (b.toNat % 64) = word (a.toNat / 2 ^ (b.toNat % 64) + a.toNat * 2 ^ (64 - b.toNat % 64) : Nat) := by
  rw [BitVec.rotateRight_def, Nat.mod_mod, BitVec.or_comm,
    ← BitVec.add_eq_or_of_and_eq_zero _ _ (shifts_disjoint a _ _ (by omega)), BitVec.add_comm,
    shiftLeft_eq_word, ushiftRight_eq_word, Int.natCast_add, word_add]

/-- The result of a word form from a number of 32 bits. -/
theorem wRes_ofNat (v : Nat) : wRes (BitVec.ofNat 32 v) = word (signedLow 32 v) := by
  rw [← BitVec.ofInt_natCast]; exact signExtend_ofInt (by decide) v

theorem toInt_lo32 (a : Word) : (lo32 a).toInt = signedLow 32 a.toInt := by
  rw [← toInt_ofInt_eq_signedLow (by decide), ← lo32_word, word_toInt]

theorem sllw_eq_word (a : Word) (n : Nat) : wRes (lo32 a <<< n) = word (signedLow 32 (a.toNat * 2 ^ n : Nat)) := by
  rw [← wRes_ofNat]
  congr 1
  apply BitVec.eq_of_toNat_eq
  rw [BitVec.toNat_shiftLeft, Nat.shiftLeft_eq, BitVec.toNat_ofNat, lo32, BitVec.toNat_setWidth, Nat.mod_mul_mod]

theorem srlw_eq_word (a : Word) (n : Nat) : wRes (lo32 a >>> n) = word (signedLow 32 (a.toNat % 2 ^ 32 / 2 ^ n : Nat)) := by
  rw [← wRes_ofNat]
  congr 1
  apply BitVec.eq_of_toNat_eq
  have hlt : a.toNat % 2 ^ 32 / 2 ^ n < 2 ^ 32 := Nat.lt_of_le_of_lt (Nat.div_le_self _ _) (Nat.mod_lt _ (by decide))
  rw [BitVec.toNat_ushiftRight, Nat.shiftRight_eq_div_pow, BitVec.toNat_ofNat, lo32, BitVec.toNat_setWidth,
    Nat.mod_eq_of_lt hlt]

theorem sraw_eq_word (a : Word) (n : Nat) :
    wRes ((lo32 a).sshiftRight n) = word (signedLow 32 (signedLow 32 a.toInt / (2 : Int) ^ n)) := by
  rw [← toInt_lo32, ← signExtend_ofInt (by decide)]
  have h : (lo32 a).sshiftRight n = BitVec.ofInt 32 ((lo32 a).toInt / (2 : Int) ^ n) := by
    rw [← @BitVec.ofInt_toInt _ ((lo32 a).sshiftRight n), BitVec.toInt_sshiftRight, Int.shiftRight_eq_div_pow]; simp
  rw [h]; rfl

/-! ### Products and quotients -/

theorem mul_eq_word (a b : Word) : a * b = word (a.toInt * b.toInt) := by simp [word_mul]

theorem mulhu_eq_word (a b : Word) : hiMul a.toNat b.toNat = word (a.toNat * b.toNat / 2 ^ 64 : Nat) := by
  rw [Int.natCast_ediv, Int.natCast_mul]; rfl

theorem mulw_eq_word (a b : Word) : wRes (lo32 (a * b)) = word (signedLow 32 (a.toInt * b.toInt)) := by
  rw [mul_eq_word, wRes_lo32_word]

theorem madd_eq_word (a b c : Word) : a * b + c = word (a.toInt * b.toInt + c.toInt) := by simp [word_add, word_mul]

/-- The quotient that overflows is the dividend again, modulo 2^64 (R174). -/
theorem sdivW_eq_word (a b : Word) : sdivW a b = word (quotient a.toInt b.toInt) := by
  unfold sdivW quotient
  simp only [toInt_eq_zero_iff]
  split
  · rfl
  · split
    next h =>
      obtain ⟨ha, hb⟩ := h
      rw [ha, hb]; decide
    next => rfl

theorem sremW_eq_word (a b : Word) : sremW a b = word (remainder a.toInt b.toInt) := by
  unfold sremW remainder
  simp only [toInt_eq_zero_iff]
  split
  · rw [word_toInt]
  · split
    next h =>
      obtain ⟨ha, hb⟩ := h
      rw [ha, hb]; decide
    next => rfl

theorem udivW_eq_word (a b : Word) : udivW a b = word (if b.toNat = 0 then -1 else (a.toNat / b.toNat : Nat)) := by
  simp only [udivW, toNat_eq_zero_iff]
  split
  · rfl
  · rw [word_natCast]

theorem uremW_eq_word (a b : Word) : uremW a b = word (if b.toNat = 0 then a.toNat else a.toNat % b.toNat : Nat) := by
  simp only [uremW, toNat_eq_zero_iff]
  split
  · rw [word_toNat]
  · rw [word_natCast]

/-! ### Bit fields -/

theorem leadingZeros_zero : leadingZeros 0 = 64 := by decide

theorem leadingZeros_eq_log2 {v : Nat} (h0 : v ≠ 0) (h : v < 2 ^ 64) : leadingZeros v = 63 - Nat.log2 v := by
  have hl : Nat.log2 v < 64 := (Nat.log2_lt h0).2 h
  have hlen : 63 - Nat.log2 v < (List.range 64).length := by simp; omega
  rw [leadingZeros, List.findIdx_eq hlen]
  refine ⟨?_, fun j hj => ?_⟩
  · rw [List.getElem_range, show 63 - (63 - Nat.log2 v) = Nat.log2 v by omega]
    exact Nat.testBit_log2 h0
  · rw [List.getElem_range]
    exact Nat.testBit_lt_two_pow ((Nat.log2_lt h0).1 (by omega))

theorem clzW_eq_word (a : Word) : clzW a = word (leadingZeros a.toNat : Nat) := by
  unfold clzW
  split
  next h => rw [h]; exact congrArg (fun n : Nat => word n) leadingZeros_zero.symm
  next h => rw [leadingZeros_eq_log2 (mt (toNat_eq_zero_iff a).1 h) a.isLt, word_natCast]

theorem ctzW_eq_word (a : Word) : ctzW a = word (trailingZeros a.toNat : Nat) := by rw [word_natCast]; rfl

theorem length_filter_eq_sum {α : Type} (p : α → Bool) (l : List α) :
    (l.filter p).length = (l.map (fun x => b2n (p x))).sum := by
  induction l with
  | nil => rfl
  | cons x r ih => cases hp : p x <;> simp [hp, ih, b2n]; omega

theorem cpopW_eq_word (a : Word) : cpopW a = word (oneBits a.toNat : Nat) := by
  have hb : ∀ i, b2n (a.getLsbD i) = a.toNat / 2 ^ i % 2 := fun i => by
    rw [← BitVec.testBit_toNat, Nat.testBit_eq_decide_div_mod_eq, b2n]
    obtain h | h := Nat.mod_two_eq_zero_or_one (a.toNat / 2 ^ i) <;> simp [h]
  rw [word_natCast, oneBits, cpopW, length_filter_eq_sum]
  simp only [hb]

theorem leNat_reverse (l : List Byte) : leNat l.reverse = l.foldl (fun acc b => acc * 256 + b.toNat) 0 := by
  have hf : ∀ l, leNat l = l.foldr (fun b acc => acc * 256 + b.toNat) 0 := fun l => by
    induction l with
    | nil => rfl
    | cons b r ih => rw [leNat, ih, List.foldr_cons]; omega
  rw [hf, List.foldr_reverse]

theorem natLe_eq_map (n v : Nat) : natLe n v = (List.range n).map (fun i => BitVec.ofNat 8 (v / 256 ^ i)) := by
  induction n generalizing v with
  | zero => rfl
  | succ n ih => simp [natLe, ih, List.range_succ_eq_map, Nat.div_div_eq_div_mul, Nat.pow_succ, Nat.mul_comm]

theorem rev8W_eq_word (a : Word) : rev8W a = word (bytesReversed a.toNat : Nat) := by
  rw [word_natCast, rev8W, leNat_reverse, natLe_eq_map, List.foldl_map]
  rfl

theorem bext_eq_word (a : Word) (p n : Nat) : BitVec.ofNat 64 (getBits a p n) = word (a.toNat / 2 ^ p % 2 ^ n : Nat) := by
  rw [word_natCast, getBits, Nat.shiftRight_eq_div_pow]

theorem bexts_eq_word (a : Word) (p n : Nat) (hn : 0 < n) :
    sext64 n (a.toNat >>> p) = word (signedLow n (a.toNat / 2 ^ p : Nat)) := by
  rw [sext64, Nat.shiftRight_eq_div_pow, ← BitVec.ofInt_natCast, signExtend_ofInt hn]

theorem cutLen_pos (p l : Fin 64) : 0 < cutLen p l := by unfold cutLen; omega

theorem add_cutLen_le (p l : Fin 64) : p.val + cutLen p l ≤ 64 := by unfold cutLen; omega

/-- A number as the bits above, in and below a field. -/
theorem eq_field_parts (v p n : Nat) : v = 2 ^ (p + n) * (v / 2 ^ (p + n)) + (2 ^ p * (v / 2 ^ p % 2 ^ n) + v % 2 ^ p) := by
  have h1 := Nat.div_add_mod v (2 ^ p)
  have h2 := Nat.div_add_mod (v / 2 ^ p) (2 ^ n)
  rw [Nat.div_div_eq_div_mul, ← Nat.pow_add] at h2
  calc v = 2 ^ p * (2 ^ n * (v / 2 ^ (p + n)) + v / 2 ^ p % 2 ^ n) + v % 2 ^ p := by rw [h2, h1]
    _ = _ := by rw [Nat.mul_add, ← Nat.mul_assoc, ← Nat.pow_add, Nat.add_assoc]

/-- A field of a number replaced, in numbers. -/
theorem toNat_putBits (d : Word) (p n v : Nat) (h : p + n ≤ 64) :
    (putBits d p n v).toNat = 2 ^ (p + n) * (d.toNat / 2 ^ (p + n)) + (2 ^ p * (v % 2 ^ n) + d.toNat % 2 ^ p) := by
  have hlo : d.toNat % 2 ^ p < 2 ^ p := Nat.mod_lt _ (Nat.two_pow_pos _)
  have hmid : 2 ^ p * (v % 2 ^ n) + d.toNat % 2 ^ p < 2 ^ (p + n) := by
    have hv : v % 2 ^ n + 1 ≤ 2 ^ n := Nat.mod_lt _ (Nat.two_pow_pos _)
    calc _ < 2 ^ p * (v % 2 ^ n) + 2 ^ p := Nat.add_lt_add_left hlo _
      _ = 2 ^ p * (v % 2 ^ n + 1) := (Nat.mul_succ _ _).symm
      _ ≤ 2 ^ p * 2 ^ n := Nat.mul_le_mul_left _ hv
      _ = _ := (Nat.pow_add _ _ _).symm
  apply Nat.eq_of_testBit_eq
  intro i
  rw [Nat.testBit_two_pow_mul_add _ hmid, Nat.testBit_two_pow_mul_add _ hlo, BitVec.testBit_toNat]
  by_cases hi : i < 64
  · rw [getLsbD_putBits _ _ _ _ _ hi]
    by_cases h1 : i < p
    · simp [h1, Nat.not_le.2 h1, show i < p + n by omega, BitVec.testBit_toNat]
    · by_cases h2 : i < p + n
      · simp [h1, h2, Nat.not_lt.1 h1, show i - p < n by omega]
      · simp [h2, Nat.testBit_div_two_pow, BitVec.testBit_toNat, show i - (p + n) + (p + n) = i by omega]
  · simp [show ¬ i < p + n by omega, Nat.testBit_div_two_pow, BitVec.testBit_toNat, show i - (p + n) + (p + n) = i by omega,
      BitVec.getLsbD_of_ge _ i (Nat.not_lt.1 hi)]

theorem bins_eq_word (d : Word) (p n v : Nat) (h : p + n ≤ 64) :
    putBits d p n v = word (d.toNat - (d.toNat / 2 ^ p % 2 ^ n) * 2 ^ p + (v % 2 ^ n) * 2 ^ p : Nat) := by
  rw [← word_toNat (putBits d p n v), toNat_putBits d p n v h]
  have hd := eq_field_parts d.toNat p n
  congr 2
  rw [Nat.mul_comm (d.toNat / 2 ^ p % 2 ^ n), Nat.mul_comm (v % 2 ^ n)]
  omega

/-! ### Immediates and addresses -/

theorem setWidth_eq_word {n : Nat} (a : BitVec n) : a.setWidth 64 = word (a.toNat : Int) := by
  rw [word_natCast, BitVec.ofNat_toNat]

theorem lih_eq_word (a : Word) (imm : BitVec 32) :
    (imm.setWidth 64 <<< 32) + (lo32 a).setWidth 64 = word (imm.toNat * 2 ^ 32 + a.toNat % 2 ^ 32 : Nat) := by
  have hi : (imm.setWidth 64).toNat = imm.toNat := BitVec.toNat_setWidth_of_le (by decide)
  rw [Int.natCast_add, word_add, shiftLeft_eq_word, hi, setWidth_eq_word (lo32 a), lo32, BitVec.toNat_setWidth]

theorem lea_eq_word (a x : Word) (n : Nat) : a + x <<< n = word (a.toNat + x.toNat * 2 ^ n : Nat) := by
  rw [Int.natCast_add, word_add, word_toNat, shiftLeft_eq_word]

/-- The code address of a line offset and slot (R160). -/
theorem target_eq_word (pc : Word) (imm : BitVec 32) (slot : Slot) :
    target pc imm slot = word (((pc.toNat / 64 : Nat) + imm.toInt) * 64 + slot.val) := by
  have hl : word (pc.toNat / 64 : Nat) = pc >>> 6 := (ushiftRight_eq_word pc 6).symm
  have hm : ∀ x : Word, x <<< 6 = x * word 64 := fun x => by rw [BitVec.shiftLeft_eq_mul_twoPow]; rfl
  rw [word_add, word_mul, word_add, hl, ← hm, word_natCast]
  rfl

end Sys2Proof.Machine
end

section
/-! PROOF. The results of the scalar instructions (R171 to R176): what each operation writes is the word of its rule. -/

namespace Sys2Proof.Machine

/-! ### The instructions -/

/-- An instruction whose result is the value it writes. -/
theorem exec_value {i : Instr} {s : State} {d d' : XReg} {u v w : Word} {p q : Bool}
    (hi : exec i s = .next (retire s (s.setX d u p))) (h : some (d, v, p) = some (d', w, q)) (hv : u = v) :
    exec i s = .next (retire s (s.setX d' w q)) := by
  cases h
  rw [hi, hv]

/-- An operation of one source whose result is what its function gives. -/
theorem exec_one {i : Instr} {s : State} {d a d' : XReg} {f : Word → Word} {v w : Word} {q : Bool}
    (hi : exec i s = .next (unaryOp d a f s)) (h : some (d, v, poisX s.hart a) = some (d', w, q)) (hf : f (s.x a) = v) :
    exec i s = .next (retire s (s.setX d' w q)) :=
  exec_value hi h hf

/-- An operation of two sources whose result is what its function gives. -/
theorem exec_two {i : Instr} {s : State} {d a d' : XReg} {b : SrcB} {f : Word → Word → Word} {v w : Word} {q : Bool}
    (hi : exec i s = .next (aluOp d a b f s)) (h : some (d, v, poisX s.hart a || poisB s.hart b) = some (d', w, q))
    (hf : f (s.x a) (opB s.hart b) = v) : exec i s = .next (retire s (s.setX d' w q)) :=
  exec_value hi h hf

theorem scalarAddLogicCompare : Claim.ScalarAddLogicCompare := by
  intro i s d v p h
  cases i with
  | add d a b => exact exec_two rfl h (add_eq_word _ _)
  | sub d a b => exact exec_two rfl h (sub_eq_word _ _)
  | and_ d a b => exact exec_two rfl h rfl
  | or_ d a b => exact exec_two rfl h rfl
  | xor_ d a b => exact exec_two rfl h rfl
  | andn d a b => exact exec_two rfl h rfl
  | addw d a b => exact exec_two rfl h (addw_eq_word _ _)
  | subw d a b => exact exec_two rfl h (subw_eq_word _ _)
  | min_ d a b => exact exec_two rfl h (min_eq_word _ _)
  | max_ d a b => exact exec_two rfl h (max_eq_word _ _)
  | minu d a b => exact exec_two rfl h (minu_eq_word _ _)
  | maxu d a b => exact exec_two rfl h (maxu_eq_word _ _)
  | seq d a b => exact exec_two rfl h (boolW_eq_relWord (by simp))
  | sne d a b => exact exec_two rfl h (boolW_eq_relWord (by simp))
  | slt d a b => exact exec_two rfl h (boolW_eq_relWord BitVec.slt_iff_toInt_lt)
  | sltu d a b => exact exec_two rfl h (boolW_eq_relWord BitVec.ult_iff_lt)
  | sge d a b => exact exec_two rfl h (boolW_eq_relWord (by simp [sx, sb, BitVec.slt_eq_decide]))
  | sgeu d a b => exact exec_two rfl h (boolW_eq_relWord (by simp [ux, ub, BitVec.ult_eq_decide]))
  | sel d c a b => exact exec_value rfl h (sel_eq _ _ _)
  | _ => cases h

theorem scalarShifts : Claim.ScalarShifts := by
  intro i s d v p h
  cases i with
  | sll d a b => exact exec_two rfl h (shiftLeft_eq_word _ _)
  | srl d a b => exact exec_two rfl h (ushiftRight_eq_word _ _)
  | sra d a b => exact exec_two rfl h (sshiftRight_eq_word _ _)
  | rol d a b => exact exec_two rfl h (rol_eq_word _ _)
  | ror d a b => exact exec_two rfl h (ror_eq_word _ _)
  | sllw d a b => exact exec_two rfl h (sllw_eq_word _ _)
  | srlw d a b => exact exec_two rfl h (srlw_eq_word _ _)
  | sraw d a b => exact exec_two rfl h (sraw_eq_word _ _)
  | _ => cases h

theorem scalarMultiplyDivide : Claim.ScalarMultiplyDivide := by
  intro i s d v p h
  cases i with
  | mul d a b => exact exec_two rfl h (mul_eq_word _ _)
  | mulh d a b => exact exec_two rfl h rfl
  | mulhu d a b => exact exec_two rfl h (mulhu_eq_word _ _)
  | mulhsu d a b => exact exec_two rfl h rfl
  | mulw d a b => exact exec_two rfl h (mulw_eq_word _ _)
  | madd d a b c => exact exec_value rfl h (madd_eq_word _ _ _)
  | div d a b => exact exec_two rfl h (sdivW_eq_word _ _)
  | divu d a b => exact exec_two rfl h (udivW_eq_word _ _)
  | rem d a b => exact exec_two rfl h (sremW_eq_word _ _)
  | remu d a b => exact exec_two rfl h (uremW_eq_word _ _)
  | _ => cases h

theorem scalarBitsAndImmediates : Claim.ScalarBitsAndImmediates := by
  intro i s d v p h
  cases i with
  | clz d a => exact exec_one rfl h (clzW_eq_word _)
  | ctz d a => exact exec_one rfl h (ctzW_eq_word _)
  | cpop d a => exact exec_one rfl h (cpopW_eq_word _)
  | rev8 d a => exact exec_one rfl h (rev8W_eq_word _)
  | bext d a p l => exact exec_one rfl h (bext_eq_word _ _ _)
  | bexts d a p l => exact exec_one rfl h (bexts_eq_word _ _ _ (cutLen_pos p l))
  | bins d a p l => exact exec_value rfl h (bins_eq_word _ _ _ _ (add_cutLen_le p l))
  | li d imm => exact exec_value rfl h rfl
  | lih d a imm => exact exec_one rfl h (lih_eq_word _ _)
  | lea d a x sh => exact exec_value rfl h (lea_eq_word _ _ _)
  | lca d slot imm => exact exec_value rfl h (target_eq_word _ _ _)
  | _ => cases h

/-- Settles O11: one case per instruction, each closed by the law of its operation on words. -/
theorem scalarLogicAndShifts : Obligations.ScalarLogicAndShifts := ⟨scalarAddLogicCompare, scalarShifts⟩

/-- Settles O12: one case per instruction, each closed by the law of its operation on words. -/
theorem scalarProductsAndBits : Obligations.ScalarProductsAndBits := ⟨scalarMultiplyDivide, scalarBitsAndImmediates⟩

end Sys2Proof.Machine
end

section
/-! PROOF. Jumps, calls, branches and loops (R185 to R191): every transfer is a range check and then a transfer. -/

namespace Sys2Proof.Machine

/-! ### Consumption and range checks -/

theorem consume_poisoned {s : State} {rs : List XReg} {r : XReg} (hr : r ∈ rs) (hp : poisX s.hart r = true)
    (k : State → State) : consume s rs k = poisonKill s :=
  if_pos (List.any_eq_true.2 ⟨r, hr, hp⟩)

theorem consume_clean {s : State} {rs : List XReg} (h : ∀ r ∈ rs, poisX s.hart r = false) (k : State → State) :
    consume s rs k = k s :=
  if_neg (by simpa using h)

theorem consume_one_clean {s : State} {r : XReg} (h : poisX s.hart r = false) (k : State → State) :
    consume s [r] k = k s :=
  consume_clean (by simpa using h) k

theorem wide_iff_beyond (t : Word) : wide t = true ↔ beyond t := by
  rw [wide, bne_iff_ne, ne_eq, ← toNat_eq_zero_iff, BitVec.toNat_ushiftRight, Nat.shiftRight_eq_div_pow, beyond]
  omega

theorem goTo_beyond {t : Word} (h : beyond t) (s : State) (link : State → State) : goTo s t link = takeTrap s 0x0008 t :=
  if_pos ((wide_iff_beyond t).2 h)

theorem goTo_inRange {t : Word} (h : ¬ beyond t) (s : State) (link : State → State) : goTo s t link = transfer (link s) t :=
  if_neg (mt (wide_iff_beyond t).1 h)

theorem target_eq_relTarget (s : State) (k : Slot) (o : BitVec 32) : target s.hart.pc o k = relTarget s k o :=
  target_eq_word _ _ _

/-! ### Transfers through a register -/

/-- The field and slot checks of a register form, with its range check. -/
theorem codeOk_iff (t : Word) : CodeOk t ↔ ¬ (bits t.toNat 5 3 ≠ 0 ∨ 4 < slotOf t) ∧ ¬ beyond t := by
  simp only [CodeOk, beyond, bits, slotOf, Nat.shiftRight_eq_div_pow]
  omega

theorem goReg_poisoned {s : State} {a : XReg} (h : poisX s.hart a = true) (link : State → State) :
    goReg s a link = poisonKill s :=
  consume_poisoned (List.mem_singleton_self a) h _

theorem goReg_codeOk {s : State} {a : XReg} (hp : poisX s.hart a = false) (h : CodeOk (s.x a)) (link : State → State) :
    goReg s a link = transfer (link s) (s.x a) := by
  obtain ⟨hf, hb⟩ := (codeOk_iff _).1 h
  rw [goReg, consume_one_clean hp, if_neg hf, goTo_inRange hb]

theorem goReg_faults {s : State} {a : XReg} (hp : poisX s.hart a = false) (h : ¬ CodeOk (s.x a)) (link : State → State) :
    goReg s a link = takeTrap s 0x0008 (s.x a) := by
  rw [goReg, consume_one_clean hp]
  by_cases hf : bits (s.x a).toNat 5 3 ≠ 0 ∨ 4 < slotOf (s.x a)
  · rw [if_pos hf]
  · rw [if_neg hf, goTo_beyond (Classical.byContradiction fun hb => h ((codeOk_iff _).2 ⟨hf, hb⟩))]

/-! ### Jumps and calls -/

theorem exec_j (k : Slot) (o : BitVec 32) (s : State) : exec (.j k o) s = .next (goTo s (relTarget s k o) id) := by
  rw [← target_eq_relTarget]; rfl

theorem exec_call (d : XReg) (k : Slot) (o : BitVec 32) (s : State) :
    exec (.call d k o) s = .next (goTo s (relTarget s k o) (writeLink d)) := by
  rw [← target_eq_relTarget]; rfl

theorem exec_jr (a : XReg) (s : State) : exec (.jr a) s = .next (goReg s a id) := rfl

theorem exec_ret (a : XReg) (s : State) : exec (.ret a) s = .next (goReg s a id) := rfl

theorem exec_callr (d a : XReg) (s : State) : exec (.callr d a) s = .next (goReg s a (writeLink d)) := rfl

theorem jumpsAndCalls : Claim.JumpsAndCalls := by
  intro s d a k o
  rw [exec_j, exec_call, exec_jr, exec_ret, exec_callr]
  refine ⟨fun h => ?_, fun h => ?_, fun hp h => ?_, fun hp h => ?_, fun hp => ?_⟩
  · rw [goTo_inRange h, goTo_inRange h]; exact ⟨rfl, rfl⟩
  · rw [goTo_beyond h, goTo_beyond h]; exact ⟨rfl, rfl⟩
  · rw [goReg_codeOk hp h, goReg_codeOk hp h]; exact ⟨rfl, rfl, rfl⟩
  · rw [goReg_faults hp h, goReg_faults hp h]; exact ⟨rfl, rfl, rfl⟩
  · rw [goReg_poisoned hp, goReg_poisoned hp]; exact ⟨rfl, rfl, rfl⟩

/-! ### Conditional branches -/

/-- What a branch does when its operands are clean, by whether its relation holds. -/
theorem branchOp_clean {s : State} {a b : XReg} (ha : poisX s.hart a = false) (hb : poisX s.hart b = false)
    (k : Slot) (o : BitVec 32) (cond : Word → Word → Bool) :
    branchOp s a b k o cond = if cond (s.x a) (s.x b) then goTo s (relTarget s k o) id else retire s s := by
  rw [branchOp, consume_clean (by simp [ha, hb]), target_eq_relTarget]

/-- A branch runs its operation, whose relation is the one of the rule. -/
theorem exec_branch {i : Instr} {s : State} {a b : XReg} {k : Slot} {o : BitVec 32} {c : Bool}
    (h : branchRule s i = some (a, b, k, o, c)) :
    ∃ cond, exec i s = .next (branchOp s a b k o cond) ∧ cond (s.x a) (s.x b) = c := by
  cases i with
  | beq a b k o => cases h; exact ⟨_, rfl, rfl⟩
  | bne a b k o => cases h; exact ⟨_, rfl, decide_not.symm⟩
  | blt a b k o => cases h; exact ⟨_, rfl, BitVec.slt_eq_decide⟩
  | bge a b k o => cases h; exact ⟨_, rfl, BitVec.sle_eq_not_slt.symm⟩
  | bltu a b k o => cases h; exact ⟨_, rfl, BitVec.ult_eq_decide⟩
  | bgeu a b k o => cases h; exact ⟨_, rfl, (BitVec.ule_eq_not_ult _ _).symm⟩
  | _ => cases h

theorem branches : Claim.Branches := by
  intro i s a b k o c h
  obtain ⟨cond, hi, hc⟩ := exec_branch h
  rw [hi]
  refine ⟨fun hp => ?_, fun ha hb => ⟨fun h1 hr => ?_, fun h1 hr => ?_, fun h0 => ?_⟩⟩
  · obtain hp | hp := hp <;> rw [branchOp, consume_poisoned (by simp) hp]
  · rw [branchOp_clean ha hb, hc, if_pos h1, goTo_inRange hr]; rfl
  · rw [branchOp_clean ha hb, hc, if_pos h1, goTo_beyond hr]
  · rw [branchOp_clean ha hb, hc, h0, if_neg Bool.false_ne_true]

/-- Settles O19: jumps and calls by the range check of their target, a branch by its relation. -/
theorem controlTransfers : Obligations.ControlTransfers := ⟨jumpsAndCalls, branches⟩

/-! ### Loops -/

/-- The registers that a loop set-up gives (R189). -/
def loopGiven (s : State) (a : XReg) (k : Slot) (o : BitVec 32) : LoopRegs :=
  { lc := s.x a, lb := nextSlot s.hart.pc, le := relTarget s k o, lbP := none, leP := none }

/-- A loop set-up with a clean count, by its checks in order. -/
theorem loopSetUp_clean {s : State} {a : XReg} (h : poisX s.hart a = false) (n : Bool) (k : Slot) (o : BitVec 32) :
    loopSetUp s n a k o =
      if wide (relTarget s k o) then takeTrap s 0x0008 (relTarget s k o)
      else if s.x a = 0 then
        goTo s (nextSlot (relTarget s k o)) (fun s => s.onHart (fun h => setLoop h n (loopGiven s a k o)))
      else retire s (s.onHart (fun h => setLoop h n (loopGiven s a k o))) := by
  rw [loopSetUp, consume_one_clean h, target_eq_relTarget]; rfl

theorem exec_loop (n : Bool) (a : XReg) (k : Slot) (o : BitVec 32) (s : State) :
    exec (if n then .loop1 a k o else .loop0 a k o) s = .next (loopSetUp s n a k o) := by
  cases n <;> rfl

theorem exec_lpexit (n : Bool) (s : State) :
    exec (if n then .lpexit1 else .lpexit0) s =
      .next (retire s (s.onHart (fun h => setLoop h n (loopOff (loopOf s.hart n))))) := by
  cases n <;> rfl

/-- Settles O20: the set-up by its range check and its count, the exit by the registers it leaves. -/
theorem loops : Obligations.Loops := by
  intro s a k o n i x hi hx
  rw [hi, hx, exec_loop, exec_lpexit]
  have hclean := fun hp : poisX s.hart a = false => loopSetUp_clean hp n k o
  have hfits := mt (wide_iff_beyond (relTarget s k o)).1
  refine ⟨fun hp hb => ?_, fun hp hb h0 => ?_, fun hp h0 hb hn => ?_, fun hp h0 hb hn => ?_, fun hp => ?_, ?_⟩
  · rw [hclean hp, if_pos ((wide_iff_beyond _).2 hb)]
  · rw [hclean hp, if_neg (hfits hb), if_neg h0]; rfl
  · rw [hclean hp, if_neg (hfits hb), if_pos h0, goTo_beyond hn]
  · rw [hclean hp, if_neg (hfits hb), if_pos h0, goTo_inRange hn, loopGiven, h0]
  · rw [loopSetUp, consume_poisoned (List.mem_singleton_self a) hp]
  · refine ⟨loopOff (loopOf s.hart n), rfl, fun h => ?_, fun h => ?_, rfl⟩ <;> simp [loopOff, h]

end Sys2Proof.Machine
end

section
/-! SUPPORT. What the record of an event and the start of a kill leave: the focus hart, and of the contexts all but the kill. -/

namespace Sys2Proof.Machine

/-! ### The record of an event -/

/-- The second state differs from the first in memory and in what units of the package keep alone: the package's own
registers, the cores, the event sources and the packets sent. -/
def OnlyUnits (s t : State) : Prop :=
  ∃ m p co so se, t = { s with mem := m, pkg := p, cores := co, sources := so, sent := se }

theorem OnlyUnits.refl (s : State) : OnlyUnits s s := ⟨_, _, _, _, _, rfl⟩

theorem OnlyUnits.trans {s t u : State} (h : OnlyUnits s t) (g : OnlyUnits t u) : OnlyUnits s u := by
  obtain ⟨_, _, _, _, _, rfl⟩ := h
  obtain ⟨_, _, _, _, _, rfl⟩ := g
  exact ⟨_, _, _, _, _, rfl⟩

theorem OnlyUnits.hart {s t : State} (h : OnlyUnits s t) : t.hart = s.hart := by
  obtain ⟨_, _, _, _, _, rfl⟩ := h; rfl

theorem OnlyUnits.ctxs {s t : State} (h : OnlyUnits s t) : t.ctxs = s.ctxs := by
  obtain ⟨_, _, _, _, _, rfl⟩ := h; rfl

theorem OnlyUnits.ite {c : Prop} [Decidable c] {s t u : State} (h : OnlyUnits s t) (g : OnlyUnits s u) :
    OnlyUnits s (if c then t else u) := by
  split <;> assumption

theorem onlyUnits_putHomeByte (s : State) (k : KeyTag) (loc : Nat) (b : Byte) : OnlyUnits s (putHomeByte s k loc b) := by
  unfold putHomeByte
  split <;> exact ⟨_, _, _, _, _, rfl⟩

theorem onlyUnits_strongPut (s : State) (k : KeyTag) (loc : Nat) (bs : List Byte) (pubs : List Pub) :
    OnlyUnits s (strongPut s k loc bs pubs) := by
  have h : OnlyUnits s ((bs.zipIdx).foldl (fun st p => putHomeByte st k (loc + p.2) p.1) s) :=
    foldl_keeps (OnlyUnits s) _ _ _ (.refl s) (fun _ _ _ hx => hx.trans (onlyUnits_putHomeByte _ _ _ _))
  exact h.trans ⟨_, _, _, _, _, rfl⟩

theorem onlyUnits_devWrite (s : State) (dev pa : Nat) (bs : List Byte) : OnlyUnits s (devWrite s dev pa bs) :=
  foldl_keeps (OnlyUnits s) _ _ _ (.refl s) (fun x p _ hx => by
    split
    · exact hx.trans (onlyUnits_strongPut _ _ _ _ _)
    · exact hx)

theorem onlyUnits_notify (s : State) (dev head sev : Nat) : OnlyUnits s (notify s dev head sev) := by
  unfold notify
  exact .ite (.refl s) (.ite ⟨_, _, _, _, _, rfl⟩ ⟨_, _, _, _, _, rfl⟩)

theorem onlyUnits_appendRec (s : State) (e : EvRec) (seq : Nat) : OnlyUnits s (appendRec s e seq) := by
  unfold appendRec
  refine .ite (.refl s) (.ite (onlyUnits_devWrite _ _ _ _) (.trans ?_ (onlyUnits_notify _ _ _ _)))
  exact ((onlyUnits_devWrite _ _ _ _).trans (onlyUnits_devWrite _ _ _ _)).trans (onlyUnits_devWrite _ _ _ _)

theorem onlyUnits_setSrc (s : State) (x : Source) : OnlyUnits s (setSrc s x) := ⟨_, _, _, _, _, rfl⟩

theorem onlyUnits_closeOpen (s : State) (src : BitVec 16) : OnlyUnits s (closeOpen s src) := by
  unfold closeOpen
  dsimp only
  cases (findSrc s src).open_ with
  | none => exact .refl s
  | some p => exact (onlyUnits_setSrc _ _).trans (onlyUnits_appendRec _ _ _)

theorem onlyUnits_countEv (s : State) (e : EvRec) : OnlyUnits s (countEv s e) :=
  .ite (.refl s) (onlyUnits_devWrite _ _ _ _)

theorem onlyUnits_recordEv (s : State) (e : EvRec) : OnlyUnits s (recordEv s e) := by
  have h1 := onlyUnits_countEv s e
  have h2 := h1.trans (onlyUnits_closeOpen (countEv s e) e.src)
  have h3 := fun x n => (h2.trans (onlyUnits_setSrc _ x)).trans (onlyUnits_appendRec _ e n)
  unfold recordEv
  refine .ite (.refl s) (.ite ?_ (.ite ((h3 _ _).trans ⟨_, _, _, _, _, rfl⟩) (h3 _ _)))
  cases (findSrc (countEv s e) e.src).open_ with
  | none => exact h1.trans (onlyUnits_setSrc _ _)
  | some p =>
    have hs := fun x => h1.trans (onlyUnits_setSrc _ x)
    exact .ite (.ite ((hs _).trans (onlyUnits_closeOpen _ _)) (hs _)) (h2.trans (onlyUnits_setSrc _ _))

theorem onlyUnits_event (s : State) (src : BitVec 16) (cause sev : Nat) (ctx hart : Option Nat)
    (addr : Option (Nat × Nat)) (data : List Byte) (d : Bool) : OnlyUnits s (event s src cause sev ctx hart addr data d) :=
  onlyUnits_recordEv _ _

theorem onlyUnits_scrambleImage (s : State) (h : Hart) : OnlyUnits s (scrambleImage s h) := by
  unfold scrambleImage
  split
  · exact onlyUnits_devWrite _ _ _ _
  · exact onlyUnits_devWrite _ _ _ _
  · exact .refl s

/-! ### The start of a kill -/

/-- The kill of the context has begun. -/
def Dying (c : Nat) (s : State) : Prop := ∃ y, findCtx s c = some y ∧ y.kill.isSome = true

theorem Dying.of_ctxs_eq {c : Nat} {s t : State} (h : Dying c s) (e : t.ctxs = s.ctxs) : Dying c t := by
  rwa [Dying, findCtx, e]

/-- A context after a change that keeps its number. -/
theorem findCtx_modCtx (s : State) (c : Nat) {f : Ctx → Ctx} (hf : ∀ x, (f x).num = x.num) :
    findCtx (modCtx s c f) c = (findCtx s c).map f := by
  have hp : (fun x : Ctx => x.num == c) ∘ (fun x => if x.num == c then f x else x) = fun x => x.num == c := by
    funext x
    rw [Function.comp_apply]
    split
    · rw [hf]
    · rfl
  rw [findCtx, findCtx, modCtx_ctxs, updWhere, List.find?_map, hp]
  exact Option.map_congr fun x hx => if_pos (List.find?_some hx)

/-- A change of the context that leaves it dying. -/
theorem dying_modCtx {c : Nat} {s : State} {x : Ctx} {f : Ctx → Ctx} (h : findCtx s c = some x)
    (hn : ∀ x, (f x).num = x.num) (hk : (f x).kill.isSome = true) : Dying c (modCtx s c f) :=
  ⟨f x, by rw [findCtx_modCtx s c hn, h]; rfl, hk⟩

theorem dying_signalToken {c : Nat} {s : State} (h : Dying c s) (t : BitVec 32) (ok : Bool) :
    Dying c (signalToken s c t ok) := by
  obtain ⟨y, hy, hk⟩ := h
  unfold signalToken
  split
  · exact ⟨y, hy, hk⟩
  · exact dying_modCtx hy (fun _ => rfl) hk

@[simp] theorem signalToken_hart (s : State) (c : Nat) (t : BitVec 32) (ok : Bool) : (signalToken s c t ok).hart = s.hart := by
  unfold signalToken; split <;> rfl

/-- The stop of a hart that holds lanes leaves its core idle. -/
theorem onlyUnits_idleCore (s : State) (h : Hart) (f : Core → Core) :
    OnlyUnits s (if h.onCore then modCore (scrambleImage s h) h.id.die h.id.core f else scrambleImage s h) :=
  have hs := onlyUnits_scrambleImage s h
  .ite (hs.trans ⟨_, _, _, _, _, rfl⟩) hs

/-- After the start of a kill, the kill of the context has begun, now or before. -/
theorem dying_killStart {s : State} {c : Nat} {x : Ctx} (h : findCtx s c = some x) : Dying c (killStart s c) := by
  unfold killStart
  simp only [h]
  split
  next hk => exact ⟨x, h, hk⟩
  next =>
    refine Dying.of_ctxs_eq ?_ (mapHarts_ctxs _ _)
    refine foldl_keeps (Dying c) _ _ _ ?_ (fun t g _ ht => ht.of_ctxs_eq (onlyUnits_idleCore t g _).ctxs)
    refine Dying.of_ctxs_eq ?_ rfl
    refine foldl_keeps (Dying c) _ _ _ ?_ (fun t g _ ht => dying_signalToken ht _ _)
    have hd := dying_modCtx (f := fun x => { x with kill := some s.cycle }) h (fun _ => rfl) rfl
    exact hd.of_ctxs_eq rfl

theorem killHart_life (h : Hart) : (killHart h).st.life = .killed := rfl

/-- A hart that is killed stays killed. -/
theorem killStart_keeps_killed {s : State} (c : Nat) (h : s.hart.st.life = .killed) :
    (killStart s c).hart.st.life = .killed := by
  unfold killStart
  split
  · exact h
  · split
    · exact h
    · rw [mapHarts_hart]
      split
      · exact killHart_life _
      · refine foldl_keeps (fun t : State => t.hart.st.life = .killed) _ _ _ ?_
          (fun t g _ ht => by rw [(onlyUnits_idleCore t g _).hart]; exact ht)
        exact foldl_keeps (fun t : State => t.hart.st.life = .killed) _ _ _ h (fun t g _ ht => by simpa using ht)

end Sys2Proof.Machine
end

section
/-! PROOF. Traps and returns (R194 to R196, R401, R403). -/

namespace Sys2Proof.Machine

/-! ### What a change of the hart leaves of memory -/

/-- A change of the hart that keeps its stores and its snapshot keeps every byte as before. -/
theorem sameBytes_of_hart {s : State} {h : Hart} (ho : h.own = s.hart.own) (hs : h.snap = s.hart.snap) :
    SameBytes s { s with hart := h } :=
  fun k a => ⟨rfl, by simp only [viewByte, ovByte, snapByte, ho, hs]⟩

/-! ### The entry of a trap -/

theorem takeTrap_entry {s : State} (h : s.hart.st.fresh = true → s.hart.pc ≠ s.hart.trap.tvec) (c : Nat) (v : Word) :
    takeTrap s c v = { s with hart := trapEntry s.hart c v s.hart.pc } := by
  rw [takeTrap, takeTrapAt, if_neg (by simpa using h)]; rfl

theorem takeTrap_double {s : State} (hf : s.hart.st.fresh = true) (hp : s.hart.pc = s.hart.trap.tvec) (c : Nat) (v : Word) :
    takeTrap s c v = doubleTrap s := by
  rw [takeTrap, takeTrapAt, if_pos (by simp [hf, hp])]

theorem takeTrap_trapEntry : Claim.TrapEntry := by
  intro s c v h
  rw [takeTrap_entry h]
  exact ⟨trapEntry s.hart c v s.hart.pc, rfl, rfl, rfl, rfl, rfl, rfl, rfl, rfl, rfl, rfl, rfl, rfl, rfl, rfl, rfl, rfl, rfl,
    rfl, rfl, rfl, rfl, rfl, rfl, rfl, sameBytes_of_hart rfl rfl⟩

/-! ### The double trap -/

/-- The double trap of a hart of a context: the stop of the hart, the record, and the kill (R403). -/
theorem doubleTrap_ofContext {s : State} (h : s.hart.id.ctx ≠ 0) :
    ∃ t, OnlyUnits (s.onHart (fun h => { h with st := { h.st with life := .killed, asleep := none } })) t
      ∧ doubleTrap s = killStart t s.hart.id.ctx := by
  refine ⟨_, ?_, if_neg h⟩
  exact onlyUnits_event ..

theorem takeTrap_doubleTrap : Claim.DoubleTrap := by
  intro s c v hf hp
  refine ⟨takeTrap_double hf hp c v, fun hc => ?_⟩
  obtain ⟨t, ht, he⟩ := doubleTrap_ofContext hc
  rw [he]
  refine ⟨killStart_keeps_killed _ (by rw [ht.hart]; rfl), fun x hx => dying_killStart (x := x) ?_⟩
  rwa [findCtx, ht.ctxs]

/-! ### System call and breakpoint -/

theorem not_endsAt {l : LoopRegs} {pc : Word} (h : ¬ EndsAt l pc) : l.lc = 0 ∨ pc ≠ l.le :=
  Classical.or_iff_not_imp_left.2 fun hc he => h ⟨hc, he⟩

/-- An end check that goes back is made, and goes back to the loop's begin slot. -/
theorem loopEnd_back {l l' : LoopRegs} {pc t : Word} (h : loopEnd l pc = some (l', some t)) :
    EndsAt l pc ∧ t = l.lbP.getD l.lb := by
  unfold loopEnd at h
  split at h
  · cases h
  next hm =>
    split at h <;> cases h
    rw [not_or] at hm
    obtain ⟨hc, he⟩ := hm
    exact ⟨⟨hc, Classical.not_not.1 he⟩, rfl⟩

theorem endCheck_back {h h' : Hart} {pc t : Word} (e : endCheck h pc = .back h' t) :
    ∃ l, (l = h.loop1 ∨ l = h.loop0) ∧ EndsAt l pc ∧ t = l.lbP.getD l.lb := by
  rcases hl : loopEnd h.loop1 pc with _ | ⟨l, _ | u⟩ <;> simp only [endCheck, hl] at e
  case some.some =>
    cases e
    exact ⟨_, .inl rfl, loopEnd_back hl⟩
  all_goals
    split at e <;> cases e
    next he => exact ⟨_, .inr rfl, loopEnd_back he⟩

/-- A loop-back inside the address range passes its range check. -/
theorem endCheck_back_inRange {h h' : Hart} {t : Word} (hr : EndInRange h) (e : endCheck h h.pc = .back h' t) :
    ¬ wide t = true := by
  obtain ⟨l, hl, he, rfl⟩ := endCheck_back e
  rw [wide_iff_beyond, beyond, Nat.not_le]
  exact hr l hl he

theorem NoEnd.endInRange {h : Hart} (hn : NoEnd h) : EndInRange h := by
  obtain ⟨h1, h0⟩ := hn
  rintro l (rfl | rfl) he
  · exact absurd he h1
  · exact absurd he h0

theorem exec_sys_inRange {s : State} (h : EndInRange s.hart) (imm : BitVec 32) :
    exec (.sys imm) s = .next (takeTrap (retire s s) 0x001A (word imm.toNat)) := by
  rw [← setWidth_eq_word]
  show execSys imm s = _
  unfold execSys
  split
  next e => rw [if_neg (endCheck_back_inRange h e)]
  next => rfl

theorem systemCallAndBreakpoint : Claim.SystemCallAndBreakpoint := by
  intro s imm
  refine ⟨?_, fun h => exec_sys_inRange h imm, fun h => ?_⟩
  · rw [← setWidth_eq_word]; rfl
  · have hr := h.endInRange
    obtain ⟨h1, h0⟩ := h
    rw [exec_sys_inRange hr, retire_seq s s (not_endsAt h1) (not_endsAt h0),
      takeTrap_entry (fun hf => Bool.noConfusion hf)]
    exact ⟨_, rfl, rfl, rfl, rfl, rfl, rfl⟩

/-- Settles O21: the entry by the registers it changes, the double trap by the kill it starts, `sys` by its end check. -/
theorem trapsTaken : Obligations.TrapsTaken := ⟨takeTrap_trapEntry, takeTrap_doubleTrap, systemCallAndBreakpoint⟩

/-! ### Returns -/

theorem exec_tret {s : State} (h : s.hart.st.priv = true) :
    exec .tret s = .next { s with hart := retireMarks (nsNow s) (trapReturn s.hart) } :=
  congrArg _ (if_pos h)

/-- The hart goes on at `pc`, entered from `entry`, with these completion registers. -/
def resumesAt (s : State) (pc : Word) (entry : Option Word) (u : UiRegs) : State :=
  { s with hart := retireMarks (nsNow s) { s.hart with ui := u, pc := pc, st := { s.hart.st with entry := entry } } }

theorem exec_uiret_outside {s : State} (h : s.hart.ui.act = false) {w : BitVec 96} (hw : encode .uiret = some w) :
    exec .uiret s = .next (takeTrap s 0x0001 (w.setWidth 64)) := by
  cases hw
  exact congrArg _ (if_pos h)

/-- `uiret` in a handler: the pending completion is delivered where it may be, else the handler is left. -/
theorem exec_uiret_inHandler {s : State} (h : s.hart.ui.act = true) :
    exec .uiret s = .next (
      if s.hart.ui.pend && s.hart.ui.en then
        if wide s.hart.ui.uivec then takeTrap s 0x0008 s.hart.ui.uivec
        else resumesAt s s.hart.ui.uivec (some s.hart.ui.uipc) { s.hart.ui with pend := false }
      else resumesAt s s.hart.ui.uipc none { s.hart.ui with act := false }) :=
  congrArg _ (if_neg (by simp [h]))

/-- Settles O22: each return by the checks it makes, in their order. -/
theorem returns : Obligations.Returns := by
  intro s
  refine ⟨fun hp => ?_, fun ha w hw => exec_uiret_outside ha hw, fun ha hd he hv => ?_, fun ha hd he hv => ?_, fun ha hd => ?_⟩
  · exact ⟨_, exec_tret hp, rfl, rfl, rfl, rfl, rfl, rfl, rfl, rfl, rfl, rfl, rfl, sameBytes_of_hart rfl rfl⟩
  · rw [exec_uiret_inHandler ha, if_pos (by simp [hd, he]), if_neg (mt (wide_iff_beyond _).1 (Nat.not_le.2 hv))]
    exact ⟨_, rfl, rfl, rfl, rfl, rfl, rfl, rfl, rfl⟩
  · rw [exec_uiret_inHandler ha, if_pos (by simp [hd, he]), if_pos ((wide_iff_beyond _).2 hv)]
  · have hn : ¬ (s.hart.ui.pend && s.hart.ui.en) = true := by
      obtain hd | hd := hd <;> simp [hd]
    rw [exec_uiret_inHandler ha, if_neg hn]
    exact ⟨_, rfl, rfl, rfl, rfl, rfl, rfl, rfl, rfl⟩

end Sys2Proof.Machine
end
